-- ==== Sys2Proof/Word.lean ====
section
/-! DEFINITION. The words and tables of the TD4096 model: widths of R3, R5, R16, and the sparse table type
in which every memory, register file and counter file of State is held. -/

namespace Sys2Proof

/-- A host-visible register word (R5) or a sample container (R16). -/
abbrev Word := BitVec 32

/-- One byte of a frame, bitstream or buffer. -/
abbrev Byte := BitVec 8

/-- A value of the global time-stamp counter, in grains (R3, R334). -/
abbrev Gts := BitVec 64

/-- A BAR0 byte offset (R422). -/
abbrev Off := BitVec 24

/-- A sparse table: pairs of a key and a value, keys strictly rising, no value equal to the table's default. -/
abbrev Tbl (α : Type) := List (Nat × α)

/-- Little-endian value of a list of bytes. -/
def leNat : List Byte → Nat
  | [] => 0
  | b :: bs => b.toNat + 256 * leNat bs

/-- Big-endian value of a list of bytes. -/
def beNat (bs : List Byte) : Nat := leNat bs.reverse

/-- The `k` little-endian bytes of a number. -/
def toLe : Nat → Nat → List Byte
  | 0, _ => []
  | k + 1, n => BitVec.ofNat 8 n :: toLe k (n / 256)

/-- The `k` big-endian bytes of a number. -/
def toBe (k n : Nat) : List Byte := (toLe k n).reverse

end Sys2Proof
end

