-- ==== Sys2Proof/Syntax.lean ====
section
/-! DEFINITION. The commands of the TD4096 block: one constructor for each row of opcode_table.json, and the
operand types. Every command carries the GTS of its event (R26), in `t` or in the `Issue` of a Geldin instruction. -/

namespace Sys2Proof

/-- Who issues a bus access (R28, R359). The management SPI has no source number of its own. -/
inductive Master where
  | host | spi | debug | supervisor | trust
  deriving DecidableEq, Repr

/-- One of the four network ports (R66). -/
abbrev PortId := Fin 4

/-- One of the 80 Geldin cores: 5 x holm + core, source 32 + id (R28). -/
abbrev CoreId := Fin 80

/-- The leg of a receive stream, or a media network (R67). -/
inductive Leg where
  | red | blue
  deriving DecidableEq, Repr

/-- What goes wrong physically while a core executes one instruction (R181, R209, R352, R353). -/
inductive CoreFault where
  | none
  | residue     -- a residue or parity mismatch (R210)
  | eccRead     -- a load reads an uncorrectable word and waits for its retry (R184)
  | ibufEcc     -- an uncorrectable word in the instruction buffer (R352)
  | progBad     -- the fetch of an uncorrectable, unrepaired program word (R353)
  deriving DecidableEq, Repr

/-- The issue of one Geldin instruction: when, on which core, and what the detectors of the core report. -/
structure Issue where
  t : Gts
  core : CoreId
  fault : CoreFault := .none
  deriving DecidableEq, Repr

/-- How the product of two 24-bit operands reads them (R198). -/
inductive MulMode where
  | signed | su | uu
  deriving DecidableEq, Repr

/-- Operand fields of a MAC-group word (R223). -/
structure MacOps where
  sm : MulMode
  dual : Bool
  aa : BitVec 2
  x0 : BitVec 3
  y0 : BitVec 3
  x1 : BitVec 3
  y1 : BitVec 3
  ab : BitVec 2
  deriving DecidableEq, Repr

/-- The two parallel loads of a TAP-group word (R224): pointers, modes 0-3 and no-flag bits. -/
structure TapLoads where
  p0 : BitVec 3
  m0 : BitVec 2
  p1 : BitVec 3
  m1 : BitVec 2
  nf0 : Bool
  nf1 : Bool
  deriving DecidableEq, Repr

/-- Operand fields of an ALU-group word (R228). -/
structure AluOps where
  form : BitVec 2
  dst : BitVec 3
  s1 : BitVec 3
  s2 : BitVec 3
  ci : Bool
  cnt : BitVec 6
  deriving DecidableEq, Repr

/-- Operand fields of a memory-group word (R230). -/
structure MemOps where
  nf : Bool
  reg : BitVec 6
  mode : BitVec 3
  ea : BitVec 12
  deriving DecidableEq, Repr

/-- Operand fields of a paired-memory word (R231). -/
structure PairOps where
  nf0 : Bool
  nf1 : Bool
  reg0 : BitVec 6
  reg1 : BitVec 6
  ptr0 : BitVec 3
  mode0 : BitVec 2
  ptr1 : BitVec 3
  mode1 : BitVec 2
  deriving DecidableEq, Repr

/-- What a lane's residue checker reports for one unit of work: the first computation mismatched, and perhaps
the recomputation as well (R151, R161, R279). -/
structure LaneBad where
  unit : Nat
  twice : Bool
  deriving DecidableEq, Repr

/-- What the Supervisor measures in the Ell before a tick (R371), and the pins and lane checkers at the tick. -/
structure EllReport where
  /-- pace gauge readings by source number, in 1/4,096 Ghc/s -/
  pace : List (Nat × Nat) := []
  /-- junction temperatures of sensors 0, 1, ... in degrees C -/
  temps : List Int := []
  /-- the regulator acknowledged the commands of this boundary -/
  pmbAck : Bool := true
  /-- READ_VOUT in mV; none when it is not acknowledged -/
  vout : Option Nat := some 0
  /-- levels of the GPIO pins -/
  gpio : BitVec 32 := 0
  mixBad : List LaneBad := []
  rcBad : List LaneBad := []
  scBad : List LaneBad := []
  /-- GTS at which the sinks of asynchronous outputs took samples since the last report, by instance (R147) -/
  sinks : List (Nat × List Gts) := []
  /-- RS-FEC codewords of the Ell, corrected and not correctable, by port (R87) -/
  fec : List (PortId × Nat × Nat) := []
  deriving DecidableEq, Repr

/-- A received pause frame (R77): IEEE 802.3 link pause, or 802.1Qbb PFC with its class vector. -/
inductive PauseKind where
  | link (quanta : BitVec 16)
  | pfc (enable : BitVec 8) (quanta : List (BitVec 16))
  deriving DecidableEq, Repr

/-- Why a link is declared down (R85). -/
inductive LinkFault where
  | blockLock | localFault | remoteFault
  deriving DecidableEq, Repr

/-- The requester of a queue operation: a block by its source number, or a master through QF_CTRL (R131, R137). -/
inductive QReq where
  | block (src : BitVec 8)
  | bus (m : Master)
  deriving DecidableEq, Repr

/-- The role a receive copy has in the merge of R94 when it reaches the Cipher Engine (R299). -/
inductive CopyRole where
  | first | rescue | compare
  deriving DecidableEq, Repr

/-- One cipher operation (R291). -/
inductive CipherOp where
  | srtpTx (stream : BitVec 10)
  | srtpRx (stream : BitVec 10) (leg : Leg) (seq : BitVec 16)
  | macsecTx (port : PortId) (len : BitVec 14)
  | macsecRx (port : PortId) (len : BitVec 14)
  deriving DecidableEq, Repr

/-- The timestamps and fields of a PTP message that the Time Base uses (R342). `origin` is in grains since the epoch,
`corr` is the correction field in grains. -/
structure PtpMsg where
  origin : Int
  corr : Int
  seq : BitVec 16
  twoStep : Bool
  deriving DecidableEq, Repr

/-- What the Supervisor's best-master selection concludes from an Announce, Signalling or Management message:
the IEEE 1588-2019 port state, stepsRemoved and the grandmaster identity (R342, R349). -/
structure BmcResult where
  pstate : BitVec 4
  steps : BitVec 8
  gmId : BitVec 64
  deriving DecidableEq, Repr

/-- A DMA descriptor as the host posts it (R431). -/
structure Desc where
  addr : BitVec 64
  len : BitVec 32
  ell : BitVec 32
  slot : BitVec 16
  flags : BitVec 16
  deriving DecidableEq, Repr

/-- Why a DMA access failed (R436). -/
inductive DmaStatus where
  | ur | ca | timeout
  deriving DecidableEq, Repr

/-- One received sample of a local port: its 24 bits, and on AES3 its V bit and parity verdict (R438, R439). -/
structure LocalSample where
  v : BitVec 24
  vbit : Bool := false
  parityBad : Bool := false
  deriving DecidableEq, Repr

/-- A memory array, as R352 names them. -/
inductive MemArray where
  | holmData (h : Fin 16) | commitBuf (c : CoreId) | ibuf (c : CoreId) | program (h : Fin 16) | ell | stream
  | queueData | queueHeader | coef | keySlot | ctxField | saveSlot | rateState | scanner | czWindow | other
  deriving DecidableEq, Repr

/-- What a scrub or read finds in a word (R351). -/
inductive EccFind where
  | clean | single | double
  deriving DecidableEq, Repr

/-- The commit of an attempt (R179): whether a word of its commit buffer is bad, and the GTS at which its write pass starts. -/
structure CommitPass where
  bufBad : Bool
  start : Gts
  deriving DecidableEq, Repr

/-- The far end of a link that comes up: the port, and whether the partner supports low-power idle (R82). -/
structure LinkEnd where
  port : PortId
  eee : Bool
  deriving DecidableEq, Repr

/-- The bytes of a push: what is written with the request, and each further stretch at its GTS (R129). -/
structure Stretches where
  now : List Byte
  later : List (Gts × List Byte)
  deriving DecidableEq, Repr

/-- The 217 commands. -/
inductive Instr where
  -- bus
  | registerWrite (t : Gts) (m : Master) (off : Off) (allBytes : Bool) (data : List Word)
  | counterLowRead (t : Gts) (m : Master) (off : Off)
  | eventWrite (t : Gts) (m : Master) (off : Off) (v : Word)
  -- ticks and block reports
  | cutOff (t : Gts)
  | playoutStart (t : Gts) (rcBad : List LaneBad)
  | ellTick (t : Gts) (rep : EllReport)
  | rateChainComplete (t : Gts) (hc : BitVec 32)
  | mixComplete (t : Gts) (hc : BitVec 32)
  -- holm array
  | taskDispatch (t : Gts) (task : BitVec 12)
  | taskCommit (t : Gts) (core : CoreId) (pass : CommitPass)
  | slotDeadline (t : Gts) (core : CoreId)
  | stageDeadline (t : Gts)
  | eccRetry (t : Gts) (core : CoreId) (clean : Bool)
  | stateZeroingDone (t : Gts) (task : BitVec 12)
  | delayedDispatch (t : Gts) (task : BitVec 12)
  -- Kaend configuration
  | beginLoad (t : Gts) (m : Master)
  | push (t : Gts) (m : Master)
  | pieceTaken (t : Gts)
  | finishLoad (t : Gts) (m : Master)
  | verifyDone (t : Gts) (sigOk : Bool)
  | commit (t : Gts) (m : Master)
  | abort (t : Gts) (m : Master)
  | flashLoad (t : Gts) (slotA slotB sigA sigB : List Byte)
  | deltaApply (t : Gts)
  | deltaCommit (t : Gts)
  -- network ports
  | rxFrame (t : Gts) (p : PortId) (bytes : List Byte) (ts : Gts) (icv fcs : List Byte)
  | pauseFrame (t : Gts) (p : PortId) (k : PauseKind)
  | pauseExpiry (t : Gts) (p : PortId) (c : Fin 8)
  | pauseStorm (t : Gts) (p : PortId) (c : Fin 8)
  | releaseWindowEnd (t : Gts) (p : PortId) (c : Fin 8)
  | linkDown (t : Gts) (p : PortId) (cause : LinkFault)
  | linkUp (t : Gts) (p : LinkEnd)
  | txStart (t : Gts) (p : PortId)
  | gateEntry (t : Gts) (p : PortId)
  | lpiEntry (t : Gts) (p : PortId)
  -- Stream Engine
  | rxParse (t : Gts) (p : PortId)
  | tagResult (t : Gts) (stream : BitVec 10) (leg : Leg) (seq : BitVec 16)
  | legLost (t : Gts) (stream : BitVec 10) (leg : Leg)
  | adaptPeriodEnd (t : Gts) (stream : BitVec 10)
  | packetBuild (t : Gts) (stream : BitVec 10)
  -- Queue Fabric
  | queuePush (t : Gts) (src : BitVec 8) (q : BitVec 7) (tclass : BitVec 3) (aux : Word) (data : Stretches)
      (ts : Option Gts)
  | pushComplete (t : Gts) (q : BitVec 7) (rest : List Byte) (err : Bool)
  | queuePop (t : Gts) (src : BitVec 8) (q : BitVec 7)
  | popComplete (t : Gts) (q : BitVec 7)
  | stalledPushProceed (t : Gts) (q : BitVec 7)
  | stalledPopProceed (t : Gts) (q : BitVec 7)
  | idleTimeout (t : Gts) (q : BitVec 7)
  | immediateFlush (t : Gts) (who : QReq) (q : BitVec 7)
  | boundaryFlush (t : Gts) (who : QReq) (q : BitVec 7)
  | flushPoint (t : Gts) (q : BitVec 7)
  | flushForced (t : Gts) (q : BitVec 7)
  | mark (t : Gts) (who : QReq) (q : BitVec 7)
  | release (t : Gts) (who : QReq) (q : BitVec 7)
  | rewind (t : Gts) (who : QReq) (q : BitVec 7)
  | pfcRepeat (t : Gts) (q : BitVec 7)
  -- Rate Chain
  | rcReset (t : Gts) (m : Master) (inst : BitVec 8)
  -- Geldin: MAC and TAP groups
  | mpy (i : Issue) (o : MacOps)
  | mpyr (i : Issue) (o : MacOps)
  | mac (i : Issue) (o : MacOps)
  | msu (i : Issue) (o : MacOps)
  | macr (i : Issue) (o : MacOps)
  | msur (i : Issue) (o : MacOps)
  | tap (i : Issue) (sub : Bool) (aa : BitVec 2) (dc dx : BitVec 3) (l : TapLoads)
  | tap2 (i : Issue) (sub : Bool) (aa ab : BitVec 2) (dc dx dy : BitVec 3) (l : TapLoads)
  | cmac (i : Issue) (sub : Bool) (aa ab : BitVec 2) (u : BitVec 2) (conj : Bool) (w : BitVec 2) (l : TapLoads)
  -- Geldin: ALU group
  | add (i : Issue) (o : AluOps)
  | sub (i : Issue) (o : AluOps)
  | neg (i : Issue) (o : AluOps)
  | abs (i : Issue) (o : AluOps)
  | cmp (i : Issue) (o : AluOps)
  | and (i : Issue) (o : AluOps)
  | or (i : Issue) (o : AluOps)
  | xor (i : Issue) (o : AluOps)
  | shl (i : Issue) (o : AluOps)
  | shr (i : Issue) (o : AluOps)
  | mva (i : Issue) (o : AluOps)
  | norm (i : Issue) (o : AluOps)
  | divs (i : Issue) (o : AluOps)
  | clr (i : Issue) (o : AluOps)
  -- Geldin: memory and move groups
  | ld (i : Issue) (o : MemOps)
  | st (i : Issue) (o : MemOps)
  | stMva (i : Issue) (o : MemOps)
  | ldLd (i : Issue) (o : PairOps)
  | ldSt (i : Issue) (o : PairOps)
  | mov (i : Issue) (dst src : BitVec 6)
  | movTagToD (i : Issue) (dst src : BitVec 6)
  | movTagFromD (i : Issue) (dst src : BitVec 6)
  | moviD (i : Issue) (dst : BitVec 3) (val : BitVec 24)
  | moviAddress (i : Issue) (cls : BitVec 2) (idx : BitVec 3) (val : BitVec 22)
  -- Geldin: control group
  | nop (i : Issue)
  | br (i : Issue) (target : BitVec 17)
  | brc (i : Issue) (cond : BitVec 3) (target : BitVec 17)
  | call (i : Issue) (target : BitVec 17)
  | ret (i : Issue)
  | repi (i : Issue) (countM1 : BitVec 12)
  | repd (i : Issue) (ds : BitVec 3)
  | loopi (i : Issue) (e : BitVec 12) (countM1 : BitVec 12)
  | loopd (i : Issue) (e : BitVec 12) (ds : BitVec 3)
  | endLoop (i : Issue)
  | waite (i : Issue) (dd : BitVec 3) (mask : BitVec 4)
  | yield (i : Issue)
  -- Geldin: events
  | halt (t : Gts) (core : CoreId)
  | step (t : Gts) (core : CoreId)
  | breakAt (t : Gts) (core : CoreId) (pc : Option (BitVec 17))
  | trace (t : Gts) (core : CoreId)
  | sig (t : Gts) (core : CoreId) (bit : Fin 4) (byDebug : Bool)
  -- Mix Fabric
  | swap (t : Gts) (m : Master)
  | force (t : Gts) (m : Master)
  | cancel (t : Gts) (m : Master)
  | coefWrite (t : Gts) (m : Master) (off : Off) (data : List Word)
  -- Cipher Engine
  | claim (t : Gts) (m : Master) (lane : Fin 4)
  | lockRelease (t : Gts) (m : Master) (lane : Fin 4)
  | lockExpired (t : Gts) (lane : Fin 4)
  | cipherOpStart (t : Gts) (op : CipherOp)
  | cipherOpDone (t : Gts) (lane : Fin 4) (parityBad tagOk : Bool) (out : List Byte)
  | keyload (t : Gts) (m : Master) (slot : BitVec 1) (kek : BitVec 2) (ctx : BitVec 16)
  | change (t : Gts) (m : Master) (slot : BitVec 1) (kek : BitVec 2) (ctx : BitVec 16)
  | discard (t : Gts) (m : Master) (slot : BitVec 1) (kek : BitVec 2) (ctx : BitVec 16)
  | save (t : Gts) (m : Master) (slot : BitVec 1) (kek : BitVec 2) (ctx : BitVec 16)
  | restore (t : Gts) (m : Master) (slot : BitVec 1) (kek : BitVec 2) (ctx : BitVec 16)
  | exportCtx (t : Gts) (m : Master) (slot : BitVec 1) (kek : BitVec 2) (ctx : BitVec 16)
  | importCtx (t : Gts) (m : Master) (slot : BitVec 1) (kek : BitVec 2) (ctx : BitVec 16)
  | cmdComplete (t : Gts) (parityBad unwrapOk : Bool) (out : List Byte)
  -- Compression Engine
  | encode (t : Gts) (ctx : BitVec 11)
  | blockVerify (t : Gts) (ctx : BitVec 11) (bits : List Bool) (decodedOk storedOk : Bool)
  | stagingResume (t : Gts) (unit : Fin 4)
  | encodeDone (t : Gts) (ctx : BitVec 11)
  | decode (t : Gts) (ctx : BitVec 11) (leg : Leg) (seq : BitVec 16)
  | decodeDone (t : Gts) (ctx : BitVec 11) (eccBad : Bool)
  -- Time Base
  | sync (t : Gts) (inst : Fin 2) (msg : PtpMsg) (rxTs : Gts)
  | followUp (t : Gts) (inst : Fin 2) (msg : PtpMsg)
  | delayReq (t : Gts) (inst : Fin 2) (msg : PtpMsg) (rxTs : Gts)
  | delayResp (t : Gts) (inst : Fin 2) (msg : PtpMsg)
  | announce (t : Gts) (inst : Fin 2) (res : BmcResult)
  | syncTx (t : Gts) (inst : Fin 2)
  | delayReqTx (t : Gts) (inst : Fin 2)
  | egressTimestamp (t : Gts) (inst : Fin 2) (ts : Gts)
  | tsDrop (t : Gts) (inst : Fin 2)
  | holdoverOn (t : Gts)
  | holdoverExpired (t : Gts)
  | ptpStep (t : Gts) (inst : Fin 2)
  | refRevert (t : Gts)
  | realign (t : Gts) (m : Master)
  | setTod (t : Gts) (m : Master)
  | ppsIn (t : Gts)
  | ppsLoss (t : Gts) (tenMhz : Bool)
  | gtsRead (t : Gts) (m : Master)
  -- containment and policy
  | scrub (t : Gts) (array : MemArray) (addr : BitVec 32) (find : EccFind)
  | progRepair (t : Gts) (holm : Fin 16) (addr : BitVec 17) (digestOk : Bool)
  | hsTimeout (t : Gts) (requester dest : BitVec 8)
  | destResetDone (t : Gts) (dest : BitVec 8)
  | unfreeze (t : Gts) (m : Master) (source : BitVec 8)
  | clearViol (t : Gts) (m : Master)
  | coreBistDone (t : Gts) (core : CoreId) (pass : Bool)
  | hostThaw (t : Gts)
  | netLost (t : Gts) (net : Leg)
  | classBack (t : Gts) (p : PortId) (c : Fin 8)
  | logRdWrite (t : Gts) (m : Master) (v : Word)
  -- modes
  | calTimeout (t : Gts)
  | standby (t : Gts) (m : Master) (confirm : Byte)
  | off (t : Gts) (m : Master) (confirm : Byte)
  | test (t : Gts) (m : Master) (confirm : Byte)
  | recover (t : Gts) (m : Master) (confirm : Byte)
  | reset (t : Gts) (m : Master) (confirm : Byte)
  | wake (t : Gts) (m : Master) (confirm : Byte)
  | powerDownDone (t : Gts)
  | powerOnReset (t : Gts)
  | brownout (t : Gts)
  | resetN (t : Gts) (tjBelow : Bool)
  | debugReset (t : Gts)
  | watchdog (t : Gts)
  | perstN (t : Gts)
  | trstN (t : Gts)
  | wakePin (t : Gts)
  | firmwareVerified (t : Gts) (sensed : Bool) (slots : List Byte × List Byte)
  -- Trust Block
  | fuseCheck (t : Gts) (differs : Bool)
  | idReady (t : Gts)
  | attest (t : Gts) (m : Master)
  | reportReady (t : Gts) (signature : List Byte)
  | present (t : Gts) (m : Master)
  | certAccept (t : Gts) (sigOk : Bool)
  | openSession (t : Gts) (m : Master)
  | closeSession (t : Gts) (m : Master)
  | debugClose (t : Gts)
  | progSlot (t : Gts) (m : Master) (arg : Byte)
  | progKek (t : Gts) (m : Master) (arg : Byte)
  | advance (t : Gts) (m : Master) (arg : Byte)
  | provision (t : Gts) (m : Master) (confirm : Byte)
  | deploy (t : Gts) (m : Master) (confirm : Byte)
  | lockdown (t : Gts) (m : Master) (confirm : Byte)
  | glitchDetect (t : Gts)
  | flashPass (t : Gts) (m : Master)
  | zeroizeComplete (t : Gts)
  -- host and local ports
  | tailWrite (t : Gts) (m : Master) (ring : Fin 16) (v : Word)
  | rxRingDeliver (t : Gts) (ring : Fin 16) (descs : List Desc)
  | txRingPush (t : Gts) (ring : Fin 16) (descs : List Desc) (data : List Byte)
  | ringSignal (t : Gts) (ring : Fin 16)
  | codedPlace (t : Gts) (ring : Fin 16) (desc : Desc) (data : List Byte)
  | codedDeliver (t : Gts) (ring : Fin 16) (slot : BitVec 14) (desc : Desc)
  | dmaErr (t : Gts) (ring : Fin 16) (status : DmaStatus)
  | localFrame (t : Gts) (port : Byte) (samples : List LocalSample) (cs : Option (List Byte))
  | lpUnlock (t : Gts) (port : Byte)
  | spiRead (t : Gts) (off : Off) (n : Nat)
  | spiWrite (t : Gts) (off : Off) (bytes : List Byte)
  | bistSram (t : Gts) (m : Master)
  | bistLanes (t : Gts) (m : Master)
  | bistCore (t : Gts) (m : Master) (arg : Byte)
  | pcsLoopback (t : Gts) (m : Master) (arg : Byte)
  | localLoopback (t : Gts) (m : Master)
  | endLoopbacks (t : Gts) (m : Master)
  | testDone (t : Gts) (pass : Bool) (item : Byte)
  -- later rows of the table
  | illegalInstruction (i : Issue) (word : Word)
  | announceReceiptTimeout (t : Gts) (inst : Fin 2)
  | fuseOperationDone (t : Gts)
  | serdesAndPcieRailsUp (t : Gts)
  | tenMhzInputPresent (t : Gts)
  | lowPowerIdleFromPartner (t : Gts) (p : PortId) (enter : Bool)
  deriving DecidableEq, Repr

end Sys2Proof
end

