-- ==== Sys2Proof/Config.lean ====
section
/-! DEFINITION. What an implementation fixes, and the free values: constants with no body, so that nothing can be
proved of the values that the spec leaves open. -/

namespace Sys2Proof.Config

/-- The `i`-th random nonce of the Trust Block, 32 bytes (R410). -/
opaque nonce : Nat → Nat → BitVec 8

/-- Byte `i` of the identity public key (R411): fixed for the life of the device, not given by the spec. -/
opaque identityKey : Nat → BitVec 8

/-- Byte `i` of the Casholt service public key in the boot ROM (R410). -/
opaque serviceKey : Nat → BitVec 8

/-- Byte `i` of the Casholt firmware public key in the boot ROM (R405). -/
opaque firmwareKey : Nat → BitVec 8

/-- The verification of an ML-DSA-65 signature (FIPS 204): public key, message, context string, signature (R47, R409). -/
opaque mlDsa : List (BitVec 8) → List (BitVec 8) → List (BitVec 8) → List (BitVec 8) → Bool

/-- Byte `i` of what AES-GCM makes of a text, sealing or opening it: key with its length code, salt, the packet's part of the
initial value, associated data, text (R80, R298, R299). -/
opaque gcmByte : Bool → List (BitVec 8) → List (BitVec 8) → List (BitVec 8) → List (BitVec 8) → List (BitVec 8) → Nat → BitVec 8

/-- Whether the tag at the end of a text stands (R80, R299). -/
opaque gcmOk : List (BitVec 8) → List (BitVec 8) → List (BitVec 8) → List (BitVec 8) → List (BitVec 8) → Bool

/-- Byte `i` of what RFC 3394 makes of a block, wrapping or unwrapping it: number and bytes of the key-encryption key, block
(R304, R307). KEK 0 is derived from the identity seed, which no register shows. -/
opaque wrapByte : Bool → Nat → List (BitVec 8) → List (BitVec 8) → Nat → BitVec 8

/-- Whether the integrity check of a wrapped block stands (R304, R307). -/
opaque wrapOk : Nat → List (BitVec 8) → List (BitVec 8) → Bool

/-- Coefficients of the polyphase filters of the Rate Chain (R142): conversion, phase, tap; in units of 2^-30. -/
opaque rateCoef : Nat → Nat → Nat → Int

/-- The correction with which the tracker of an asynchronous instance holds the fill of its FIFO at the target: fill, target; in 1/256
ppm of the conversion ratio (R147). -/
opaque fifoTrim : Nat → Nat → Int

/-- Whether a PTP profile permits a domain, an announce timeout and the intervals of Sync, Announce and Delay_Req (R341). -/
opaque ptpPermits : Nat → Nat → Nat → List Int → Bool

/-- The frequency estimate of the PTP servo in 1/1,000 ppm: last estimate, phase error in grains, bandwidth (R342). -/
opaque servoFreq : Int → Int → Nat → Int

/-- The pre-filter of ITU-R BS.1770 (R154): 96 kHz, its state, a sample; the filtered sample in units of 2^-39 of full scale, and the
state after it. -/
opaque kFilter : Bool → List Int → Int → Int × List Int

/-- Whether a level that falls between two units of 1/256 LU or dB is reported as the upper one (R155, R260): numerator and
denominator of the ratio. -/
opaque levelUp : Nat → Nat → Bool

/-- The level of a ratio without a denominator, echo that leaves no residual (R260). -/
opaque levelTop : Nat → Int

/-- The filter of an echo canceller (R257, R259): its estimate of the echo from the reference samples of its window, newest first; the
filter after it has adapted to reference and residual; the position of its largest tap; the estimated powers of the echo and of the
residual echo in an Ell. -/
opaque echoSample : Nat → List Int → Int
opaque echoAdapt : Nat → List Int → List Int → Nat
opaque echoPeak : Nat → Nat
opaque echoLevel : Nat → List Int → Nat
opaque echoResidual : Nat → List Int → Nat

/-- The gain of the soft suppressor in units of 2^-23, before its bound of 18 dB (R259). -/
opaque softGain : Nat → List Int → Nat

/-- Comfort noise (R259): whether an Ell of the near end holds speech, the background estimate after an Ell, the next state of the
generator, and a sample. -/
opaque speechIn : Nat → List Int → Bool
opaque noiseLearn : Nat → List Int → Nat
opaque noiseNext : BitVec 31 → BitVec 31
opaque noiseSample : Nat → BitVec 31 → Nat → Int

/-- The conversions of the codecs between 48 kHz and their coding rate (R250, R268): function code, past samples newest first, and which
sample of the Ell. -/
opaque voiceDown : Nat → List Int → Nat → Int
opaque voiceUp : Nat → List Int → Nat → Int

/-- The G.722 and Opus encoders (R264, R268): function code, state, parameters, samples; byte `i` of what they emit, the size of a packet
of variable rate, and the state after it. -/
opaque voiceByte : Nat → Nat → List Nat → List Int → Nat → BitVec 8
opaque voiceSize : Nat → List Nat → List Int → Nat
opaque voiceKept : Nat → Nat → List Nat → List Int → Nat

/-- The decoders and their concealment (R266, R268): 0 decoding, 1 rebuilding from redundancy, 2 concealing; function code, state, bytes;
sample `i`, and the state after it. -/
opaque voiceSample : Nat → Nat → Nat → List (BitVec 8) → Nat → Int
opaque voiceNext : Nat → Nat → Nat → List (BitVec 8) → Nat

/-- Whether an Opus packet holds in-band redundancy for the frame before it (R265). -/
opaque opusRedundant : List (BitVec 8) → Bool

/-- A private word of a library task's state region: task, offset, data Ell of the last commit (R251). -/
opaque privateWord : Nat → Nat → Nat → BitVec 28

/-- Coefficients of the true-peak interpolator (R154): quarter of the interval, tap; in units of 2^-30. -/
opaque truePeakCoef : Nat → Nat → Int

/-- A free value: the `n`-th draw. -/
opaque freeValue : Nat → BitVec 64

end Sys2Proof.Config
end

