-- ==== Sys2Proof/Machine/RegMap.lean ====
section
/-! DEFINITION. The register map: for every stored register of BAR0 its access masks and reset value (R5, R6, R422,
and the register tables of the owning chapters), the counters of each block, and the event registers. -/

namespace Sys2Proof.Machine

/-- Access masks and reset value of one register word: `rw` bits are stored at once, `rwl` bits only until the commit
of a full bitstream, `w1c` bits are cleared by a one (R6). A bit in no mask reads from elsewhere or as zero (R5). -/
structure RegDef where
  rw : Nat := 0
  rwl : Nat := 0
  w1c : Nat := 0
  init : Nat := 0
  deriving DecidableEq, Repr

/-- Block bases of R422. -/
def baseTR : Nat := 0x10000
def baseSV : Nat := 0x20000
def baseTB : Nat := 0x30000
def baseNP (p : Nat) : Nat := 0x40000 + 0x4000 * p
def baseSE : Nat := 0x80000
def baseQF : Nat := 0xC0000
def baseCE : Nat := 0xD0000
def baseCZ : Nat := 0xE0000
def baseRC : Nat := 0xF0000
def baseMF : Nat := 0x100000
def baseHP : Nat := 0x110000
def baseHA (h : Nat) : Nat := 0x200000 + 0x10000 * h

/-- Global block, R426. -/
def regGL : Nat → RegDef
  | 0x10 => { rw := 0xFFFFFFFF }
  | _ => {}

/-- Trust Block, R421. -/
def regTR (o : Nat) : RegDef :=
  match o with
  | 0x104 => { w1c := 0x1FF }
  | 0x108 => { rw := 0x1FF }
  | _ => if 0x220 ≤ o ∧ o < 0x240 then { rw := 0xFFFFFFFF } else {}

/-- Supervisor, R57, R369, R372, R384, R403 and SV_LOG_RD. -/
def regSV : Nat → RegDef
  | 0x104 => { w1c := 0x1FF }
  | 0x108 => { rw := 0x1FF }
  | 0x404 => { rw := 0x1FFFFF }
  | 0x408 => { rw := 0xFFFFFFFF }
  | 0x600 => { rwl := 0xFFFFFFFF, init := 0x10 }
  | 0x800 => { rwl := 0xFFFFFFFF, init := 0x126610A4 }
  | 0x804 => { rwl := 0x03FF03FF, init := 0x03200258 }
  | 0x808 => { rwl := 0xFFFFFFFF, init := 0x00FA050A }
  | 0x80C => { rwl := 0xFFFFFFFF, init := 0x05786E64 }
  | 0x810 => { rwl := 0x0000FFFF, init := 0x00001F40 }
  | 0x814 => { rwl := 0xFF01FF01, init := 0x3C010A00 }
  | 0x818 => { rwl := 0x0001FFFF, init := 0x0001001E }
  | 0x81C => { rwl := 0x0000FF7F, init := 0x00000040 }
  | 0x894 => { rw := 0x03FF03FF, init := 0x01000000 }
  | 0xA04 => { rwl := 0x0001FFFF, init := 0x0001001E }
  | _ => {}

/-- Time Base, R348. -/
def regTB : Nat → RegDef
  | 0x000 => { rwl := 0x31F }
  | 0x004 => { rwl := 0xFFFFFFFF, init := 0x320283E8 }
  | 0x008 => { rwl := 0xFFFFFFFF, init := 0xF42400C8 }
  | 0x00C => { rw := 0xFFFFFFFF, init := 0x00640000 }
  | 0x014 => { rw := 0xFFFFFFFF }
  | 0x018 => { rw := 0xFFFFFFFF }
  | 0x104 => { w1c := 0x3FF }
  | 0x108 => { rw := 0x3FF }
  | _ => {}

/-- A network port, R86. -/
def regNP (o : Nat) : RegDef :=
  match o with
  | 0x00 => { rwl := 0x7F }
  | 0x04 => { rwl := 0xFFFFFFFF }
  | 0x08 => { rwl := 0xFFFF }
  | 0x0C => { rwl := 0xFF00001F, init := 0x60000018 }
  | 0x10 => { rwl := 0xFFFFFF, init := 0x00FAC688 }
  | 0x24 => { rwl := 0x77777777, init := 0x00000500 }
  | 0x28 => { rwl := 0x77777777, init := 0x06000000 }
  | 0x34 => { rwl := 0x00FFFF01, init := 0x00009F01 }
  | 0x38 => { rw := 0xFFFFFFFF, init := 0x271007D0 }
  | 0x3C => { rwl := 0x007F7F7F, init := 0x007F7F7F }
  | 0x40 => { rwl := 0x3FFF, init := 0x5F2 }
  | 0x44 => { rw := 0xFFFFFFFF }
  | 0x48 => { rw := 0xFFFFFFF1, init := 0x00140640 }
  | 0x4C => { rw := 0x800007FF }
  | 0x50 => { rw := 0xFFFFFFFF }
  | 0x54 => { rw := 0xFFFFFFFF }
  | 0x104 => { w1c := 0x3F }
  | 0x108 => { rw := 0x3F }
  | _ =>
    if 0x14 ≤ o ∧ o ≤ 0x30 then { rwl := 0x77777777 }
    else if (0x80 ≤ o ∧ o < 0xC0) ∨ (0xA00 ≤ o ∧ o < 0xC00) then { rw := 0xFFFFFFFF }
    else {}

/-- Stream Engine, R118. -/
def regSE (o : Nat) : RegDef :=
  match o with
  | 0x00 => { rwl := 0xFFFFF, init := 0x41F40 }
  | 0x04 => { rwl := 0x7F, init := 0x7F }
  | 0x08 => { rwl := 0x7F7F, init := 0x7F7F }
  | 0x10 => { rwl := 0xFFFFFFFF }
  | 0x14 => { rwl := 0xFFFFFFFF }
  | 0x40 => { rwl := 0xFFFFFFFF }
  | 0x44 => { rwl := 0xFFFF }
  | 0x48 => { rwl := 0xFFFFFFFF }
  | 0x4C => { rwl := 0xFFFF }
  | 0x104 => { w1c := 0x103FF }
  | 0x108 => { rw := 0x103FF }
  | _ => if 0x20 ≤ o ∧ o < 0x40 then { rwl := 0xFFFFFFFF } else {}

/-- Queue Fabric, R137. -/
def regQF : Nat → RegDef
  | 0x104 => { w1c := 0x7F }
  | 0x108 => { rw := 0x7F }
  | _ => {}

/-- Cipher Engine, R310; CE_XFER is held apart. -/
def regCE : Nat → RegDef
  | 0x04 => { rw := 0xFFFFFFFF }
  | 0x08 => { rw := 0xFFFFFFFF }
  | 0x20 => { rwl := 0xFFFFFFFF, init := 0x80000000 }
  | 0x24 => { rwl := 0xFFFFFFFF }
  | 0x28 => { rwl := 0xFFFFFFFF, init := 0x10000000 }
  | 0x104 => { w1c := 0xFF }
  | 0x108 => { rw := 0xFF }
  | _ => {}

/-- Compression Engine, R332. -/
def regCZ : Nat → RegDef
  | 0x104 => { w1c := 0xF }
  | 0x108 => { rw := 0xF }
  | _ => {}

/-- Rate Chain and Scanner, R164. -/
def regRC : Nat → RegDef
  | 0x10 => { rwl := 0xFFFFFFFF, init := 0x20000109 }
  | 0x14 => { rwl := 0xFFFF, init := 0x1F40 }
  | 0x104 => { w1c := 0x3FF003F }
  | 0x108 => { rw := 0x3FF003F }
  | _ => {}

/-- Mix Fabric, R289. -/
def regMF : Nat → RegDef
  | 0x104 => { w1c := 0x3F }
  | 0x108 => { rw := 0x3F }
  | _ => {}

/-- Host and local ports, R447; ring TAIL and HEAD are held apart. -/
def regHP (o : Nat) : RegDef :=
  match o with
  | 0x00 => { rw := 0x00F00007 }
  | 0x04 => { rw := 0xFFFFFFFF }
  | 0x104 => { w1c := 0x1F0F }
  | 0x108 => { rw := 0x1F0F }
  | _ =>
    if 0x1000 ≤ o ∧ o < 0x1400 then
      match o % 0x40 with
      | 0x00 => { rw := 0xFFFFFFC0 }
      | 0x04 => { rw := 0xFFFFFFFF }
      | 0x08 => { rw := 0xCF7FFFFF }
      | _ => {}
    else {}

/-- A holm, R188. -/
def regHA : Nat → RegDef
  | 0x104 => { w1c := 0x3F }
  | 0x108 => { rw := 0x3F }
  | _ => {}

/-- The blocks of R422. -/
inductive Blk where
  | gl | tr | sv | tb | np (p : Nat) | se | qf | ce | cz | rc | mf | hp | ha (h : Nat) | mem | none
  deriving DecidableEq, Repr

/-- Base of a block. -/
def Blk.base : Blk → Nat
  | .gl => 0 | .tr => baseTR | .sv => baseSV | .tb => baseTB | .np p => baseNP p | .se => baseSE | .qf => baseQF
  | .ce => baseCE | .cz => baseCZ | .rc => baseRC | .mf => baseMF | .hp => baseHP | .ha h => baseHA h
  | .mem => 0x400000 | .none => 0

/-- The block that a BAR0 offset lies in (R422). -/
def blkOf (off : Nat) : Blk :=
  match off / 0x10000 with
  | 0x0 => .gl
  | 0x1 => .tr
  | 0x2 => .sv
  | 0x3 => .tb
  | 0x4 => .np (off % 0x10000 / 0x4000)
  | 0x8 => .se | 0x9 => .se | 0xA => .se | 0xB => .se
  | 0xC => .qf
  | 0xD => .ce
  | 0xE => .cz
  | 0xF => .rc
  | 0x10 => .mf
  | 0x11 => .hp
  | n => if 0x20 ≤ n ∧ n < 0x30 then .ha (n - 0x20) else if 0x40 ≤ n ∧ n < 0x100 then .mem else .none

/-- The register at a BAR0 offset; offsets that no block stores have no bits. -/
def regDef (off : Nat) : RegDef :=
  let b := blkOf off
  let o := off - b.base
  if off % 4 ≠ 0 then {} else
  match b with
  | .gl => regGL o | .tr => regTR o | .sv => regSV o | .tb => regTB o | .np _ => regNP o | .se => regSE o
  | .qf => regQF o | .ce => regCE o | .cz => regCZ o | .rc => regRC o | .mf => regMF o | .hp => regHP o
  | .ha _ => regHA o | .mem => {} | .none => {}

/-- Reset value of a stored register. -/
def regInit (off : Nat) : BitVec 32 := BitVec.ofNat 32 (regDef off).init

/-- Whether the low word of a 64-bit counter lies at a BAR0 offset (R7 and the counter tables). -/
def isCounter (off : Nat) : Bool :=
  let b := blkOf off
  let o := off - b.base
  match b with
  | .np _ => 0x200 ≤ o && o ≤ 0x250 && o % 4 == 0
  | .se => (0x200 ≤ o && o ≤ 0x234 && o % 4 == 0) || (0x4000 ≤ o && o < 0x10000 && o % 8 == 0)
  | .qf => 0x4000 ≤ o && o < 0x5800 && o % 8 == 0 && o % 64 < 56
  | .ce => 0x200 ≤ o && o ≤ 0x22C && o % 4 == 0
  | .cz => 0x200 ≤ o && o ≤ 0x224 && o % 4 == 0
  | .rc => 0x200 ≤ o && o ≤ 0x220 && o % 4 == 0
  | .mf => 0x200 ≤ o && o ≤ 0x21C && o % 4 == 0
  | .hp => 0x200 ≤ o && o ≤ 0x22C && o % 4 == 0
  | .ha _ => 0x200 ≤ o && o ≤ 0x22C && o % 4 == 0
  | .sv => ((0x700 ≤ o && o ≤ 0x728) || (0x740 ≤ o && o ≤ 0x74C)) && o % 4 == 0
  | .tb => 0x200 ≤ o && o ≤ 0x21C && o % 4 == 0
  | _ => false

/-- Event register of an event code and the bit that it sets (R29 and the XX_EVENT registers). -/
def evBit (code : Nat) : Option (Nat × Nat) :=
  let low := code % 256
  match code / 256 with
  | 4 => some (baseSE + 0x104, low - 1)
  | 5 => some (baseSE + 0x104, 16)
  | 6 => some (baseQF + 0x104, low - 1)
  | 7 => some (baseCE + 0x104, low - 1)
  | 8 => some (baseCZ + 0x104, low - 1)
  | 9 => some (baseRC + 0x104, low - 1)
  | 0xA => some (baseRC + 0x104, 16 + (low - 1))
  | 0xB => some (baseMF + 0x104, low - 1)
  | 0xC => some (baseTB + 0x104, low - 1)
  | 0xD => some (baseHP + 0x104, low - 1)
  | 0xE => some (baseHP + 0x104, 8 + (low - 1))
  | 0xF =>
    if low < 0x30 then some (baseSV + 0x104, 0)
    else if low < 0x50 then some (baseSV + 0x104, 1)
    else if low < 0x64 then some (baseSV + 0x104, 2)
    else if low < 0x66 then some (baseSV + 0x104, 3)
    else if low < 0x69 then some (baseSV + 0x104, 4)
    else if low < 0x6B then some (baseSV + 0x104, 5)
    else some (baseSV + 0x104, 8)
  | 0x10 => some (baseTR + 0x104, low - 1)
  | n =>
    if n < 4 then
      some (baseNP n + 0x104, match low with | 1 => 0 | 2 => 1 | 3 => 3 | 4 => 4 | 5 => 5 | _ => 2)
    else if 0x70 ≤ n ∧ n < 0x80 then some (baseHA (n - 0x70) + 0x104, low - 1)
    else none

/-- The MSI-X vectors served by an event register, with the bits that each serves (R428). -/
def evVectors (evOff : Nat) : List (Nat × Nat) :=
  match blkOf evOff with
  | .np p => [(32 + p, 0xFFFFFFFF)]
  | .se => [(36, 0xFFFFFFFF)]
  | .qf => [(38, 0xFFFFFFFF)]
  | .ce => [(39, 0xFFFFFFFF)]
  | .cz => [(40, 0xFFFFFFFF)]
  | .rc => [(41, 0x0000FFFF), (42, 0xFFFF0000)]
  | .mf => [(43, 0xFFFFFFFF)]
  | .tb => [(44, 0xFFFFFFFF)]
  | .hp => [(45, 0x000000FF), (46, 0x0000FF00)]
  | .sv => [(47, 0xFFFFFFFF)]
  | .tr => [(48, 0xFFFFFFFF)]
  | .ha h => [(16 + h, 0xFFFFFFFF)]
  | _ => []

end Sys2Proof.Machine
end

