-- ==== Sys2Proof/Machine/State.lean ====
section
/-! DEFINITION. The state of the TD4096 as plain data: registers, counters, memories, queues, engines, and the queue
of commands that wait. Every memory and file is a sparse table (`Tbl`) whose unlisted entries read as a default. -/

namespace Sys2Proof.Machine

/-- Why the block stops. No meaning raises it: the device meets every event with a described effect. -/
inductive Fault where
  /-- Never raised; the constructor is here so that the type has a name to show. Safe. -/
  | unreachable
  deriving DecidableEq, Repr

/-- Why a command has no meaning. -/
inductive Refusal where
  /-- Raised by an arm of the dispatcher whose command has no meaning in the model yet. Safe. -/
  | notModelled (mnemonic : String)
  deriving DecidableEq, Repr

/-- The twelve operating modes (R386). -/
inductive Mode where
  | off | standby | boot | configure | calibrate | service | sheltered | reconfigure | test | recovery | debug
  | lockdown
  deriving DecidableEq, Repr

/-- Mode code of R386. -/
def Mode.code : Mode → Nat
  | .off => 0 | .standby => 1 | .boot => 2 | .configure => 3 | .calibrate => 4 | .service => 5 | .sheltered => 6
  | .reconfigure => 7 | .test => 8 | .recovery => 9 | .debug => 10 | .lockdown => 11

/-- An event (R26, R383): GTS, source, outcome code of R32, event code and detail words. -/
structure Ev where
  gts : Nat
  source : Nat
  svc : Nat := 0
  code : Nat
  d : List Nat := []
  deriving DecidableEq, Repr

/-- One written entry of the event log (R383). -/
structure LogEntry where
  ev : Ev := { gts := 0, source := 0, code := 0 }
  seq : Nat := 0
  deriving DecidableEq, Repr

/-- The event log: events raised and not yet written, the 1,024 entries, and `wr`, `rd`, `seq` (R383). -/
structure EventLog where
  fresh : List Ev := []
  entries : Tbl LogEntry := []
  wr : Nat := 0
  rd : Nat := 0
  seq : Nat := 0
  deriving DecidableEq, Repr

/-! ## Configuration and loading, [02] -/

/-- A record of a bitstream (R40): its type, `op`, `obj`, ordinal from 1, `len` and body. -/
structure Rec where
  ty : Nat
  op : Nat
  obj : Nat
  ord : Nat
  body : List Byte
  deriving DecidableEq, Repr

/-- A table of record bodies by type and object: the structure that a bitstream describes. -/
abbrev Recs := Tbl (Option (List Byte))

/-- The header fields of a bitstream that outlive the load (R38). -/
structure Header where
  delta : Bool := false
  totalLen : Nat := 0
  recCount : Nat := 0
  keySlot : Nat := 0xFF
  secVersion : Nat := 0
  configId : Nat := 0
  baseId : Nat := 0
  ledger : Nat := 0
  xfLen : Nat := 0
  xfLaw : Nat := 0
  deriving DecidableEq, Repr

/-- A load in progress (R55, R57). `st` is SV_CFG_STATUS.`state`. -/
structure Load where
  st : Nat := 0
  owner : Master := .host
  result : Nat := 0
  record : Nat := 0
  /-- bytes taken so far -/
  bytes : List Byte := []
  /-- the piece being taken -/
  piece : List Byte := []
  /-- bytes of `bytes` already parsed -/
  parsed : Nat := 0
  hdr : Header := {}
  recs : List Rec := []
  /-- measurement digest D of the load (R45) -/
  digest : List Byte := []
  /-- data Ell k of a scheduled delta (R59) -/
  k : Nat := 0
  /-- COMMIT waits for a decided realignment (R338) -/
  wait : Bool := false
  /-- the mode held before Reconfigure (R59) -/
  prevMode : Mode := .service
  fromFlash : Bool := false
  deriving DecidableEq, Repr

/-- A stretch of a holm's program image: its words, and whether a flash slot holds them (R62, R353). -/
structure ProgImage where
  holm : Nat
  lo : Nat
  hi : Nat
  flash : Bool
  deriving DecidableEq, Repr

/-- The running configuration: its records, the records of an APPLYING delta from data Ell `deltaK` on (R59), and
the identity of both. -/
structure Cfg where
  built : Bool := false
  recs : Recs := []
  next : Recs := []
  /-- in the numbering of the present Ell, as long as a decided realignment has not taken effect (R338) -/
  deltaK : Option Nat := none
  hdr : Header := {}
  measurement : List Byte := []
  commitEll : Nat := 0
  images : List ProgImage := []
  deriving DecidableEq, Repr

/-! ## Network ports and queues, [03] and [05] -/

/-- A frame waiting for transmission on a port, or on the wire. -/
structure TxFrame where
  bytes : List Byte
  tclass : Nat
  /-- Direct Path entry that forwards it (R24) -/
  dp : Option Nat := none
  /-- the deferral of this frame has been counted (R75) -/
  waited : Bool := false
  /-- the frame ends with an inverted FCS (R25, R116) -/
  stomp : Bool := false
  /-- receive stream and sequence number of a Direct Path frame -/
  key : Option (Nat × Nat) := none
  deriving DecidableEq, Repr

/-- A network port (R66-R87). -/
structure Port where
  link : Bool := false
  fecLock : Bool := false
  lpiRx : Bool := false
  lpiTx : Bool := false
  /-- the link partner supports low-power idle (R82) -/
  eeePartner : Bool := false
  wake : Bool := false
  /-- expiry of the hold of each class (R77), 0 none -/
  hold : Tbl Nat := []
  /-- first instant of continuous pause plus one (R78), 0 none -/
  pausedFrom : Tbl Nat := []
  /-- end of the last hold of each class (R78) -/
  heldTo : Tbl Nat := []
  /-- end of the release window of each class (R78), 0 none -/
  relEnd : Tbl Nat := []
  /-- frames waiting, by class -/
  txq : Tbl (List TxFrame) := []
  /-- the frame on the wire, and the GTS at which it ends -/
  txCur : Option TxFrame := none
  txEnd : Nat := 0
  /-- earliest start of the next frame: the interpacket gap, or the wake time of R82 -/
  txReady : Nat := 0
  /-- gate control list in force, and the lists that replace it, each with its instant, in order (R76) -/
  gcl : List Byte := []
  gclNext : List (Nat × List Byte) := []
  /-- GTS of the last transmit activity (R82) -/
  idleFrom : Nat := 0
  /-- Ell plus one of the last MACSEC_DROP logged (R85) -/
  macsecEll : Nat := 0
  loopback : Bool := false
  /-- the last PFC frame sent: class and quanta (R135) -/
  pfcSent : Option (Nat × Nat) := none
  /-- the last frame whose transmission started, for the wire -/
  wire : Option TxFrame := none
  deriving DecidableEq, Repr

/-- A queue item: the header of R123 and the data. -/
structure Item where
  src : Nat := 0
  tclass : Nat := 0
  err : Bool := false
  drp : Bool := false
  aux : Nat := 0
  gts : Nat := 0
  data : List Byte := []
  deriving DecidableEq, Repr

/-- A queue (R121-R138). -/
structure Queue where
  w : Nat := 0
  rd : Nat := 0
  mkp : Nat := 0
  mark : Bool := false
  /-- an active mark was invalidated and its loss is not yet reported (R134) -/
  markLost : Bool := false
  dropPend : Bool := false
  /-- the next item delivered carries `drp` (R134, R352) -/
  drpNext : Bool := false
  slots : Tbl Item := []
  /-- the push in progress: header and bytes written so far -/
  push : Option Item := none
  /-- the rest of an abandoned or closed push is accepted and discarded (R130, R131) -/
  pushDead : Bool := false
  /-- bytes of that push still to be written, each with its instant -/
  coming : List (Gts × List Byte) := []
  /-- a push that stalls its producer, whether a block of the device presented it whole, and what that block presents after it -/
  pushWait : Option Item := none
  waitWhole : Bool := false
  backlog : List Item := []
  /-- GTS of the request of the last pop -/
  popReq : Nat := 0
  /-- a pop that delivers the item at Rd -/
  popBusy : Bool := false
  /-- a pop that has delivered nothing yet -/
  popStall : Bool := false
  /-- GTS at which the stall of the pop and the push in progress began, and of the last byte written (R130) -/
  waitFrom : Nat := 0
  pushFrom : Nat := 0
  lastByte : Nat := 0
  /-- GTS of the request of a pending boundary flush, plus one; 0 none -/
  flushPend : Nat := 0
  /-- the push and the pop that were in progress at that request (R131) -/
  flushPush : Bool := false
  flushPop : Bool := false
  pfcOn : Bool := false
  /-- GTS at which the next PFC repetition falls due (R135) -/
  pfcDue : Nat := 0
  /-- Ell plus one, and drops counted in it (R128) -/
  dropEll : Nat := 0
  dropCnt : Nat := 0
  /-- items delivered to the consumer, oldest first, and the TIMEOUT report of R130 -/
  out : List Item := []
  timedOut : Bool := false
  deriving DecidableEq, Repr

/-! ## Supervisor, containment and modes, [15] to [17] -/

/-- Overload state of one core's schedule (R375-R378). -/
structure CoreOvl where
  /-- overload is declared for the core -/
  on : Bool := false
  refused : List Nat := []
  delayed : List Nat := []
  calm : Nat := 0
  deriving DecidableEq, Repr

/-- A request or cause of a mode change, waiting for the next Ell boundary (R388). `rank` orders the causes. -/
structure ModeReq where
  rank : Nat
  goTo : Mode
  cause : Nat
  host : Bool := false
  deriving DecidableEq, Repr

/-- The Supervisor (R371-R384), its containment state (R350-R369) and the modes (R386-R403). -/
structure Sup where
  /-- number of the last Ell whose tick was taken, plus one -/
  tickEll : Nat := 0
  mode : Mode := .boot
  prev : Mode := .off
  result : Nat := 0
  bootErr : Nat := 0
  resetCause : Nat := 1
  reqs : List ModeReq := []
  held : List ModeReq := []
  /-- GTS of the last Recovery entries within 600 s (R398), newest first -/
  recov : List Nat := []
  /-- MADI pass-through in force (R398) -/
  passThru : Bool := false
  /-- first Ell of Calibrate, and GTS at which it began -/
  calFrom : Nat := 0
  calBits : Nat := 0
  /-- firmware verified, and SerDes and PCIe rails up (R394) -/
  fwOk : Bool := false
  railsUp : Bool := false
  /-- the mode from which Debug was entered (R400) -/
  debugFrom : Mode := .configure
  /-- a power-down sequence of R396 runs toward this mode -/
  downTo : Option Mode := none
  tripped : Bool := false
  rwlLocked : Bool := false
  /-- skip the flash slots in Configure (R398) -/
  noFlash : Bool := false
  -- measurements
  rd : Nat := 0
  rdSrc : Nat := 0
  paceOf : Tbl Nat := []
  tj : Int := 0
  tjSensor : Nat := 0
  -- AVS
  avs : Nat := 0
  vset : Nat := 0
  vread : Nat := 0
  settleEnd : Nat := 0
  /-- consecutive Ells with rd above `lower_rd`, and at or below it -/
  highRd : Nat := 0
  lowRd : Nat := 0
  faultEll : Nat := 0
  -- PACE_LOW and shortfall
  paceLow : Bool := false
  paceCalm : Nat := 0
  /-- consecutive Ells without shortfall, up to 800 -/
  noShort : Nat := 800
  shortNow : Bool := false
  /-- excess of RC_DONE and of MF_DONE over their bounds in the last Ell -/
  rcExcess : Nat := 0
  mfExcess : Nat := 0
  -- overload
  ovl : Bool := false
  /-- overload of the compression units (R377), and its calm Ells -/
  czOn : Bool := false
  czCalm : Nat := 0
  /-- tasks delayed at a data Ell, newest first (R34, R375) -/
  delays : List (Nat × List Nat) := []
  coreOvl : Tbl CoreOvl := []
  thermWarn : Bool := false
  thermShed : Bool := false
  -- class moves: key 8 * port + class, value GTS of return (R381)
  moved : Tbl Nat := []
  /-- GTS plus one at which each class moved -/
  movedAt : Tbl Nat := []
  -- networks
  netLost : Nat := 0
  netBackAt : Tbl Nat := []
  /-- twin mismatches and failed compares of the period, per leg (R364) -/
  mmRed : Nat := 0
  mmBlue : Nat := 0
  mmSum : Nat := 0
  mmLogged : Bool := false
  -- freezes and quarantine
  frozen : List Nat := []
  /-- attempt-0 task and PC that froze a core for the firewall (R361), by source -/
  frozePc : List (Nat × Nat × Nat) := []
  quarantined : List Nat := []
  /-- Ells of the recurring faults of each core (R355), by source -/
  faultElls : Tbl (List Nat) := []
  /-- cores whose BIST runs or is due after UNFREEZE (R362): source and Ell -/
  bist : List (Nat × Nat) := []
  /-- cores to release at the next boundary -/
  release : List Nat := []
  hostFrozenAt : Nat := 0
  fwResult : Nat := 0
  fwSource : Nat := 0
  violAddr : Nat := 0
  violInfo : Nat := 0
  /-- Ell plus one of the last violation of each fixed-function block (R360) -/
  blkViol : Tbl Nat := []
  -- lanes: spare state 0-2 of Rate Chain, Scanner and Mix Fabric, retired bits of cipher lanes and units (R354)
  rcSpare : Nat := 0
  scSpare : Nat := 0
  mfSpare : Nat := 0
  ceRetired : Nat := 0
  czRetired : Nat := 0
  /-- Ells of the failed recomputations and of the mismatches of each lane, key block * 64 + lane -/
  laneFails : Tbl (List Nat) := []
  laneErrs : Tbl (List Nat) := []
  -- handshake timeouts (R356, R357): Ell, destination, requester
  hsLog : List (Nat × Nat × Nat) := []
  hsDue : List Nat := []
  hsResets : List (Nat × Nat) := []
  /-- destinations whose handshake logic is being reset -/
  hsBusy : List Nat := []
  -- uncorrectable words already logged (R351): array code and address
  badWords : List (Nat × Nat) := []
  /-- uncorrectable program words awaiting repair: holm and word -/
  badProg : List (Nat × Nat) := []
  deriving DecidableEq, Repr

/-! ## Trust Block, [18] -/

/-- The fuse array (R404). -/
structure Fuses where
  lifecycle : Nat := 0
  slots : Tbl (List Byte) := []
  revoked : BitVec 4 := 0
  rollback : Nat := 0
  keks : Tbl (List Byte) := []
  kekOff : BitVec 3 := 0
  deriving DecidableEq, Repr

/-- The Trust Block beside its fuses (R405-R421). -/
structure Trust where
  level : Nat := 0
  /-- GTS at which the session of a certificate ends -/
  sessEnd : Option Nat := none
  obsSince : Bool := false
  invSince : Bool := false
  zeroized : Bool := false
  /-- a zeroization is running; the session length of an INVASIVE certificate that waits for its end -/
  zeroizing : Bool := false
  pendInv : Option Nat := none
  idReady : Bool := false
  idErased : Bool := false
  /-- number of nonces drawn (R410) -/
  nonceN : Nat := 0
  result : Nat := 0
  rejects : Nat := 0
  /-- `op` that runs: 0 none -/
  busyOp : Nat := 0
  certSrc : Master := .host
  /-- the counter value that an advance blows toward, and the GTS at which it began (R408) -/
  advTo : Nat := 0
  advFrom : Nat := 0
  /-- the count from which it began -/
  advOld : Nat := 0
  /-- the certificate being verified (R409) -/
  cert : List Byte := []
  bootSlot : Nat := 0
  errA : Nat := 0
  errB : Nat := 0
  fwMeas : List Byte := []
  fwSec : Nat := 0
  fwVer : Nat := 0
  xfer : Tbl Byte := []
  report : List Byte := []
  /-- the report waits for the identity (R419) -/
  snap : List Byte := []
  kekDown : Bool := false
  flashPass : Bool := false
  deriving DecidableEq, Repr

/-! ## Host and local ports, [19] -/

/-- A DMA ring (R430-R435). -/
structure Ring where
  tail : Nat := 0
  head : Nat := 0
  /-- write-backs since the last signal, and GTS plus one of the first of them -/
  wb : Nat := 0
  wbFrom : Nat := 0
  /-- the last completed descriptors, oldest first, and the bytes of their buffers: what the device wrote to host
  memory -/
  dmaOut : List (List Byte) := []
  dmaData : List Byte := []
  /-- a transmit chain is open (R434): header and bytes so far, its descriptors, and whether bytes were discarded -/
  chain : Option Item := none
  chainDescs : List Desc := []
  overOn : Bool := false
  deriving DecidableEq, Repr

/-- A frame placed on a coded input slot (R435): first Ell count, data, `lost` and `fec`. -/
structure CodedFrame where
  first : Nat
  data : List Byte
  lost : Bool
  fec : Bool
  /-- receive: an Ell of the frame carried `c`, or its end was not seen -/
  err : Bool := false
  deriving DecidableEq, Repr

/-- A coded output slot (R435): the frame being collected, and complete frames that wait for a descriptor. -/
structure CodedOut where
  cur : Option CodedFrame := none
  ready : List CodedFrame := []
  deriving DecidableEq, Repr

/-- A local audio port (R437-R439). -/
structure LPort where
  locked : Bool := false
  /-- valid frames in a row while unlocked -/
  run : Nat := 0
  lastFrame : Nat := 0
  /-- input FIFO: frames, oldest first, one container per channel; and the media sample index after the newest -/
  fifo : List (List Word) := []
  idx : Nat := 0
  /-- last accepted container of each channel -/
  last : List Word := []
  /-- the last complete channel-status block (R439) -/
  cs : List Byte := []
  /-- Ell plus one of the last AES_PARITY (R446) -/
  parEll : Nat := 0
  loopback : Bool := false
  /-- what leaves the ball: the containers of the last Ell sent, by channel -/
  sent : List (List Word) := []
  deriving DecidableEq, Repr

/-- The host port and the local ports. -/
structure HostP where
  rings : Tbl Ring := []
  ports : Tbl LPort := []
  slotIn : Tbl Word := []
  slotInt : Tbl Word := []
  /-- frames held for coded input slots (R435), coded output slots, and Ell plus one of the last CODED_LATE, by slot -/
  coded : Tbl (List CodedFrame) := []
  codedOut : Tbl CodedOut := []
  codedEll : Tbl Nat := []
  gpioIn : Word := 0
  /-- candidate level and consecutive samples of each pin (R440) -/
  gpioRun : Tbl (Nat × Nat) := []
  testOp : Nat := 0
  testResult : Nat := 0
  testItem : Nat := 0
  /-- the last host-initiated request ended with Completer Abort (R356, R360) -/
  aborted : Bool := false
  deriving DecidableEq, Repr

/-! ## Time Base, [14] -/

/-- A PTP instance (R340-R344). Times are grains. -/
structure PtpInst where
  pstate : Nat := 0
  steps : Nat := 0
  gmId : BitVec 64 := 0
  theta : Int := 0
  delay : Int := 0
  /-- the Sync that awaits its Follow_Up: sequence number and ingress time -/
  syncSeq : Option (BitVec 16) := none
  /-- t1 to t4 of the last exchange (IEEE 1588-2019), correction fields included -/
  t1 : Int := 0
  t2 : Int := 0
  t3 : Int := 0
  lastSync : Nat := 0
  /-- GTS of SLAVE entry plus one, 0 not in SLAVE -/
  slaveFrom : Nat := 0
  /-- first measurement of a step plus one (R337), 0 none; its last PTP_STEP plus one -/
  stepFrom : Nat := 0
  stepLog : Nat := 0
  /-- GTS plus one of the message whose egress timestamp is awaited, and whether it is a Delay_Req -/
  txFrom : Nat := 0
  txReq : Bool := false
  /-- second plus one of the last TS_DROP logged -/
  dropSec : Nat := 0
  /-- the Sync and Delay_Resp that the master side sends -/
  sentSync : Nat := 0
  /-- media time at which the last two-step Sync left, for its Follow_Up (R81) -/
  sentAt : Int := 0
  sentResp : Nat := 0
  deriving DecidableEq, Repr

/-- The Time Base (R334-R349). -/
structure TimeB where
  ofs : Int := 0
  /-- R343: 0 FREE, 1 LOCKING, 2 LOCKED, 3 HOLDOVER -/
  st : Nat := 0
  ref : Option Nat := none
  /-- the reference named by the Supervisor takes effect at its next Sync (R344) -/
  refNew : Bool := false
  inst : Tbl PtpInst := []
  /-- phase error being slewed, and the frequency estimate in 1/1,000 ppm -/
  theta : Int := 0
  freq : Int := 0
  /-- GTS plus one from which |theta| has been under 1,000 ns -/
  lockFrom : Nat := 0
  holdFrom : Nat := 0
  expired : Bool := false
  /-- LOCKED has been reached (R390) -/
  everLocked : Bool := false
  /-- a decided realignment: J, remainder and the old number of the Ell at which it takes effect (R337) -/
  realign : Option (Int × Int × Nat) := none
  realignReq : Bool := false
  /-- sum of the J of all realignments: what counts elapsed Ells leaves it out (R338) -/
  jumped : Int := 0
  lastPps : Nat := 0
  ppsOk : Bool := false
  ref10Ok : Bool := false
  /-- seconds loaded for the next PPS edge (R346) -/
  tod : Option Nat := none
  ppsStepFrom : Nat := 0
  /-- latches of TB_GTS_HI and TB_ELL (R348) -/
  gtsHi : Word := 0
  ellLo : Word := 0
  ellHi : Word := 0
  deriving DecidableEq, Repr

/-! ## Stream Engine, [04] -/

/-- A merge record (R94). `st`: 0 EMPTY, 1 PENDING, 2 USED, 3 FAILED. `legs`: bit 0 Red, bit 1 Blue. -/
structure MergeRec where
  st : Nat := 0
  legs : Nat := 0
  leg : Nat := 0
  ts : Nat := 0
  m : Bool := false
  gts : Nat := 0
  /-- sample index S of the first sample (R93), payload bytes, and sequence number -/
  first : Int := 0
  len : Nat := 0
  seq : Nat := 0
  deriving DecidableEq, Repr

/-- A container in a ring of Stream memory with the sample index that it holds; `p` is bit 7 of the container (R97). -/
structure Held where
  idx : Int := 0
  seq : Nat := 0
  w : Word := 0
  deriving DecidableEq, Repr

/-- A copy on its way through the Stream Engine, the Cipher Engine and the Compression Engine. -/
structure Copy where
  stream : Nat
  leg : Nat
  seq : Nat
  ts : Nat
  m : Bool
  first : Int
  payload : List Byte
  role : CopyRole
  gts : Nat
  /-- bytes of RTP header and payload, for the lane (R291) -/
  len : Nat
  /-- MKI of an SRTP packet -/
  mki : Nat := 0
  /-- the tag verdict, once it is known -/
  ok : Bool := false
  /-- the Dalow payload has been decoded into samples of 3 bytes -/
  decoded : Bool := false
  /-- the RTP packet as it was received -/
  rtp : List Byte := []
  deriving DecidableEq, Repr

/-- A receive stream (R88-R109). `st` is the state code of R101. -/
structure RxStream where
  st : Nat := 0
  high : Option Nat := none
  merge : Tbl MergeRec := []
  /-- rings: key channel * 2^20 + position -/
  ring : Tbl Held := []
  /-- copies held while a record is PENDING -/
  waiting : List Copy := []
  /-- playout offset O, 0 before the stream starts, and its target (R106) -/
  ofs : Nat := 0
  target : Nat := 0
  calm : Nat := 0
  hmin : Option Nat := none
  worst : Nat := 0
  lateN : Nat := 0
  lateLogged : Bool := false
  skewLogged : Bool := false
  hminLast : Nat := 0
  conc : Nat := 0
  concLast : Nat := 0
  lastSeq : Nat := 0
  lastTs : Nat := 0
  /-- sample index of the last USED record -/
  lastFirst : Int := 0
  redOk : Bool := false
  blueOk : Bool := false
  redSeen : Nat := 0
  blueSeen : Nat := 0
  redRun : Nat := 0
  blueRun : Nat := 0
  authEll : Nat := 0
  /-- the last packets judged by R105, newest first: sequence number, and 0 neither, 1 early, 2 very late -/
  jump : List (Nat × Nat) := []
  redSeq : Nat := 0
  blueSeq : Nat := 0
  /-- a copy became USED since the last boundary -/
  gotUsed : Bool := false
  /-- position of each channel in its gap, 0 none (R103), and the last sample that each played -/
  gaps : Tbl Nat := []
  last : Tbl Word := []
  concRun : Nat := 0
  svc : Nat := 2
  /-- O plus hold at the last playout, plus one (R107); 0 none -/
  oPrev : Nat := 0
  /-- held one Ell longer under R34, now and at the last playout -/
  heldElls : Nat := 0
  heldPlay : Bool := false
  /-- the status entry as it stood at the last Ell boundary (R108) -/
  shown : List Nat := []
  /-- Ell plus one of the last period end -/
  adaptEll : Nat := 0
  /-- the leg count of consecutive packets for LEG_LOST of 1 s: GTS plus one of the loss of each leg (R363) -/
  redLostAt : Nat := 0
  blueLostAt : Nat := 0
  deriving DecidableEq, Repr

/-- A transmit packet on its way to the egress queues: RTP header fields and payload. -/
structure TxPkt where
  stream : Nat
  seq : Nat
  ts : Nat
  payload : List Byte
  /-- containers of a Dalow packet, sample by sample and channel by channel (R314) -/
  conts : List Word := []
  /-- Ell in which it was built -/
  ell : Nat := 0
  deriving DecidableEq, Repr

/-- A transmit stream (R110-R113). -/
structure TxStream where
  started : Bool := false
  seq : Nat := 0
  /-- commit Ell of R111: the first data Ell that may be sent -/
  fromEll : Nat := 0
  svc : Nat := 0
  reason : Nat := 0
  /-- Ells collected for the next packet: data Ell and the containers of each channel -/
  acc : List (Nat × List (List Word)) := []
  /-- the last data Ell was delayed: its samples, for the join that ends a delay (R34, R113) -/
  late : Bool := false
  deriving DecidableEq, Repr

/-- A frame in flight on the Direct Path (R115, R116). -/
structure DirectFrame where
  stream : Nat
  seq : Nat
  leg : Nat
  failedAt : Nat := 0
  entries : List Nat := []
  frame : List Byte := []
  deriving DecidableEq, Repr

/-- The Stream Engine. -/
structure StreamE where
  rx : Tbl RxStream := []
  tx : Tbl TxStream := []
  /-- transmit packets that wait for the Cipher Engine, oldest first -/
  txWait : List TxPkt := []
  direct : List DirectFrame := []
  /-- the last data Ell whose cut-off and playout passed, plus one -/
  cutEll : Nat := 0
  playEll : Nat := 0
  deriving DecidableEq, Repr

/-! ## Cipher Engine, [12] -/

/-- A key slot (R297, R301). The session key and salt are derived by RFC 3711; the master key and salt are held. -/
structure KeySlot where
  st : Nat := 0
  key : List Byte := []
  salt : List Byte := []
  mki : Nat := 0
  used : Nat := 0
  limit : Nat := 0
  deriving DecidableEq, Repr

/-- An SRTP context (R296). -/
structure CeCtx where
  s0 : KeySlot := {}
  s1 : KeySlot := {}
  act : Nat := 0
  chg : Option Nat := none
  /-- transmit: index of the next packet; receive: highest authenticated index; none before the first packet -/
  index : Option Nat := none
  tagFail : Nat := 0
  replay : Nat := 0
  replayEll : Nat := 0
  nokeyEll : Nat := 0
  /-- the last receive change has been logged -/
  chgLogged : Bool := false
  deriving DecidableEq, Repr

/-- A save slot (R306): a context with its kind and stream. -/
structure SaveSlot where
  kind : Nat := 0
  stream : Nat := 0
  full : Bool := false
  ctx : CeCtx := {}
  deriving DecidableEq, Repr

/-- A MACsec secure association (R305). -/
structure Sa where
  st : Nat := 0
  key : List Byte := []
  salt : List Byte := []
  ssci : Nat := 0
  sci : Nat := 0
  pn : Nat := 1
  window : Nat := 0
  used : Nat := 0
  limit : Nat := 0
  deriving DecidableEq, Repr

/-- An operation in flight on a lane. -/
structure LaneOp where
  op : CipherOp
  copy : Option Copy := none
  pkt : Option TxPkt := none
  ctx : Nat := 0
  slot : Nat := 0
  index : Nat := 0
  start : Nat := 0
  repeated : Bool := false
  /-- the bytes that the operation makes with the key of its start, and whether the tag stands -/
  out : List Byte := []
  tagOk : Bool := false
  deriving DecidableEq, Repr

/-- An AES lane (R291, R293). -/
structure Lane where
  ops : List LaneOp := []
  owner : Option Nat := none
  /-- the claimant's master, for commands -/
  since : Nat := 0
  deriving DecidableEq, Repr

/-- A command of R306 that runs. -/
structure CeCmd where
  op : Nat
  ctx : Nat
  slot : Nat
  kek : Nat
  arg : Nat
  /-- CE_XFER as it stood when the command was issued -/
  blob : List Byte := []
  lane : Nat
  fail : Nat
  repeated : Bool := false
  deriving DecidableEq, Repr

/-- The Cipher Engine. -/
structure CipherE where
  ctxs : Tbl CeCtx := []
  sas : Tbl Sa := []
  saves : Tbl SaveSlot := []
  lanes : Tbl Lane := []
  /-- association on which each port transmits (R305) -/
  txAn : Tbl Nat := []
  /-- receive copies that wait for a lane, and copies whose verdict is known -/
  inq : List Copy := []
  done : List Copy := []
  cmd : Option CeCmd := none
  result : Nat := 0
  resCtx : Nat := 0
  xfer : Tbl Byte := []
  deriving DecidableEq, Repr

/-! ## Ell memory, [01] -/

/-- Ell memory (R11): containers by copy, slot and position; the mark of each slot copy (0 VALID, 1 CONCEALED,
2 REFUSED) and the hold sample of each slot (R180, R183). -/
structure EllMem where
  words : Tbl Word := []
  mark : Tbl Nat := []
  hold : Tbl Word := []
  deriving DecidableEq, Repr

/-! ## Compression Engine, [13] -/

/-- Work of a compression unit. -/
structure CzUnit where
  busy : Bool := false
  ctx : Nat := 0
  copy : Option Copy := none
  pkt : Option TxPkt := none
  item : Option Item := none
  /-- Dalow header, raw image, bytes of it encoded, and the bits emitted; for a decoder, the bytes it produced -/
  hdr : List Byte := []
  raw : List Byte := []
  pos : Nat := 0
  bits : List Bool := []
  /-- bytes already pushed to the output queue of a host context -/
  pushed : Nat := 0
  stalled : Bool := false
  /-- blocks emitted -/
  blocks : Nat := 0
  /-- the payload is lost (R326), or the decoded stream failed (R330): the last output item carries `err` -/
  lost : Bool := false
  /-- the block that starts has been counted as waiting (R327) -/
  waiting : Bool := false
  deriving DecidableEq, Repr

/-- Status of a compression context (R333). -/
structure CzStat where
  svc : Nat := 0
  codedLast : Nat := 0
  streams : Nat := 0
  decodeFail : Nat := 0
  verifyFail : Nat := 0
  flagsC : Nat := 0
  failEll : Nat := 0
  refEll : Nat := 0
  deriving DecidableEq, Repr

/-- The Compression Engine. -/
structure CompE where
  units : Tbl CzUnit := []
  stat : Tbl CzStat := []
  /-- receive copies that wait for a unit -/
  inq : List Copy := []
  /-- transmit packets that wait for a unit -/
  txq : List TxPkt := []
  /-- contexts refused and delayed under overload (R329) -/
  refused : List Nat := []
  delayed : List Nat := []
  deriving DecidableEq, Repr

/-! ## Rate Chain and Scanner, [06] -/

/-- An instance of the Rate Chain (R139-R152). Asynchronous states are those of R148; `fifo` holds frames, oldest
first; `hist` the newest samples of each channel, newest first. -/
structure RateInst where
  st : Nat := 3
  hist : Tbl (List Word) := []
  lastOut : Tbl Word := []
  tLeft : Nat := 0
  /-- data Ell plus one of the last Ell with saturation -/
  satEll : Nat := 0
  /-- cause of a synchronising reset that awaits the next Ell (R149) -/
  pend : Option Nat := some 0
  ratio : Int := 0
  ratios : List Int := []
  /-- GTS at which the samples of the last 8 Ells arrived or departed, newest first (R147) -/
  stamps : List Nat := []
  primed : Bool := false
  fifo : List (List Word) := []
  /-- a sample arrived since the last tick, or the instance is new -/
  got : Bool := true
  /-- fraction of an input sample, units of 2^-32 -/
  pos : Nat := 0
  /-- samples that the sink took in the last Ell -/
  owed : Nat := 0
  /-- samples into the fade of RANGE and SOURCE_LOST -/
  fade : Nat := 0
  /-- samples for the sink in the last Ell, by channel -/
  sink : Tbl (List Word) := []
  deriving DecidableEq, Repr

/-- Tone detection of a channel (R157-R161). -/
structure ToneState where
  /-- a block has started -/
  act : Bool := false
  /-- Ells of the block so far, and s1 and s2 of each bin at the scale 2^(22 j) -/
  j : Nat := 0
  acc : List (Int × Int) := []
  sq : Nat := 0
  cnt : Nat := 0
  fail : Bool := false
  digOn : Option Nat := none
  cand : Option Nat := none
  onN : Nat := 0
  offN : Nat := 0
  luOn : Bool := false
  luOnN : Nat := 0
  luOffN : Nat := 0
  tones : Nat := 0
  tOnN : Tbl Nat := []
  tOffN : Tbl Nat := []
  bins : Nat := 0
  deriving DecidableEq, Repr

/-- A channel of the Scanner: the aggregates of the period, silence and tones. -/
structure ScanChan where
  peak : Nat := 0
  truePeak : Nat := 0
  sq : Nat := 0
  cnt : Nat := 0
  flags : Nat := 0
  conc : Nat := 0
  skip : Bool := false
  overOn : Bool := false
  /-- state of the K-weighting's pre-filter, the sum of squares of the block, and sums and counts of the last four (R154, R155) -/
  kst : List Int := []
  ksq : Nat := 0
  kBlocks : List (Nat × Nat) := []
  silRun : Nat := 0
  silent : Bool := false
  tone : ToneState := {}
  deriving DecidableEq, Repr

/-- Rate Chain and Scanner. -/
structure RateC where
  insts : Tbl RateInst := []
  scan : Tbl ScanChan := []
  /-- result entries, eight words each (R162) -/
  results : Tbl (List Nat) := []
  /-- Ell plus one of the last window-B completion, its hc, and `late` -/
  doneEll : Nat := 0
  hcLast : Nat := 0
  late : Bool := false
  deriving DecidableEq, Repr

/-! ## Holms and Geldin cores, [07] to [09] -/

/-- The residue code of a value: v mod 7 (R208). -/
def res7 (v : Int) : BitVec 3 := BitVec.ofNat 3 (v % 7).toNat

/-- A data register, its tag and its residue (R190, R192, R208). A value is made with the residue generated from it. -/
structure DReg where
  v : BitVec 24 := 0
  tag : BitVec 4 := 0
  res : BitVec 3 := res7 v.toInt
  deriving DecidableEq, Repr

/-- An accumulator, its tag and its residue. -/
structure AReg where
  v : BitVec 56 := 0
  tag : BitVec 4 := 0
  res : BitVec 3 := res7 v.toInt
  deriving DecidableEq, Repr

/-- The register set of a core, with the residues of the address registers and of LC, and the parity of SW and PC (R190, R208). -/
structure Regs where
  d : Vector DReg 8 := Vector.replicate 8 {}
  a : Vector AReg 4 := Vector.replicate 4 {}
  p : Vector (BitVec 22) 8 := Vector.replicate 8 0
  b : Vector (BitVec 22) 8 := Vector.replicate 8 0
  l : Vector (BitVec 22) 8 := Vector.replicate 8 0
  m : Vector (BitVec 22) 8 := Vector.replicate 8 0
  lc : BitVec 16 := 0
  pRes : Vector (BitVec 3) 8 := Vector.replicate 8 0
  bRes : Vector (BitVec 3) 8 := Vector.replicate 8 0
  lRes : Vector (BitVec 3) 8 := Vector.replicate 8 0
  mRes : Vector (BitVec 3) 8 := Vector.replicate 8 0
  lcRes : BitVec 3 := 0
  /-- SW.`rnd`, `cr`, `sf`, `v`, `n`, `z` (R194) -/
  rnd : Bool := false
  cr : Bool := false
  sf : Bool := false
  v : Bool := false
  n : Bool := false
  z : Bool := false
  pc : BitVec 17 := 0
  /-- parity of the bits of SW above, and of PC -/
  swPar : Bool := false
  pcPar : Bool := false
  deriving DecidableEq, Repr

/-- A load that lands at the end of the next instruction (R244); `tap` when a TAP-group instruction issued it (R243). -/
structure Landing where
  code : Nat
  v : BitVec 24
  tag : BitVec 4
  tap : Bool
  deriving DecidableEq, Repr

/-- An entry of the loop stack (R239): the outer LC, the first word of the body, the END position. -/
structure LoopF where
  lc : BitVec 16
  start : BitVec 17
  endAt : BitVec 17
  deriving DecidableEq, Repr

/-- A Geldin core with the attempt that it runs (R170-R182, R190, R236-R247). `st`: 0 IDLE, 1 RUN, 2 COMMIT. -/
structure Core where
  st : Nat := 0
  /-- key of the instance: task, plus 4,096 for a delayed one -/
  inst : Nat := 0
  attempt : Nat := 0
  /-- data Ell, and whether the loads of the attempt cross the Strait -/
  data : Nat := 0
  strait : Bool := false
  disp : Nat := 0
  slotDl : Nat := 0
  stageDl : Nat := 0
  entryW : Nat := 0
  gap : Nat := 0
  regs : Regs := {}
  /-- delay slots left and the target that follows them (R236) -/
  ds : Nat := 0
  target : Option (BitVec 17) := none
  ret : List (BitVec 17) := []
  loops : List LoopF := []
  /-- repetitions left of the present instruction (R238) -/
  rep : Nat := 0
  land : List Landing := []
  hc : Nat := 0
  hcHi : Nat := 0
  sig : BitVec 4 := 0
  /-- a WAITE that waits: register and mask -/
  wait : Option (BitVec 3 × BitVec 4) := none
  /-- GTS at which it began to wait (R217, R245) -/
  waitFrom : Nat := 0
  /-- a load waits for its retry: word address (R184) -/
  ecc : Option Nat := none
  /-- HALT, STEP or BREAK to be taken at the next event point; TRACE likewise -/
  stop : Bool := false
  halted : Bool := false
  traceDue : Bool := false
  /-- the last capture: PC, SW, CL_HC -/
  trace : Option (Nat × Nat × Nat) := none
  /-- the commit buffer (R177) -/
  buf : Tbl (Option Word) := []
  /-- instruction buffer: holm, lines of eight instructions held, newest first, and the line that the fill comes to next (R245) -/
  ibuf : Nat × List Nat × Nat := (0, [], 0)
  deriving DecidableEq, Repr

/-- A task instance of one data Ell (R173-R182). -/
structure Inst where
  live : Bool := false
  data : Nat := 0
  /-- Ell in which it runs, and its stage deadline -/
  inEll : Nat := 0
  stageEnd : Nat := 0
  fin : Bool := false
  /-- attempt 0 has ended in failure -/
  passed : Bool := false
  cause : Nat := 0
  attempt : Nat := 0
  lastCore : Nat := 0
  /-- failed attempts -/
  faults : Nat := 0
  /-- the next attempt and the core granted to it; the GTS and the source of the request; and every standby core granted (R182, R27) -/
  next : Option (Nat × Nat) := none
  req : Nat × Nat := (0, 0)
  granted : List Nat := []
  run : Option Nat := none
  deriving DecidableEq, Repr

/-- What a task carries from Ell to Ell (R170, R184, R186). -/
structure TaskStat where
  svc : Nat := 0
  cause : Nat := 0
  attempt : Nat := 0
  core : Nat := 0
  ell : Nat := 0
  commit : Nat := 0
  faults : Nat := 0
  concealed : Nat := 0
  /-- data Ell of the last commit, plus one; 0 while the task is fresh -/
  last : Nat := 0
  lost : Bool := false
  /-- Ell plus one at whose boundary the zeroing of the state region begins; 0 none -/
  zero : Nat := 0
  deriving DecidableEq, Repr

/-! ## Voice functions, [10]: what a library task keeps in the private words of its state region -/

/-- What every library task keeps: the data Ell of its last cold start and the Ells since then, commands applied, and the last one
(R252, R260). -/
structure VoiceTask where
  cold : Nat := 0
  age : Nat := 0
  applied : Nat := 0
  refused : Bool := false
  chan : Nat := 0
  index : Nat := 0
  deriving DecidableEq, Repr

/-- Sums of squares of an 800-Ell period of an echo canceller (R260): Ells, near end, reference, output; and over the Ells in which echo
alone was heard near end, reference and residual; Ells with double-talk. -/
structure EchoSums where
  ells : Nat := 0
  sin : Nat := 0
  ref : Nat := 0
  out : Nat := 0
  echoSin : Nat := 0
  echoRef : Nat := 0
  echoRes : Nat := 0
  dt : Nat := 0
  deriving DecidableEq, Repr

/-- An echo canceller (R257-R260). `filt` and `noise` stand for the filter and for the background estimate. -/
structure Canceller where
  filt : Nat := 0
  noise : Nat := 0
  /-- the 31-bit generator of the comfort noise -/
  gen : BitVec 31 := 0
  /-- reference samples, newest first -/
  refs : List Int := []
  /-- Ells for which double-talk is still held, and for which adaptation is still frozen after a gap -/
  hold : Nat := 0
  frozen : Nat := 0
  adapted : Bool := false
  /-- near end and residual of the last Ells of echo alone, newest first -/
  recent : List (Nat × Nat) := []
  /-- number of the period of `sums`, and the sums of the last period -/
  period : Nat := 0
  sums : EchoSums := {}
  last : EchoSums := {}
  deriving DecidableEq, Repr

/-- Channel status of a codec (R267). -/
structure CodecStat where
  mode : Nat := 0
  sat : Bool := false
  frames : Nat := 0
  lost : Nat := 0
  fec : Nat := 0
  bad : Nat := 0
  bytesLast : Nat := 0
  level : Int := -8388608
  concIn : Nat := 0
  /-- squares of the samples of the present frame, and whether one of them carried `c` -/
  sq : Nat := 0
  conc : Bool := false
  deriving DecidableEq, Repr

/-- An encoder channel (R263, R264). `st` stands for the codec's own state. -/
structure EncChan where
  st : Nat := 0
  /-- frame windows begun since the cold start, up to 3 -/
  wins : Nat := 0
  /-- input samples, newest first (G.711, G.722) -/
  hist : List Int := []
  /-- Opus: rate, bw, vbr, fec in force, and the samples of the window, newest first; the same of the window before -/
  par : List Nat := []
  cap : List Int := []
  parOld : List Nat := []
  capOld : List Int := []
  /-- the frame that is being emitted -/
  out : CodedFrame := { first := 0, data := [], lost := true, fec := false }
  stat : CodecStat := {}
  deriving DecidableEq, Repr

/-- A frame window of a decoder as it is judged (R265). -/
structure CodedWin where
  opened : Bool := false
  bad : Bool := false
  lost : Bool := false
  fec : Bool := false
  ended : Bool := false
  data : List Byte := []
  deriving DecidableEq, Repr

/-- What a decoder is to play: decoded bytes, a frame rebuilt from redundancy, or a lost or bad frame (R265). -/
inductive ToPlay where
  | good (data : List Byte)
  | redundant (data : List Byte)
  | lost (bad : Bool)
  deriving DecidableEq, Repr

/-- A decoder channel (R265, R266). -/
structure DecChan where
  st : Nat := 0
  wins : Nat := 0
  cur : CodedWin := {}
  /-- G.711 and G.722: what each of the last Ells is to play, with its place in its frame, newest first, and the narrow-band samples -/
  units : List (Nat × ToPlay) := []
  narrow : List Int := []
  /-- Opus: the frame that is judged and not played, and the one that plays with the codec's state before it -/
  pend : Option ToPlay := none
  play : Option ToPlay := none
  stPlay : Nat := 0
  /-- state of R266, frames lost in a row, and whether the present frame fades in -/
  state : Nat := 0
  lostRun : Nat := 0
  fadeIn : Bool := false
  broken : Bool := false
  stat : CodecStat := {}
  deriving DecidableEq, Repr

/-- The library tasks, by task; encoder and decoder channels by 32 x task + channel. -/
structure VoiceLib where
  tasks : Tbl VoiceTask := []
  cancel : Tbl Canceller := []
  enc : Tbl EncChan := []
  dec : Tbl DecChan := []
  deriving DecidableEq, Repr

/-- The holm array. -/
structure HolmA where
  /-- holm data memory, key holm * 2^21 + word address, as containers -/
  mem : Tbl Word := []
  /-- program memory, key holm * 131,072 + word address -/
  prog : Tbl Word := []
  cores : Tbl Core := []
  insts : Tbl Inst := []
  stat : Tbl TaskStat := []
  /-- HA_PACE of each holm; holms whose gauge has no reading for the Ell that runs (R174) -/
  pace : Tbl Nat := []
  noPace : List Nat := List.range 16
  /-- accesses of holm data memory in one grain: its GTS, and the banks (R167) -/
  bankUse : Nat × List Nat := (0, [])
  /-- takeovers: frozen in-service core and standby core, by core number; and frozen cores without one (R185, R355) -/
  take : List (Nat × Nat) := []
  uncovered : List Nat := []
  lib : VoiceLib := {}
  deriving DecidableEq, Repr

/-! ## Mix Fabric, [11] -/

/-- A ramp in flight (R282): start data Ell, length in Ells, law, starting gain and target. -/
structure Ramp where
  s : Nat
  d : Nat
  equal : Bool
  g0 : Int
  g1 : Int
  deriving DecidableEq, Repr

/-- A crosspoint: its instantaneous gain, its target and its ramp. -/
structure Xp where
  g : Int := 0
  g1 : Int := 0
  ramp : Option Ramp := none
  deriving DecidableEq, Repr

/-- Status of a bus (R290). -/
structure BusStat where
  sat : Bool := false
  c : Bool := false
  held : Bool := false
  blocking : Bool := false
  /-- data Ell plus one of the last saturation -/
  satEll : Nat := 0
  deriving DecidableEq, Repr

/-- The Mix Fabric. -/
structure MixF where
  /-- coefficient banks: key bank * 2^18 + 2 * crosspoint + word (R280) -/
  coef : Tbl Word := []
  /-- entries lost to an uncorrectable error, key bank * 2^17 + crosspoint (R352) -/
  lost : List Nat := []
  active : Nat := 0
  xp : Tbl Xp := []
  /-- removed crosspoints whose ramp to zero runs (R63): bus, slot, crosspoint -/
  gone : List (Nat × Nat × Nat) := []
  /-- a pending swap: forced, data Ell of acceptance; and whether it is deferred -/
  pend : Option (Bool × Nat) := none
  deferred : Bool := false
  result : Nat := 0
  swapEll : Nat := 0
  stat : Tbl BusStat := []
  lastClean : Tbl Word := []
  doneEll : Nat := 0
  hcLast : Nat := 0
  late : Bool := false
  deriving DecidableEq, Repr

/-! ## The whole device -/

/-- The state of the TD4096. `pending` is the model's queue of commands, first in, first out. -/
structure State where
  pending : List Instr := []
  /-- GTS of the last event taken (R26, R334) -/
  gts : Gts := 0
  -- bus
  regs : Tbl Word := []
  ctrs : Tbl (BitVec 64) := []
  /-- CNT_HI latches (R7), by block base and master -/
  cntHi : Tbl Word := []
  /-- words returned by the last read of each master, and the SPI status byte (R443) -/
  rdata : Tbl (List Word) := []
  spiStatus : Nat := 0
  /-- messages signalled on each MSI-X vector since reset (R428) -/
  msix : Tbl Nat := []
  log : EventLog := {}
  -- configuration
  cfg : Cfg := {}
  load : Load := {}
  staging : Tbl Word := []
  -- blocks
  ports : Tbl Port := []
  queues : Tbl Queue := []
  /-- QF_RESULT (R137) -/
  qfResult : Nat := 0
  sup : Sup := {}
  fuses : Fuses := {}
  trust : Trust := {}
  host : HostP := {}
  tb : TimeB := {}
  se : StreamE := {}
  ce : CipherE := {}
  em : EllMem := {}
  cz : CompE := {}
  rc : RateC := {}
  ha : HolmA := {}
  mf : MixF := {}
  -- pins and rails
  pwrEn : Bool := true
  pmbusOn : Bool := true
  /-- levels of the slot-driven outputs (R440) -/
  gpioPins : Word := 0
  /-- draws of free values so far: the model's own field -/
  freeN : Nat := 0
  deriving DecidableEq, Repr

/-- The state right after the release of power-on reset (R394). -/
def State.reset : State := {}

end Sys2Proof.Machine
end

