-- ==== Sys2Proof/Machine/Ops.lean ====
section
/-! DEFINITION. The named operations over tables, registers, counters, events and time, on which every meaning
rests. -/

namespace Sys2Proof.Machine

/-! ## Tables -/

/-- The value at a key; unlisted keys read as `d`. -/
def tget {α : Type} (d : α) : Tbl α → Nat → α
  | [], _ => d
  | (k, v) :: t, i => if i = k then v else tget d t i

/-- Inserting an entry before the first greater key. -/
def tins {α : Type} (i : Nat) (x : α) : Tbl α → Tbl α
  | [] => [(i, x)]
  | (k, v) :: t => if i < k then (i, x) :: (k, v) :: t else (k, v) :: tins i x t

/-- Writing one value; writing the default removes the entry, so that equal tables are equal data. -/
def tset {α : Type} [DecidableEq α] (d : α) (t : Tbl α) (i : Nat) (x : α) : Tbl α :=
  let r := t.filter fun e => e.1 != i
  if x = d then r else tins i x r

/-- Changing the value at a key. -/
def tupd {α : Type} [DecidableEq α] (d : α) (t : Tbl α) (i : Nat) (f : α → α) : Tbl α := tset d t i (f (tget d t i))

/-- The canonical form: keys strictly rising from `lo` on, no value equal to the default. -/
def twfFrom {α : Type} [DecidableEq α] (d : α) : Nat → Tbl α → Bool
  | _, [] => true
  | lo, (k, v) :: t => decide (lo ≤ k) && decide (v ≠ d) && twfFrom d (k + 1) t

/-- The canonical form of a table. -/
def twf {α : Type} [DecidableEq α] (d : α) (t : Tbl α) : Bool := twfFrom d 0 t

/-- Dropping every entry whose key satisfies `p`. -/
def tdrop {α : Type} (t : Tbl α) (p : Nat → Bool) : Tbl α := t.filter fun e => !p e.1

/-- Changing every value of a table. -/
def tmap {α : Type} [DecidableEq α] (d : α) (t : Tbl α) (f : α → α) : Tbl α :=
  (t.map fun e => (e.1, f e.2)).filter fun e => decide (e.2 ≠ d)

/-- Writing a run of values from key `i` on. -/
def tsets {α : Type} [DecidableEq α] (d : α) (t : Tbl α) (i : Nat) : List α → Tbl α
  | [] => t
  | x :: xs => tsets d (tset d t i x) (i + 1) xs

/-- Reading a run of `n` values from key `i` on. -/
def tgets {α : Type} (d : α) (t : Tbl α) (i n : Nat) : List α := (List.range n).map fun j => tget d t (i + j)

/-! ## Bits and bytes -/

/-- Bits [hi:lo] of a number. -/
def fld (w hi lo : Nat) : Nat := w / 2 ^ lo % 2 ^ (hi + 1 - lo)

/-- Bit `i` of a number. -/
def bit (w i : Nat) : Bool := w.testBit i

/-- A flag as a number. -/
def b2n (b : Bool) : Nat := if b then 1 else 0

/-- Byte `i` of a list of bytes, zero beyond its end. -/
def byteAt (l : List Byte) (i : Nat) : Nat := (l.getD i 0).toNat

/-- Bytes [i, i + n) of a list. -/
def slice (l : List Byte) (i n : Nat) : List Byte := (l.drop i).take n

/-- Little-endian fields of a body (R37). -/
def u16 (l : List Byte) (i : Nat) : Nat := leNat (slice l i 2)
def u32 (l : List Byte) (i : Nat) : Nat := leNat (slice l i 4)
def u64 (l : List Byte) (i : Nat) : Nat := leNat (slice l i 8)

/-- Big-endian fields of a frame. -/
def n16 (l : List Byte) (i : Nat) : Nat := beNat (slice l i 2)
def n24 (l : List Byte) (i : Nat) : Nat := beNat (slice l i 3)
def n32 (l : List Byte) (i : Nat) : Nat := beNat (slice l i 4)

/-- A number as a signed `w`-bit value. -/
def sgn (w n : Nat) : Int := if n % 2 ^ w < 2 ^ (w - 1) then (n % 2 ^ w : Nat) else (n % 2 ^ w : Nat) - (2 ^ w : Nat)

/-- An integer modulo 2^w. -/
def wrap (w : Nat) (x : Int) : Nat := (x % (2 ^ w : Nat)).toNat

/-- Division rounded up. -/
def cdiv (a b : Nat) : Nat := if b = 0 then 0 else (a + b - 1) / b

/-- Saturating at `2^w - 1`. -/
def satN (w n : Nat) : Nat := min n (2 ^ w - 1)

/-- Replacing the element at a position of a list. -/
def setAt {α : Type} : List α → Nat → α → List α
  | [], _, _ => []
  | _ :: t, 0, x => x :: t
  | h :: t, n + 1, x => h :: setAt t n x

/-- Inserting a number into a list without repeats. -/
def insertN (l : List Nat) (n : Nat) : List Nat := if l.contains n then l else n :: l

/-- Whether every byte of a list is zero. -/
def allZero (l : List Byte) : Bool := l.all (· == 0)

/-- Bytes padded or cut to a length. -/
def padTo (n : Nat) (l : List Byte) : List Byte := (l ++ List.replicate n 0).take n

/-- The bytes as the 32-bit little-endian words of a window. -/
def wordsOf : List Byte → List Nat
  | a :: b :: c :: d :: r => leNat [a, b, c, d] :: wordsOf r
  | [] => []
  | l => [leNat l]

/-! ## Time (R9, R335) -/

namespace State

/-- GTS now, as a number. -/
def now (s : State) : Nat := s.gts.toNat

/-- Media time of a GTS. -/
def mediaOf (s : State) (g : Nat) : Int := (g : Int) + s.tb.ofs

/-- Ell count of a GTS, not reduced modulo 2^48. -/
def ellOf (s : State) (g : Nat) : Nat := (s.mediaOf g / 500000).toNat

/-- Ell count of the present event. -/
def ell (s : State) : Nat := s.ellOf s.now

/-- Count of elapsed Ells: a realignment leaves it alone (R338). -/
def elapsed (s : State) : Nat := ((s.ell : Int) - s.tb.jumped).toNat

/-- E_n as a GTS (R335). -/
def startOf (s : State) (n : Nat) : Nat := ((n : Int) * 500000 - s.tb.ofs).toNat

/-- The anti-rollback counter at GTS `g`: while an advance runs, a bit is blown every 100 µs (R404, R408). -/
def blown (s : State) (g : Nat) : Nat :=
  if s.trust.busyOp = 7 then
    max s.fuses.rollback (min s.trust.advTo (s.trust.advOld + (g - s.trust.advFrom) / 400000))
  else s.fuses.rollback

/-- Taking an event at GTS `t` (R26): GTS never runs back, and the fuse bits that fell due are blown. -/
def advance (s : State) (t : Gts) : State :=
  let g := if s.gts ≤ t then t else s.gts
  { s with gts := g, fuses := { s.fuses with rollback := s.blown g.toNat } }

/-! ## Registers and counters -/

/-- A stored register word. -/
def reg (s : State) (off : Nat) : Nat := (tget (regInit off) s.regs off).toNat

/-- Storing a register word. -/
def setReg (s : State) (off v : Nat) : State :=
  { s with regs := tset (regInit off) s.regs off (BitVec.ofNat 32 v) }

/-- Field [hi:lo] of a stored register. -/
def rfld (s : State) (off hi lo : Nat) : Nat := fld (s.reg off) hi lo

/-- A counter (R7). -/
def ctr (s : State) (off : Nat) : Nat := (tget 0 s.ctrs off).toNat

/-- Adding to a counter. -/
def bumpBy (s : State) (off n : Nat) : State :=
  { s with ctrs := tupd 0 s.ctrs off (· + BitVec.ofNat 64 n) }

/-- Counting one. -/
def bump (s : State) (off : Nat) : State := s.bumpBy off 1

/-! ## Events (R26, R383, R429) -/

/-- The AND of an event register and its enable under a mask of bits. -/
def evAnd (s : State) (evOff mask : Nat) : Nat := s.reg evOff &&& s.reg (evOff + 4) &&& mask

/-- Signalling an MSI-X vector once. -/
def signal (s : State) (v : Nat) : State := { s with msix := tupd 0 s.msix v (· + 1) }

/-- Signalling every vector of an event register whose AND is nonzero and satisfies `was` before (R429). -/
def signalEv (s : State) (evOff : Nat) (was : Nat → Bool) : State :=
  (evVectors evOff).foldl (fun s v => if s.evAnd evOff v.2 ≠ 0 ∧ was v.1 then s.signal v.1 else s) s

/-- Setting a bit of an event register; its vector is signalled when the AND changes from zero (R429). -/
def setEvBit (s : State) (evOff b : Nat) : State :=
  let s' := s.setReg evOff (s.reg evOff ||| 2 ^ b)
  s'.signalEv evOff fun v => (evVectors evOff).all fun e => e.1 ≠ v || s.evAnd evOff e.2 == 0

/-- Raising an event: it waits for the log of its Ell (R383) and sets its bit of XX_EVENT at once. -/
def raise (s : State) (source code : Nat) (d : List Nat := []) (svc : Nat := 0) : State :=
  let e : Ev := { gts := s.now, source, svc, code, d }
  let s := { s with log := { s.log with fresh := s.log.fresh ++ [e] } }
  match evBit code with
  | some (o, b) => s.setEvBit o b
  | none => s

/-- Raising a Supervisor event (R368, R385, R402). -/
def raiseSv (s : State) (low : Nat) (d : List Nat := []) : State := s.raise 15 (0xF00 + low) d

/-! ## Configuration (R59) -/

end State

/-- Key of a record. -/
def recKey (ty obj : Nat) : Nat := ty * 2 ^ 32 + obj

/-- The body of a record of a structure. -/
def recGet (r : Recs) (ty obj : Nat) : Option (List Byte) := tget none r (recKey ty obj)

/-- The records of one type of a structure, ascending by object. -/
def recsOf (r : Recs) (ty : Nat) : List (Nat × List Byte) :=
  r.filterMap fun e => if e.1 / 2 ^ 32 = ty then e.2.map fun b => (e.1 % 2 ^ 32, b) else none

/-- Record types of R42. -/
def tyDEVICE : Nat := 0x01
def tyPORT : Nat := 0x02
def tyGATE : Nat := 0x03
def tyPTP : Nat := 0x04
def tyRX : Nat := 0x10
def tyTX : Nat := 0x11
def tyDIRECT : Nat := 0x12
def tyQUEUE : Nat := 0x18
def tyCIPHER : Nat := 0x20
def tyCZCTX : Nat := 0x21
def tyPROGRAM : Nat := 0x30
def tyTASK : Nat := 0x31
def tyDEPEND : Nat := 0x32
def tySLOTUSE : Nat := 0x33
def tyDATA : Nat := 0x34
def tyRATE : Nat := 0x38
def tySCANSET : Nat := 0x39
def tyBUS : Nat := 0x40
def tyCOEF : Nat := 0x41
def tyLOCAL : Nat := 0x48
def tyFIREWALL : Nat := 0x50
def tyPOLICY : Nat := 0x58
def tyADMIT : Nat := 0xF0
def tyEND : Nat := 0xFF

namespace State

/-- The structure that handles data Ell `n` (R59). -/
def recsAt (s : State) (n : Nat) : Recs :=
  match s.cfg.deltaK with
  | some k => if k ≤ n then s.cfg.next else s.cfg.recs
  | none => s.cfg.recs

/-- A record of the structure that handles data Ell `n`. -/
def recAt (s : State) (n ty obj : Nat) : Option (List Byte) := recGet (s.recsAt n) ty obj

/-- The data Ell that copies arriving now may be the first to serve (R59). -/
def soon (s : State) : Nat := s.ell + 2

/-- The number of the Ell that is current, or coming, at `ahead` grains from now, in the present numbering. -/
def aheadOld (s : State) (ahead : Int) : Nat := ((s.mediaOf s.now + ahead) / 500000).toNat

/-- The same number under a decided realignment (R338). -/
def aheadEll (s : State) (ahead : Int) : Nat :=
  let n := s.aheadOld ahead
  match s.tb.realign with
  | some (j, _, at') => if at' ≤ n then ((n : Int) + j).toNat else n
  | none => n

/-- A record of the running structure. -/
def recNow (s : State) (ty obj : Nat) : Option (List Byte) := recGet s.cfg.recs ty obj

/-! ## Blocks by number -/

def port (s : State) (p : Nat) : Port := tget {} s.ports p
def setPort (s : State) (p : Nat) (x : Port) : State := { s with ports := tset {} s.ports p x }
def updPort (s : State) (p : Nat) (f : Port → Port) : State := s.setPort p (f (s.port p))
def queue (s : State) (q : Nat) : Queue := tget {} s.queues q
def setQueue (s : State) (q : Nat) (x : Queue) : State := { s with queues := tset {} s.queues q x }
def updQueue (s : State) (q : Nat) (f : Queue → Queue) : State := s.setQueue q (f (s.queue q))
def inst (s : State) (i : Nat) : PtpInst := tget {} s.tb.inst i
def setInst (s : State) (i : Nat) (x : PtpInst) : State := { s with tb := { s.tb with inst := tset {} s.tb.inst i x } }
def updSup (s : State) (f : Sup → Sup) : State := { s with sup := f s.sup }
def updTrust (s : State) (f : Trust → Trust) : State := { s with trust := f s.trust }
def updHost (s : State) (f : HostP → HostP) : State := { s with host := f s.host }
def updTb (s : State) (f : TimeB → TimeB) : State := { s with tb := f s.tb }

/-- Whether a source is frozen (R355, R360). -/
def isFrozen (s : State) (src : Nat) : Bool := s.sup.frozen.contains src

/-- A draw of a free value: the model's own counter advances. -/
def draw (s : State) : BitVec 64 × State := (Config.freeValue s.freeN, { s with freeN := s.freeN + 1 })

/-- The mode that decides what runs: in Debug, the mode from which it was entered (R400). -/
def runMode (s : State) : Mode := if s.sup.mode = .debug then s.sup.debugFrom else s.sup.mode

/-- Modes in which the audio pipeline runs (R386). -/
def audioOn (s : State) : Bool :=
  s.runMode == .calibrate || s.runMode == .service || s.runMode == .sheltered || s.runMode == .reconfigure

/-- Modes in which media leaves the device (R386, R389). -/
def mediaOn (s : State) : Bool := s.runMode == .service || s.runMode == .sheltered || s.runMode == .reconfigure

end State

/-! ## The shape of every meaning -/

/-- Source number of a master (R28); the management SPI has none and is shown as 0xFF (DESIGN CHOICE, log 8). -/
def srcOf : Master → Nat
  | .host => 13 | .spi => 0xFF | .debug => 17 | .supervisor => 15 | .trust => 16

/-- A command that no part of the Trust Block's fuses takes part in: it acts at GTS `t`. The queue of commands is
the environment's, and the fuse array is written by the Trust Block alone (R35, R404). -/
def act (t : Gts) (f : State → State) (s : State) : Host.Outcome State Fault Refusal :=
  let s0 := s.advance t
  let s' := f s0
  .next { s' with pending := s.pending, gts := s0.gts, fuses := s0.fuses }

/-- A command that may reach the fuses. -/
def actTrust (t : Gts) (f : State → State) (s : State) : Host.Outcome State Fault Refusal :=
  let s0 := s.advance t
  let s' := f s0
  .next { s' with pending := s.pending, gts := s0.gts }

end Sys2Proof.Machine
end

