-- ==== Sys2Proof/Machine/Firewall.lean ====
section
/-! DEFINITION. Who may reach BAR0: the order of R425, the debug levels (R414), the firewall windows (R359), and what
a violation does (R360). -/

namespace Sys2Proof.Machine

/-- An open debug session ends with a cause: 0 expiry, 1 CLOSE, 2 reset, 3 freeze, 4 mode (R414, R420). -/
def closeDebug (cause : Nat) (s : State) : State :=
  if s.trust.level = 0 then s
  else (s.updTrust fun t => { t with level := 0, sessEnd := none }).raise 16 0x1004 [cause]

/-- A source is frozen: cause 0 firewall, 1 faults (R355, R360). -/
def freeze (src cause : Nat) (s : State) : State :=
  if s.isFrozen src then s
  else
    let s := s.updSup fun u => { u with frozen := src :: u.frozen }
    let s := (s.raiseSv 0x41 [src, cause]).bump (baseSV + 0x704)
    if src = 13 then s.updSup fun u => { u with hostFrozenAt := s.now }
    else if src = 17 then closeDebug 3 s
    else s

/-- Bit of a master in a window's `masters` (R358). -/
def fwBit : Master → Option Nat
  | .host => some 0 | .spi => some 1 | .debug => some 2 | .supervisor => none | .trust => none

/-- Whether a window's body governs a master at an offset (R358, R359). -/
def windowHits (b : List Byte) (mbit off : Nat) : Bool :=
  decide (u32 b 0 ≤ off) && decide (off < u32 b 4) && bit (byteAt b 8) mbit

/-- The lowest-numbered window that governs an access (R359). -/
def windowOf (s : State) (mbit off : Nat) : Option (Nat × List Byte) :=
  (recsOf s.cfg.recs tyFIREWALL).find? fun w => windowHits w.2 mbit off

/-- The decision of the firewall: allowed, and the deciding window (R359). -/
def fwDecide (s : State) (m : Master) (off : Nat) (write : Bool) : Bool × Option Nat :=
  match fwBit m with
  | none => (true, none)
  | some mb =>
    if m = Master.spi ∧ (off < 0x10000 ∨ off = baseSV + 0x604 ∨ off = baseSV + 0x608) then (true, none)
    else
      match windowOf s mb off with
      | some (i, b) => (bit (byteAt b 9) (if write then 1 else 0), some i)
      | none => (decide (m ≠ Master.debug), none)

/-- Latching the first violation since the last CLEAR_VIOL (R360). -/
def latchViol (m : Master) (off : Nat) (write : Bool) (win : Option Nat) (u : Sup) : Sup :=
  if bit u.violInfo 22 then u
  else { u with
    violAddr := off
    violInfo := srcOf m * 2 ^ 24 + b2n write * 2 ^ 23 + 2 ^ 22 + (if win.isNone then 2 ^ 8 else 0) + win.getD 0 }

/-- Completing a host request with Completer Abort (R356, R360). -/
def abortHost (s : State) : State := (s.updHost fun h => { h with aborted := true }).bump (baseHP + 0x220)

/-- A firewall violation of a bus master (R360). A violation without a window shows window 0x100 in the event. -/
def violate (m : Master) (off : Nat) (write : Bool) (win : Option Nat) (s : State) : State :=
  let s := (s.raiseSv 0x40 [srcOf m, off, b2n write, win.getD 0x100]).bump (baseSV + 0x700)
  let s := s.updSup (latchViol m off write win)
  match m with
  | .host => freeze 13 0 (abortHost s)
  | .spi => { s with spiStatus := s.spiStatus ||| 1 }
  | .debug => freeze 17 0 s
  | .supervisor => s
  | .trust => s

/-- A violation of a fixed-function block (R360): the second within 8,000 Ells is a cause of Recovery (R398). -/
def violateBlock (src addr : Nat) (write : Bool) (s : State) : State :=
  let s := (s.raiseSv 0x40 [src, addr, b2n write, 0x100]).bump (baseSV + 0x700)
  let last := tget 0 s.sup.blkViol src
  let s := s.updSup fun u =>
    let u := if bit u.violInfo 22 then u else
      { u with violAddr := addr, violInfo := src * 2 ^ 24 + b2n write * 2 ^ 23 + 2 ^ 22 + 2 ^ 8 }
    { u with blkViol := tset 0 u.blkViol src (s.ell + 1) }
  if last ≠ 0 ∧ s.ell + 1 < last + 8000 then
    s.updSup fun u => { u with reqs := u.reqs ++ [{ rank := 50, goTo := .recovery, cause := 50 }] }
  else s

/-- ECC_UNCORR (R351): counted and logged once per word. -/
def eccUncorr (array addr : Nat) (s : State) : State :=
  if s.sup.badWords.contains (array, addr) then s
  else
    ((s.updSup fun u => { u with badWords := (array, addr) :: u.badWords }).raiseSv 0x44 [array, addr]).bump (baseSV + 0x70C)

/-- Registers that answer the management SPI in Standby: the Global block and the registers of R403 and R397. -/
def standbyReg (off : Nat) : Bool :=
  decide (off < 0x10000) || [0x20A00, 0x20A04, 0x20A08, 0x20A0C].contains (off / 4 * 4) ||
    (let o := off - 0x40000
     decide (0x40000 ≤ off) && decide (off < 0x50000) &&
      (let r := o % 0x4000 / 4 * 4
       r == 0x4C || r == 0x50 || r == 0x54 || (decide (0x80 ≤ r) && decide (r < 0xC0))))

/-- What the management SPI can still read in Lockdown (R401). -/
def lockdownReg (off : Nat) : Bool :=
  decide (off < 0x10000) || off / 4 * 4 == 0x20A08 || (decide (0x10000 ≤ off) && decide (off < 0x20000))

/-- Whether the debug level lets the debug port try an access (R414). Certificates and OPEN and CLOSE reach the Trust
Block at every level (R409, R415; DEDUCED, log 21). -/
def debugMay (s : State) (off : Nat) (write : Bool) : Bool :=
  let trustWr := off / 4 * 4 == 0x10000 || (decide (0x14000 ≤ off) && decide (off < 0x16000))
  match s.trust.level with
  | 0 => if write then trustWr else off == 0 || off == 0x10008
  | 1 => if write then trustWr else true
  | _ => true

/-- A refused access of the management SPI: status bit and `spi_refused` (R425, R443). -/
def spiRefuse (b : Nat) (s : State) : State := { s with spiStatus := s.spiStatus ||| 2 ^ b }.bump (baseHP + 0x22C)

/-- The decision on one access, in the order of R425, and what a refusal leaves. -/
def access (m : Master) (off : Nat) (write : Bool) (s : State) : Bool × State :=
  let fw : Bool × State :=
    match fwDecide s m off write with
    | (true, _) => (true, s)
    | (false, w) => (false, violate m off write w s)
  match m with
  | .supervisor => (true, s)
  | .trust => (true, s)
  | .host =>
    if s.sup.mode = .off ∨ s.sup.mode = .standby ∨ s.sup.mode = .lockdown then
      (false, s.updHost fun h => { h with aborted := true })
    else if s.isFrozen 13 then (false, abortHost s)
    else fw
  | .spi =>
    if s.sup.mode = .off then (false, s)
    else if off % 4 ≠ 0 then (false, spiRefuse 3 s)
    else if s.sup.mode = .standby ∧ ¬ standbyReg off then (false, spiRefuse 2 s)
    else if s.sup.mode = .lockdown ∧ (write ∨ ¬ lockdownReg off) then (false, spiRefuse 0 s)
    else fw
  | .debug =>
    if s.sup.mode = .off ∨ s.sup.mode = .standby ∨ s.sup.mode = .lockdown then (false, s)
    else if off % 4 ≠ 0 ∨ ¬ debugMay s off write ∨ s.isFrozen 17 then (false, s)
    else fw

/-- A request begins: the completion of the host's last one is forgotten. -/
def begun (m : Master) (s : State) : State := if m = .host then s.updHost fun h => { h with aborted := false } else s

/-- Whether an access is allowed (R425). -/
def allows (m : Master) (off : Nat) (write : Bool) (s : State) : Bool := (access m off write (begun m s)).1

/-- A write that a master makes to a register with an operation of its own. -/
def guardWrite (m : Master) (off : Nat) (f : State → State) (s : State) : State :=
  match access m off true (begun m s) with
  | (true, s) => f s
  | (false, s) => s

/-- One decision for a request of several dwords: the first refusal ends it (R425). -/
def guardAll (m : Master) (offs : List Nat) (f : State → State) (s : State) : State :=
  match offs.foldl (fun a off => if a.1 then access m off true a.2 else a) (true, begun m s) with
  | (true, s) => f s
  | (false, s) => s

/-- The effect of a plain write on a stored register (R6): RW and unlocked RWL bits are stored, W1C bits cleared. The lock
holds for writes of the host port and the management SPI (R84). -/
def storeReg (m : Master) (off v : Nat) (s : State) : State :=
  let d := regDef off
  let old := s.reg off
  let mask := d.rw ||| (if s.sup.rwlLocked ∧ (m = .host ∨ m = .spi) then 0 else d.rwl)
  let kept := old ^^^ (old &&& mask)
  let new := kept ||| (v &&& mask)
  s.setReg off (new ^^^ (new &&& (v &&& d.w1c)))

end Sys2Proof.Machine
end

