-- ==== Sys2Proof/Machine/Queues.lean ====
section
/-! DEFINITION. The Queue Fabric, [05]: items, pointers, pushes and pops, idle timeouts, flushes, marks and PFC. -/

namespace Sys2Proof.Machine

/-- The descriptor in force for a queue: an added queue is built at E_{k-2} (R121, R464). -/
def qDesc (s : State) (q : Nat) : Option (List Byte) :=
  match s.recNow tyQUEUE q with
  | some b => some b
  | none => if s.cfg.deltaK.isSome then recGet s.cfg.next tyQUEUE q else none

/-- Descriptor fields (R121). -/
def qA (d : List Byte) : Nat := byteAt d 4
def qSlots (d : List Byte) : Nat := 2 ^ qA d
def qMod (d : List Byte) : Nat := 2 ^ (qA d + 1)
def qProd (d : List Byte) : Nat := byteAt d 6
def qCons (d : List Byte) : Nat := byteAt d 7
def qLossy (d : List Byte) : Bool := bit (byteAt d 8) 0
def qPfc (d : List Byte) : Bool := bit (byteAt d 8) 1
def qCt (d : List Byte) : Nat := byteAt d 9
def qIdle (d : List Byte) : Nat := u16 d 0xA
def qHi (d : List Byte) : Nat := u16 d 0xC
def qLo (d : List Byte) : Nat := u16 d 0xE
def qQuanta (d : List Byte) : Nat := u16 d 0x10
def qPort (d : List Byte) : Nat := byteAt d 0x12 % 4
def qClass (d : List Byte) : Nat := byteAt d 0x13 % 8
def qCap (d : List Byte) : Nat := 64 * byteAt d 5 - 16

/-- Depth and the writer's occupancy (R125). -/
def qDepth (d : List Byte) (q : Queue) : Nat := (q.w + qMod d - q.rd) % qMod d
def qOcc (d : List Byte) (q : Queue) : Nat := if q.mark then (q.w + qMod d - q.mkp) % qMod d else qDepth d q

/-- Counter j of queue q (R138). -/
def qCtr (q j : Nat) : Nat := baseQF + 0x4000 + 64 * q + 8 * j

/-- An event of the fabric, with the queue as its first detail (R136). -/
def qEvent (low q x : Nat) (s : State) : State := s.raise 6 (0x600 + low) [q, x]

/-- A refused access (R124): counted, logged, and a violation of the block (R360). The event's second detail packs the offending
source x 65,536 + 0 push, 1 pop or mark (DESIGN CHOICE, log 7). -/
def qRogue (q src kind : Nat) (s : State) : State :=
  violateBlock src (baseQF + 0x1000 + 16 * q) (kind = 0) (qEvent 5 q (src * 65536 + kind) (s.bump (qCtr q 6)))

/-- Grains per 100 quanta-bits: a pause of `q` quanta at 25 or 10 Gbit/s (R77). -/
def pauseGrains (tenG : Bool) (quanta : Nat) : Nat := if tenG then cdiv (quanta * 512 * 4) 10 else cdiv (quanta * 512 * 16) 100

/-- A PFC frame of the port named by the queue (R79, R135), sent when the class is in the port's mask. -/
def sendPfc (d : List Byte) (quanta : Nat) (s : State) : State :=
  let p := qPort d
  let c := qClass d
  let cfg := s.reg (baseNP p + 0x34)
  let media := s.rfld (baseNP p + 0xC) 31 24
  if bit (fld cfg 23 16) c ∧ ¬ bit media c ∧ (s.port p).link then
    (s.updPort p fun x => { x with pfcSent := some (c, quanta) }).bump (baseNP p + 0x22C)
  else s

/-- PFC is asserted when a push brings the depth to `pause_hi` (R135). -/
def pfcRise (q : Nat) (d : List Byte) (s : State) : State :=
  let x := s.queue q
  if qPfc d ∧ ¬ x.pfcOn ∧ qHi d ≤ qDepth d x then
    let half := pauseGrains (bit (s.reg (baseNP (qPort d))) 2) (qQuanta d) / 2
    let s := s.setQueue q { x with pfcOn := true, pfcDue := s.now + half }
    sendPfc d (qQuanta d) (qEvent 6 q (qDepth d x) s)
  else s

/-- PFC is released when the depth comes to `pause_lo` or below (R135). -/
def pfcFall (q : Nat) (d : List Byte) (s : State) : State :=
  let x := s.queue q
  if x.pfcOn ∧ qDepth d x ≤ qLo d then
    sendPfc d 0 (qEvent 7 q (qDepth d x) (s.setQueue q { x with pfcOn := false }))
  else s

/-- An item is stored and W advances (R126, R128). -/
def qStore (q : Nat) (d : List Byte) (it : Item) (s : State) : State :=
  let x := s.queue q
  let it := { it with drp := it.drp || x.dropPend }
  let x := { x with
    slots := tset {} x.slots (x.w % qSlots d) it
    w := (x.w + 1) % qMod d
    dropPend := false
    push := none
    flushPush := false
    lastByte := s.now }
  pfcRise q d ((s.setQueue q x).bump (qCtr q 0))

/-- A lossy queue discards an incoming item (R128). -/
def qDrop (q : Nat) (s : State) : State :=
  let x := s.queue q
  let first := x.dropEll ≠ s.ell + 1
  let n := if first then 1 else x.dropCnt + 1
  let s := (s.setQueue q { x with dropPend := true, dropEll := s.ell + 1, dropCnt := n }).bump (qCtr q 2)
  if first then qEvent 1 q n s else s

/-- A push enters the queue (R126); `more` is still to be written. -/
def qBegin (q : Nat) (it : Item) (more : List (Gts × List Byte)) (s : State) : State :=
  s.updQueue q fun x =>
    { x with push := some it, pushWait := none, coming := more, pushFrom := s.now
             lastByte := if it.data.isEmpty then x.lastByte else s.now }

/-- A push request that does not stall or drop invalidates a mark it would overwrite (R134). -/
def qLoseMark (q : Nat) (s : State) : State := s.updQueue q fun x => { x with mark := false, markLost := true }

/-- Whether a pop is requested in the grain of a push (R127): one that has begun in it, or whose command of the same GTS still
waits in the queue of commands. -/
def popInGrain (q : Nat) (d : List Byte) (s : State) : Bool :=
  let x := s.queue q
  if x.popBusy then x.popReq == s.now
  else !x.popStall && s.pending.any fun c =>
    match c with
    | .queuePop t src q' => t.toNat == s.now && q'.toNat == q && src.toNat == qCons d
    | _ => false

/-- The policy of R127, R128 and R134 for a push request. -/
def qPush (q : Nat) (d : List Byte) (it : Item) (whole : Bool) (more : List (Gts × List Byte)) (s : State) : State :=
  let x := s.queue q
  let hold := s.setQueue q { x with pushWait := some it, waitWhole := whole, coming := more }
  if qDepth d x = qSlots d then (if qLossy d ∧ ¬ popInGrain q d s then qDrop q s else hold)
  else if qOcc d x = qSlots d then
    if ¬ qLossy d then hold
    else if qCons d = 7 then qDrop q s
    else qBegin q it more (qLoseMark q s)
  else qBegin q it more s

/-- Whether the producer still has a push under way: in progress, stalled, or being discarded. -/
def qBusy (x : Queue) : Bool := x.push.isSome || x.pushWait.isSome || x.pushDead

/-! ## Flushes and timeouts (R130-R132) -/

/-- Bytes of an item that a pop in progress has delivered. The speed of reading is open: of a whole item, from one byte on, any
number (a free value); of an item still being written, what is written (log 17). -/
def qRead (d : List Byte) (x : Queue) (s : State) : Item × State :=
  if 0 < qDepth d x then
    let it := tget {} x.slots (x.rd % qSlots d)
    let (v, s) := s.draw
    ({ it with data := it.data.take (1 + v.toNat % max 1 it.data.length) }, s)
  else (x.push.getD {}, s)

/-- Discarding every item from Rd to W, with what is in progress as the form of the flush says (R131). A producer that stalls has no
push in progress (DESIGN CHOICE, log 17). -/
def qFlush (q : Nat) (d : List Byte) (immediate : Bool) (s : State) : State :=
  let x := s.queue q
  let cut := immediate && x.push.isSome
  let n := qDepth d x + b2n cut
  let cutPop := immediate && x.popBusy
  let (it, s) := if cutPop then qRead d x s else ({}, s)
  let y := { x with
    out := if cutPop then x.out ++ [{ it with err := true, drp := it.drp || x.drpNext }] else x.out
    drpNext := x.drpNext && !cutPop
    popBusy := x.popBusy && !immediate
    push := if cut then none else x.push
    pushDead := x.pushDead || cut
    rd := x.w
    mark := false
    markLost := false
    flushPend := 0
    flushPush := false
    flushPop := false }
  pfcFall q d ((s.setQueue q y).bumpBy (qCtr q 3) n)

/-- The idle timeout of R130 at GTS `g`, and the flush that it forces (R132). A stalled pop and a push in progress whose windows end
together make one event with detail 1 (DESIGN CHOICE, log 17). -/
def qExpire (q : Nat) (d : List Byte) (g : Nat) (s : State) : State :=
  let x := s.queue q
  let due (since : Nat) : Bool := qIdle d != 0 && decide (max since x.lastByte + 4000 * qIdle d ≤ g)
  let pop := x.popStall && due x.waitFrom
  let push := x.push.isSome && due x.pushFrom
  if ¬ pop ∧ ¬ push then s
  else
    let s := if pop then s.updQueue q fun x => { x with popStall := false, timedOut := true } else s
    let s :=
      match push, x.push with
      | true, some it =>
        let s := qStore q d { it with err := true } s
        (s.updQueue q fun x => { x with pushDead := true }).bump (qCtr q 3)
      | _, _ => s
    let s := qEvent 2 q (b2n push) (s.bump (qCtr q 4))
    if x.flushPend ≠ 0 then qEvent 4 q 0 (qFlush q d true s) else s

/-- What has become of a queue by now: bytes are written at their instants, and a window that ends before or at one has timed out
(R129, R130). A producer that stalls writes nothing; the rest of a closed or abandoned push is discarded. -/
def qWrite (q : Nat) (d : List Byte) : List (Gts × List Byte) → State → State
  | [], s => qExpire q d s.now (s.updQueue q fun x => { x with coming := [] })
  | (g, bs) :: r, s =>
    if s.now < g.toNat ∨ (s.queue q).pushWait.isSome then
      qExpire q d s.now (s.updQueue q fun x => { x with coming := (g, bs) :: r })
    else
      let s := qExpire q d g.toNat s
      qWrite q d r (s.updQueue q fun x =>
        match x.push with
        | some it =>
          { x with push := some { it with data := it.data ++ bs }, lastByte := if bs.isEmpty then x.lastByte else max x.lastByte g.toNat }
        | none => x)

/-- An operation on a queue that is built, once the queue stands as it does now. -/
def onQueue (q : Nat) (f : List Byte → State → State) (s : State) : State :=
  match qDesc s q with
  | none => s
  | some d => f d (qWrite q d (s.queue q).coming s)

/-! ## Pushes and pops (R123-R129) -/

/-- A push that begins and completes in one event. -/
def qPushWhole (q : Nat) (d : List Byte) (it : Item) (s : State) : State :=
  let s := qPush q d it true [] s
  match (s.queue q).push with
  | some it => qStore q d it s
  | none => s

/-- What a stalled block presents next. -/
def qNext (q : Nat) (d : List Byte) : Nat → State → State
  | 0, s => s
  | fuel + 1, s =>
    let x := s.queue q
    match x.backlog with
    | [] => s
    | it :: r => if qBusy x then s else qNext q d fuel (qPushWhole q d it (s.setQueue q { x with backlog := r }))

/-- The producer of a queue is free again. -/
def qFreed (q : Nat) (d : List Byte) (s : State) : State := qNext q d (s.queue q).backlog.length s

/-- QUEUE_PUSH (R123, R124, R126-R128, R134): what is written with the request, and each further stretch at its GTS. -/
def execQueuePush (t : Gts) (src : BitVec 8) (q : BitVec 7) (tclass : BitVec 3) (aux : Word) (data : Stretches)
    (ts : Option Gts) : State → Host.Outcome State Fault Refusal :=
  act t <| onQueue q.toNat fun d s =>
    if src.toNat ≠ qProd d then qRogue q.toNat src.toNat 0 s
    else if qBusy (s.queue q.toNat) then s
    else
      qPush q.toNat d { src := src.toNat, tclass := tclass.toNat, aux := aux.toNat, gts := (ts.map BitVec.toNat).getD s.now, data := data.now }
        false data.later s

/-- PUSH_COMPLETE (R126): the last bytes are written, unless the push was closed or abandoned. -/
def execPushComplete (t : Gts) (q : BitVec 7) (rest : List Byte) (err : Bool) : State → Host.Outcome State Fault Refusal :=
  act t <| onQueue q.toNat fun d s =>
    let q := q.toNat
    let x := s.queue q
    if x.pushDead then qFreed q d (s.setQueue q { x with pushDead := false, flushPush := false, coming := [] })
    else
      match x.push with
      | none => s
      | some it =>
        let all := it.data ++ (x.coming.flatMap (·.2)) ++ rest
        qFreed q d (qStore q d { it with data := all, err := it.err || err } s)

/-- Whether a pop may deliver its first byte: an item is stored, or cut-through has begun (R129). -/
def qReady (d : List Byte) (x : Queue) : Bool :=
  decide (0 < qDepth d x) ||
    (match x.push with
     | some it => decide (qCt d ≠ 0) && decide (64 * qCt d ≤ it.data.length)
     | none => false)

/-- A pop request (R126, R129): it delivers, or stalls. -/
def qPop (q : Nat) (d : List Byte) (s : State) : State :=
  let x := s.queue q
  if x.popBusy ∨ x.popStall then s
  else if qReady d x then s.setQueue q { x with popBusy := true, timedOut := false, popReq := s.now }
  else s.setQueue q { x with popStall := true, timedOut := false, waitFrom := s.now }

/-- QUEUE_POP (R124, R126, R129). -/
def execQueuePop (t : Gts) (src : BitVec 8) (q : BitVec 7) : State → Host.Outcome State Fault Refusal :=
  act t <| onQueue q.toNat fun d s => if src.toNat ≠ qCons d then qRogue q.toNat src.toNat 1 s else qPop q.toNat d s

/-- The oldest item is delivered and Rd advances (R126, R134). -/
def qDeliver (q : Nat) (d : List Byte) (s : State) : State :=
  let x := s.queue q
  if qDepth d x = 0 then s
  else
    let it := tget {} x.slots (x.rd % qSlots d)
    let x := { x with
      out := x.out ++ [{ it with drp := it.drp || x.drpNext }]
      drpNext := false
      rd := (x.rd + 1) % qMod d
      popBusy := false
      flushPop := false }
    pfcFall q d ((s.setQueue q x).bump (qCtr q 1))

/-- POP_COMPLETE (R126): a pop completes only after its item's push has. -/
def execPopComplete (t : Gts) (q : BitVec 7) : State → Host.Outcome State Fault Refusal :=
  act t <| onQueue q.toNat fun d s => if (s.queue q.toNat).popBusy then qDeliver q.toNat d s else s

/-- A stalled push enters the queue; a block's push is complete at once. -/
def qProceed (q : Nat) (d : List Byte) (it : Item) (s : State) : State :=
  let x := s.queue q
  let s := qBegin q it x.coming s
  if x.waitWhole then qFreed q d (qStore q d it s) else s

/-- STALLED_PUSH_PROCEED (R127, R128, R134): the stalled producer finds room. A push that a pop of its own grain let wait at a lossy
queue meets a mark as any other push does. -/
def execStalledPushProceed (t : Gts) (q : BitVec 7) : State → Host.Outcome State Fault Refusal :=
  act t <| onQueue q.toNat fun d s =>
    let q := q.toNat
    let x := s.queue q
    match x.pushWait with
    | none => s
    | some it =>
      if qDepth d x = qSlots d then s
      else if qOcc d x < qSlots d then qProceed q d it s
      else if ¬ qLossy d then s
      else if qCons d = 7 then qFreed q d (qDrop q (s.setQueue q { x with pushWait := none, coming := [] }))
      else qProceed q d it (qLoseMark q s)

/-- STALLED_POP_PROCEED (R129): the stalled consumer finds an item. -/
def execStalledPopProceed (t : Gts) (q : BitVec 7) : State → Host.Outcome State Fault Refusal :=
  act t <| onQueue q.toNat fun d s =>
    let x := s.queue q.toNat
    if x.popStall ∧ qReady d x then s.setQueue q.toNat { x with popStall := false, popBusy := true, popReq := s.now } else s

/-- Whether a pop in progress has read all that is written of an item still being pushed (R129): the model's consumers read as fast
as producers write (DESIGN CHOICE, log 17). -/
def readStalled (d : List Byte) (x : Queue) : Bool := x.popBusy && qDepth d x == 0

/-- An immediate flush; a pending boundary flush becomes one and is logged (R132). -/
def qFlushNow (q : Nat) (d : List Byte) (cause : Nat) (s : State) : State :=
  let forced := (s.queue q).flushPend ≠ 0
  let s := qFlush q d true s
  if forced then qEvent 4 q cause s else s

/-- A boundary flush (R131). -/
def qFlushLater (q : Nat) (d : List Byte) (s : State) : State :=
  let x := s.queue q
  if x.push.isNone ∧ ¬ x.popBusy then qFlush q d false s
  else s.setQueue q { x with flushPend := s.now + 1, flushPush := x.push.isSome, flushPop := x.popBusy }

/-- A request through QF_CTRL records its result (R137). -/
def qfSetResult (r q : Nat) (s : State) : State := { s with qfResult := r * 2 ^ 28 + q }

/-- An operation on a queue by its owner (R124, R131, R137): the consumer, and for a flush the producer and the Supervisor too
(R68). -/
def qOwned (who : QReq) (q : Nat) (consOnly : Bool) (f : List Byte → State → Nat × State) (s : State) : State :=
  match who with
  | .block src =>
    onQueue q (fun d s =>
      if src.toNat = qCons d ∨ (¬ consOnly ∧ (src.toNat = qProd d ∨ src = 15)) then (f d s).2 else qRogue q src.toNat 1 s) s
  | .bus m =>
    guardWrite m baseQF (fun s =>
      match qDesc s q with
      | none => qfSetResult 2 q s
      | some d =>
        if qCons d = 13 ∨ (¬ consOnly ∧ qProd d = 13) then
          let (r, s) := f d (qWrite q d (s.queue q).coming s)
          qfSetResult r q s
        else qfSetResult 2 q s) s

/-- IMMEDIATE_FLUSH (R131, R132). -/
def opImmediateFlush (who : QReq) (q : Nat) : State → State := qOwned who q false fun d s => (0, qFlushNow q d 1 s)

/-- BOUNDARY_FLUSH (R131). -/
def opBoundaryFlush (who : QReq) (q : Nat) : State → State := qOwned who q false fun d s => (0, qFlushLater q d s)

/-- A mark is set, released, and rewound to (R133). -/
def markQueue (x : Queue) : Queue := { x with mkp := x.rd, mark := true, markLost := false }
def releaseQueue (x : Queue) : Queue := { x with mark := false, markLost := false }
def rewindQueue (x : Queue) : Queue := if x.mark then { x with rd := x.mkp } else x

/-- MARK (R133). -/
def opMark (who : QReq) (q : Nat) : State → State :=
  qOwned who q true fun _ s => (0, s.updQueue q markQueue)

/-- RELEASE (R133). -/
def opRelease (who : QReq) (q : Nat) : State → State :=
  qOwned who q true fun _ s => (0, s.updQueue q releaseQueue)

/-- REWIND (R133, R134). -/
def opRewind (who : QReq) (q : Nat) : State → State :=
  qOwned who q true fun _ s =>
    let x := s.queue q
    if x.mark then (0, s.setQueue q (rewindQueue x))
    else if x.markLost then
      (1, qEvent 3 q x.rd ((s.setQueue q { x with markLost := false, drpNext := true }).bump (qCtr q 5)))
    else (3, s)

def execImmediateFlush (t : Gts) (who : QReq) (q : BitVec 7) : State → Host.Outcome State Fault Refusal :=
  act t (opImmediateFlush who q.toNat)
def execBoundaryFlush (t : Gts) (who : QReq) (q : BitVec 7) : State → Host.Outcome State Fault Refusal :=
  act t (opBoundaryFlush who q.toNat)
def execMark (t : Gts) (who : QReq) (q : BitVec 7) : State → Host.Outcome State Fault Refusal :=
  act t (opMark who q.toNat)
def execRelease (t : Gts) (who : QReq) (q : BitVec 7) : State → Host.Outcome State Fault Refusal :=
  act t (opRelease who q.toNat)
def execRewind (t : Gts) (who : QReq) (q : BitVec 7) : State → Host.Outcome State Fault Refusal :=
  act t (opRewind who q.toNat)

/-- IDLE_TIMEOUT (R130, R132). -/
def execIdleTimeout (t : Gts) (q : BitVec 7) : State → Host.Outcome State Fault Refusal := act t (onQueue q.toNat fun _ s => s)

/-- FLUSH_POINT (R131): the pushes and pops that were in progress have completed. -/
def execFlushPoint (t : Gts) (q : BitVec 7) : State → Host.Outcome State Fault Refusal :=
  act t <| onQueue q.toNat fun d s =>
    let x := s.queue q.toNat
    if x.flushPend ≠ 0 ∧ ¬ x.flushPush ∧ ¬ x.flushPop then qFlush q.toNat d false s else s

/-- FLUSH_FORCED (R132): one Ell after the request on a queue without idle timeout. The event's cause is coded 0 idle, 1 immediate
request, 2 one Ell (DESIGN CHOICE, log 7). -/
def execFlushForced (t : Gts) (q : BitVec 7) : State → Host.Outcome State Fault Refusal :=
  act t <| onQueue q.toNat fun d s =>
    let x := s.queue q.toNat
    if x.flushPend ≠ 0 ∧ qIdle d = 0 ∧ x.flushPend - 1 + 500000 ≤ s.now then
      qEvent 4 q.toNat 2 (qFlush q.toNat d true s)
    else s

/-- PFC_REPEAT (R135): half of the hold has elapsed while the depth stays above `pause_lo`. -/
def execPfcRepeat (t : Gts) (q : BitVec 7) : State → Host.Outcome State Fault Refusal :=
  act t <| onQueue q.toNat fun d s =>
    let x := s.queue q.toNat
    if x.pfcOn ∧ qLo d < qDepth d x ∧ x.pfcDue ≤ s.now then
      let half := pauseGrains (bit (s.reg (baseNP (qPort d))) 2) (qQuanta d) / 2
      sendPfc d (qQuanta d) (s.setQueue q.toNat { x with pfcDue := s.now + half })
    else s

/-- The fabric takes the next item that a consumer has been given. -/
def qTake (q : Nat) (s : State) : Option Item × State :=
  match (s.queue q).out with
  | [] => (none, s)
  | it :: r => (some it, s.updQueue q fun x => { x with out := r })

/-- A push that begins and completes in one event, by the block that the item names (R124, R126). A block that is still stalled
presents it later (R128). -/
def qPushNow (q : Nat) (it : Item) : State → State :=
  onQueue q fun d s =>
    if it.src ≠ qProd d then qRogue q it.src 0 s
    else if qBusy (s.queue q) then s.updQueue q fun x => { x with backlog := x.backlog ++ [it] }
    else qPushWhole q d it s

/-- A pop that begins and completes in one event, by a block of the device (R124, R126). -/
def qPopNow (src q : Nat) (s : State) : Option Item × State :=
  match qDesc s q with
  | none => (none, s)
  | some d =>
    if src ≠ qCons d then (none, qRogue q src 1 s)
    else
      let s := qWrite q d (s.queue q).coming s
      if 0 < qDepth d (s.queue q) then qTake q (qDeliver q d s) else qTake q s

/-- The status entry of a queue (R138). -/
def qStatus (s : State) (q i : Nat) : Nat :=
  match s.recNow tyQUEUE q with
  | none => 0
  | some d =>
    let x := (onQueue q (fun _ s => s) s).queue q
    match i with
    | 0 => b2n x.pfcOn * 2 ^ 18 + b2n (x.flushPend ≠ 0) * 2 ^ 17 + b2n (x.popStall || readStalled d x) * 2 ^ 16 + b2n x.push.isSome * 2 ^ 15
        + b2n x.dropPend * 2 ^ 14 + b2n x.mark * 2 ^ 13 + qDepth d x
    | 1 => x.w * 2 ^ 16 + x.rd
    | 2 => x.mkp
    | _ => 0

/-- QUEUE bodies: layout (R461), then the rules of R122 that concern one record. -/
def formQUEUE (b : List Byte) : Bool :=
  b.length == 32 && decide (byteAt b 8 < 4) && decide (byteAt b 0x12 < 4) && decide (byteAt b 0x13 < 8) &&
    allZero (slice b 0x14 12)

end Sys2Proof.Machine
end

