-- ==== Sys2Proof/Machine/Shake.lean ====
section
/-! DEFINITION. SHAKE256 of FIPS 202, by which owner keys, measurements and devices are named (R45, R48, R406, R409),
the CRC-32 of IEEE 802.3 (R70) and CRC-32C (R316). FIPS 202 and IEEE 802.3 are named by the spec and not restated. -/

namespace Sys2Proof.Machine

/-- A Keccak state: 25 lanes of 64 bits, lane (x, y) at 5y + x. -/
abbrev Lanes := List (BitVec 64)

/-- One lane. -/
def lane (a : Lanes) (x y : Nat) : BitVec 64 := a.getD (5 * (y % 5) + x % 5) 0

/-- A state from a function of its coordinates. -/
def mkLanes (f : Nat → Nat → BitVec 64) : Lanes := (List.range 25).map fun i => f (i % 5) (i / 5)

/-- Rotation offsets of the step rho, by 5y + x. -/
def rhoOffsets : List Nat :=
  [0, 1, 62, 28, 27, 36, 44, 6, 55, 20, 3, 10, 43, 25, 39, 41, 45, 15, 21, 8, 18, 2, 61, 56, 14]

/-- Round constants of the step iota. -/
def iotaConsts : List (BitVec 64) :=
  [0x0000000000000001, 0x0000000000008082, 0x800000000000808A, 0x8000000080008000, 0x000000000000808B,
   0x0000000080000001, 0x8000000080008081, 0x8000000000008009, 0x000000000000008A, 0x0000000000000088,
   0x0000000080008009, 0x000000008000000A, 0x000000008000808B, 0x800000000000008B, 0x8000000000008089,
   0x8000000000008003, 0x8000000000008002, 0x8000000000000080, 0x000000000000800A, 0x800000008000000A,
   0x8000000080008081, 0x8000000000008080, 0x0000000080000001, 0x8000000080008008]

/-- The step theta. -/
def theta (a : Lanes) : Lanes :=
  let c := (List.range 5).map fun x => lane a x 0 ^^^ lane a x 1 ^^^ lane a x 2 ^^^ lane a x 3 ^^^ lane a x 4
  let d := (List.range 5).map fun x => c.getD ((x + 4) % 5) 0 ^^^ (c.getD ((x + 1) % 5) 0).rotateLeft 1
  mkLanes fun x y => lane a x y ^^^ d.getD x 0

/-- The steps rho and pi. -/
def rhoPi (a : Lanes) : Lanes :=
  mkLanes fun x y => (lane a (x + 3 * y) x).rotateLeft (rhoOffsets.getD (5 * x + (x + 3 * y) % 5) 0)

/-- The step chi. -/
def chi (a : Lanes) : Lanes := mkLanes fun x y => lane a x y ^^^ (~~~ lane a (x + 1) y &&& lane a (x + 2) y)

/-- Adding a round constant to lane (0, 0). -/
def iota (a : Lanes) (rc : BitVec 64) : Lanes :=
  match a with
  | [] => []
  | l :: r => (l ^^^ rc) :: r

/-- Keccak-f[1600]. -/
def keccakF (a : Lanes) : Lanes := iotaConsts.foldl (fun a rc => iota (chi (rhoPi (theta a))) rc) a

/-- Bytes as lanes, little-endian. -/
def toLanes : Nat → List Byte → Lanes
  | 0, _ => []
  | n + 1, bs => BitVec.ofNat 64 (leNat (bs.take 8)) :: toLanes n (bs.drop 8)

/-- Adding a block to the state. -/
def xorLanes : Lanes → Lanes → Lanes
  | a :: as, b :: bs => (a ^^^ b) :: xorLanes as bs
  | as, [] => as
  | [], _ => []

/-- Absorbing `k` blocks of 136 bytes. -/
def absorb : Nat → Lanes → List Byte → Lanes
  | 0, a, _ => a
  | k + 1, a, bs => absorb k (keccakF (xorLanes a (toLanes 17 (bs.take 136)))) (bs.drop 136)

/-- A message padded to whole blocks of 136 bytes, with the suffix of an extendable-output function. -/
def padShake (m : List Byte) : List Byte :=
  let z := 136 - m.length % 136
  if z = 1 then m ++ [0x9F] else m ++ [0x1F] ++ List.replicate (z - 2) 0 ++ [0x80]

/-- The first 64 bytes of SHAKE256. -/
def shake256 (m : List Byte) : List Byte :=
  let p := padShake m
  let a := absorb (p.length / 136) (List.replicate 25 0) p
  (a.take 8).flatMap fun l => toLe 8 l.toNat

/-- One bit of a reflected CRC register. -/
def crcBit (poly r : BitVec 32) : BitVec 32 := if r.getLsbD 0 then (r >>> 1) ^^^ poly else r >>> 1

/-- One byte into a reflected CRC register. -/
def crcByte (poly r : BitVec 32) (b : Byte) : BitVec 32 :=
  (List.range 8).foldl (fun r _ => crcBit poly r) (r ^^^ b.zeroExtend 32)

/-- A reflected CRC with initial value and final complement of ones. -/
def crc (poly : BitVec 32) (bs : List Byte) : BitVec 32 := ~~~ bs.foldl (crcByte poly) 0xFFFFFFFF

/-- The IEEE 802.3 FCS of bytes in wire order. -/
def crc32 : List Byte → BitVec 32 := crc 0xEDB88320

/-- CRC-32C (Castagnoli). -/
def crc32c : List Byte → BitVec 32 := crc 0x82F63B78

end Sys2Proof.Machine
end

