-- ==== Sys2Proof/Machine/Frames.lean ====
section
/-! DEFINITION. Frames as bytes in wire order: Ethernet, 802.1Q, IPv4, IPv6, UDP and RTP headers. The layouts are those
of the standards that the spec names and does not restate (PRESUMED, log 6). A frame in the model carries its FCS only
on the wire; an item of a queue holds the bytes before it. -/

namespace Sys2Proof.Machine

/-- What the device reads from a frame's headers. -/
structure Parsed where
  dst : List Byte
  tagged : Bool
  pcp : Nat
  etype : Nat
  /-- offset of the network header -/
  l3 : Nat
  ip4 : Bool
  ip6 : Bool
  dscp : Nat
  frag : Bool
  /-- destination address in the layout of R88 -/
  ipDst : List Byte
  proto : Nat
  /-- offset of the transport header, and the end of the IP packet -/
  l4 : Nat
  ipEnd : Nat
  deriving DecidableEq, Repr

/-- Reading the headers of a frame. -/
def parseFrame (b : List Byte) : Parsed :=
  let tagged := n16 b 12 = 0x8100
  let et := if tagged then n16 b 16 else n16 b 12
  let l3 := if tagged then 18 else 14
  let v4 := et = 0x0800 ∧ byteAt b l3 / 16 = 4
  let v6 := et = 0x86DD ∧ byteAt b l3 / 16 = 6
  let hl := byteAt b l3 % 16 * 4
  { dst := slice b 0 6
    tagged := tagged
    pcp := if tagged then byteAt b 14 / 32 else 0
    etype := et
    l3 := l3
    ip4 := v4
    ip6 := v6
    dscp := if v4 then byteAt b (l3 + 1) / 4 else if v6 then (n16 b l3 / 16 % 256) / 4 else 0
    frag := v4 ∧ n16 b (l3 + 6) % 0x4000 ≠ 0
    ipDst := if v4 then List.replicate 12 0 ++ slice b (l3 + 16) 4 else if v6 then slice b (l3 + 24) 16 else []
    proto := if v4 then byteAt b (l3 + 9) else if v6 then byteAt b (l3 + 6) else 0
    l4 := if v4 then l3 + hl else if v6 then l3 + 40 else l3
    ipEnd := if v4 then l3 + n16 b (l3 + 2) else if v6 then l3 + 40 + n16 b (l3 + 4) else b.length }

/-- Whether a frame is UDP over IPv4 or IPv6. -/
def isUdp (f : Parsed) : Bool := (f.ip4 || f.ip6) && f.proto == 17

/-- The sum of 16-bit words of the Internet checksum, before folding. -/
def sum16 : List Byte → Nat
  | a :: b :: r => a.toNat * 256 + b.toNat + sum16 r
  | [a] => a.toNat * 256
  | [] => 0

/-- The folded ones-complement sum. -/
def fold16 (n : Nat) : Nat := let m := n % 65536 + n / 65536; m % 65536 + m / 65536

/-- The UDP pseudo-header and datagram as one sum; a correct checksum makes the fold 0xFFFF. -/
def udpSum (b : List Byte) (f : Parsed) : Nat :=
  let len := f.ipEnd - f.l4
  let addrs := if f.ip4 then slice b (f.l3 + 12) 8 else slice b (f.l3 + 8) 32
  sum16 addrs + 17 + len + sum16 (slice b f.l4 len)

/-- Whether the UDP checksum stands (R91): an IPv4 checksum of zero is not checked. -/
def udpOk (b : List Byte) (f : Parsed) : Bool :=
  let c := n16 b (f.l4 + 6)
  if c = 0 then f.ip4 else fold16 (udpSum b f) == 0xFFFF

/-- Destination MAC address for an IP destination (R112): derived for a group, the next hop otherwise. -/
def macFor (ipv6 : Bool) (dst : List Byte) (nextHop : List Byte) : List Byte :=
  if ipv6 then (if byteAt dst 0 = 0xFF then [0x33, 0x33] ++ slice dst 12 4 else nextHop)
  else if 224 ≤ byteAt dst 12 ∧ byteAt dst 12 < 240 then
    [0x01, 0x00, 0x5E, BitVec.ofNat 8 (byteAt dst 13 % 128)] ++ slice dst 14 2
  else nextHop

/-- Header values of an outgoing UDP frame. -/
structure UdpHdr where
  ipv6 : Bool
  srcMac : List Byte
  dstMac : List Byte
  vlan : Nat
  dscp : Nat
  ttl : Nat
  src : List Byte
  dst : List Byte
  sport : Nat
  dport : Nat
  deriving DecidableEq, Repr

/-- IPv4 header of 20 bytes with its checksum. -/
def ip4Header (h : UdpHdr) (udpLen : Nat) : List Byte :=
  let f (c : Nat) : List Byte :=
    [0x45, BitVec.ofNat 8 (h.dscp * 4)] ++ toBe 2 (20 + udpLen) ++ toBe 2 0 ++ toBe 2 0x4000 ++
      [BitVec.ofNat 8 h.ttl, 17] ++ toBe 2 c ++ slice h.src 12 4 ++ slice h.dst 12 4
  f (0xFFFF - fold16 (sum16 (f 0)))

/-- IPv6 header of 40 bytes. -/
def ip6Header (h : UdpHdr) (udpLen : Nat) : List Byte :=
  toBe 4 (6 * 2 ^ 28 + h.dscp * 2 ^ 22) ++ toBe 2 udpLen ++ [17, BitVec.ofNat 8 h.ttl] ++ h.src ++ h.dst

/-- An outgoing UDP frame without FCS. The IPv4 UDP checksum is zero; an IPv6 checksum is computed (log 6). -/
def udpFrame (h : UdpHdr) (payload : List Byte) : List Byte :=
  let len := 8 + payload.length
  let udp0 := toBe 2 h.sport ++ toBe 2 h.dport ++ toBe 2 len
  let sum := sum16 h.src + sum16 h.dst + 17 + len + sum16 udp0 + sum16 payload
  let c6 := 0xFFFF - fold16 sum
  let c := if h.ipv6 then (if c6 = 0 then 0xFFFF else c6) else 0
  h.dstMac ++ h.srcMac ++ toBe 2 0x8100 ++ toBe 2 h.vlan ++ toBe 2 (if h.ipv6 then 0x86DD else 0x0800) ++
    (if h.ipv6 then ip6Header h len else ip4Header h len) ++ udp0 ++ toBe 2 c ++ payload

/-- A frame on the wire: its bytes and the FCS (R69, R70). -/
def withFcs (b : List Byte) (stomp : Bool) : List Byte :=
  let c := crc32 b
  b ++ toLe 4 (if stomp then (~~~ c) else c).toNat

/-- Whether the last four bytes are the FCS of the rest. -/
def fcsOk (b : List Byte) : Bool :=
  let n := b.length - 4
  decide (4 ≤ b.length) && (b.drop n == toLe 4 (crc32 (b.take n)).toNat)

/-- The port that carries a media network (R66, R67): role 1 Red, 2 Blue. -/
def portOfRole (s : State) (role : Nat) : Option Nat :=
  [0, 1, 2, 3].find? fun p => s.rfld (baseNP p) 1 0 == role

/-- MAC address of a port (R86). -/
def portMac (s : State) (p : Nat) : List Byte :=
  toBe 2 (s.rfld (baseNP p + 8) 15 0) ++ toBe 4 (s.reg (baseNP p + 4))

/-- Source address of a network in the layout of R88 (R118): net 0 Red, 1 Blue. -/
def netSrc (s : State) (net : Nat) (ipv6 : Bool) : List Byte :=
  if ipv6 then (List.range 4).flatMap fun j => toBe 4 (s.reg (baseSE + 0x20 + 0x10 * net + 4 * j))
  else List.replicate 12 0 ++ toBe 4 (s.reg (baseSE + 0x10 + 4 * net))

/-- Next-hop MAC address of a network (R118). -/
def nextHop (s : State) (net : Nat) : List Byte :=
  toBe 2 (s.rfld (baseSE + 0x44 + 8 * net) 15 0) ++ toBe 4 (s.reg (baseSE + 0x40 + 8 * net))

/-- Fields of a transmit stream entry (R110). -/
def txCtl (b : List Byte) : Nat := u32 b 0
def chOf (ctl : Nat) : Nat := fld ctl 21 16 + 1
def ptimeElls (ctl : Nat) : Nat := match fld ctl 15 13 with | 0 => 1 | 1 => 2 | 2 => 4 | 3 => 8 | _ => 32
def rate96 (ctl : Nat) : Bool := bit ctl 12
def perEll (ctl : Nat) : Nat := if rate96 ctl then 12 else 6
def fmtOf (ctl : Nat) : Nat := fld ctl 23 22

/-- The RTP header of a transmit packet (R111): version 2, M clear. -/
def rtpHeader (b : List Byte) (p : TxPkt) : List Byte :=
  [0x80, BitVec.ofNat 8 (byteAt b 6 % 128)] ++ toBe 2 p.seq ++ toBe 4 p.ts ++ toBe 4 (u32 b 8)

/-- Pushing a transmit packet's frame into the egress queue of each selected network whose port exists (R112). -/
def sendNet (b : List Byte) (rtp : List Byte) (net : Nat) (s : State) : State :=
  let ctl := txCtl b
  let sel := if net = 0 then bit ctl 27 else bit ctl 26
  match portOfRole s (net + 1) with
  | none => s
  | some p =>
    let q := if net = 0 then s.rfld (baseSE + 8) 6 0 else s.rfld (baseSE + 8) 14 8
    if sel ∧ q < 96 then
      let dst := slice b (if net = 0 then 0x20 else 0x30) 16
      let h : UdpHdr :=
        { ipv6 := bit ctl 25, srcMac := portMac s p, dstMac := macFor (bit ctl 25) dst (nextHop s net),
          vlan := u16 b 0x12, dscp := byteAt b 7 % 64, ttl := byteAt b 0x1C, src := netSrc s net (bit ctl 25),
          dst := dst, sport := u16 b 0x14, dport := u16 b 0x16 }
      qPushNow q { src := 5, tclass := fld ctl 10 8, gts := s.now, data := udpFrame h rtp } s
    else s

/-- Sending a packet on both networks (R112). -/
def sendTx (stream : Nat) (rtp : List Byte) (s : State) : State :=
  match s.recNow tyTX stream with
  | none => s
  | some b => (sendNet b rtp 1 (sendNet b rtp 0 s)).bump (baseSE + 0x230)

end Sys2Proof.Machine
end

