-- ==== Sys2Proof/Machine/Cipher.lean ====
section
/-! DEFINITION. The Cipher Engine, [12]: lanes and locks, key slots, SRTP and MACsec contexts, and the commands. What
AES-GCM, RFC 3394 and the RFC 3711 key derivation compute is named by the spec and not restated: open functions of the
configuration of their inputs (log 5). -/

namespace Sys2Proof.Machine

/-! ## Records and contexts -/

/-- The CIPHER record of a context: of the structure that serves the copies that arrive now, else the running one. -/
def ceRec (s : State) (c : Nat) : Option (List Byte) :=
  match s.recNow tyCIPHER c with
  | some b => some b
  | none => s.recAt s.soon tyCIPHER c

/-- CIPHER body fields (R294). -/
def ceTx (b : List Byte) : Bool := byteAt b 0 == 1
def ceMkiLen (b : List Byte) : Nat := byteAt b 2
def ceStream (b : List Byte) : Nat := u16 b 4
def ceRoc (b : List Byte) : Nat := u32 b 8

/-- Layout of a CIPHER body (R294, R461). -/
def formCIPHER (b : List Byte) : Bool :=
  b.length == 16 && decide (byteAt b 0 < 2) && decide (byteAt b 1 < 2) && byteAt b 3 == 0 && u16 b 6 == 0

namespace State

def ctx (s : State) (c : Nat) : CeCtx := tget {} s.ce.ctxs c
def setCtx (s : State) (c : Nat) (x : CeCtx) : State := { s with ce := { s.ce with ctxs := tset {} s.ce.ctxs c x } }
def sa (s : State) (i : Nat) : Sa := tget {} s.ce.sas i
def setSa (s : State) (i : Nat) (x : Sa) : State := { s with ce := { s.ce with sas := tset {} s.ce.sas i x } }
def lane (s : State) (n : Nat) : Lane := tget {} s.ce.lanes n
def setLane (s : State) (n : Nat) (x : Lane) : State := { s with ce := { s.ce with lanes := tset {} s.ce.lanes n x } }
def rx (s : State) (i : Nat) : RxStream := tget {} s.se.rx i
def setRx (s : State) (i : Nat) (x : RxStream) : State := { s with se := { s.se with rx := tset {} s.se.rx i x } }
def tx (s : State) (i : Nat) : TxStream := tget {} s.se.tx i
def setTx (s : State) (i : Nat) (x : TxStream) : State := { s with se := { s.se with tx := tset {} s.se.tx i x } }
def updCe (s : State) (f : CipherE → CipherE) : State := { s with ce := f s.ce }
def updSe (s : State) (f : StreamE → StreamE) : State := { s with se := f s.se }

end State

/-- A key slot of a context. -/
def slotOf (x : CeCtx) (k : Nat) : KeySlot := if k = 0 then x.s0 else x.s1

/-- Replacing a key slot of a context. -/
def putSlot (x : CeCtx) (k : Nat) (v : KeySlot) : CeCtx := if k = 0 then { x with s0 := v } else { x with s1 := v }

/-- A slot with a key that may still be used: LOADED, ACTIVE or WORN (R301). -/
def usable (k : KeySlot) : Bool := k.st == 1 || k.st == 2 || k.st == 3

/-- Whether a KEK is usable (R412); KEK 0, derived from the identity seed, once the identity is ready (DEDUCED, log 21:
R421 gives `keks` the reset value 0). -/
def kekUsable (s : State) (j : Nat) : Bool :=
  !s.trust.kekDown && !s.trust.zeroizing &&
    (if j = 0 then s.trust.idReady else tget [] s.fuses.keks j != [] && !s.fuses.kekOff.getLsbD (j - 1))

/-- The words of a large detail. -/
def lohi (n : Nat) : List Nat := [n % 2 ^ 32, n / 2 ^ 32]

/-! ## Lanes -/

/-- A mismatch of a lane or unit of a block, for the retirement of R354; `second` a failed recomputation. -/
def laneMismatch (block lane : Nat) (second : Bool) (s : State) : State :=
  let k := block * 64 + lane
  s.updSup fun u =>
    { u with
      laneErrs := tupd [] u.laneErrs k (s.ell :: ·)
      laneFails := if second then tupd [] u.laneFails k (s.ell :: ·) else u.laneFails }

/-- Whether a lane takes media operations: not locked, not retired, a position free (R291, R293, R354). -/
def laneOpen (s : State) (n : Nat) : Bool :=
  (s.lane n).owner.isNone && !bit s.sup.ceRetired n && decide ((s.lane n).ops.length < 4)

/-- The unlocked lane with the fewest operations in flight, the lowest on a tie, other than `except` (R291, R308). -/
def pickLane (s : State) (except : Nat) : Option Nat :=
  let cand := [0, 1, 2, 3].filter fun n => laneOpen s n && n != except
  cand.foldl (fun best n =>
    match best with
    | none => some n
    | some m => if (s.lane n).ops.length < (s.lane m).ops.length then some n else some m) none

/-- An operation enters a lane. -/
def laneAdd (n : Nat) (op : LaneOp) (s : State) : State :=
  s.setLane n { s.lane n with ops := (s.lane n).ops ++ [op] }

/-! ## The use of a key (R301, R302) -/

/-- One tag operation with a slot: `used` rises, and the state moves with its events (R301). -/
def useSlot (c k : Nat) (s : State) : State :=
  let x := s.ctx c
  let v := slotOf x k
  let used := v.used + 1
  let worn := cdiv (7 * v.limit) 8
  let st := if v.limit ≤ used then 4 else if worn ≤ used then 3 else 2
  let s := s.setCtx c (putSlot x k { v with used := used, st := st })
  let s := if v.st < 3 ∧ worn ≤ used then s.raise 7 0x701 [c, k, satN 32 used] else s
  if v.limit ≤ used then s.raise 7 0x702 [c, k] else s

/-- The slot that a transmit packet of index `v` uses, and whether it is a change to the other slot (R301, R302). -/
def txSlot (x : CeCtx) (v : Nat) : Option (Nat × Bool) :=
  let other := 1 - x.act
  let armed : Bool := match x.chg with | some g => decide (g ≤ v) | none => false
  if armed ∧ usable (slotOf x other) then some (other, true)
  else if usable (slotOf x x.act) then some (x.act, false)
  else if (slotOf x other).st = 1 then some (other, true)
  else none

/-- The index of the next transmit packet: `roc_init` and `seq_init` before the first (R294, R298). -/
def txIndex (s : State) (c : Nat) (seq : Nat) : Nat :=
  match (s.ctx c).index with
  | some i => i
  | none => ((ceRec s c).map ceRoc).getD 0 * 65536 + seq

/-- Whether a transmit context can protect its next packet (R298). -/
def txReady (s : State) (c seq : Nat) : Bool :=
  let v := txIndex s c seq
  (ceRec s c).isSome && decide (v < 2 ^ 48) && (txSlot (s.ctx c) v).isSome

/-- A transmit change: the old slot becomes EMPTY and zeroed, and the change is logged (R302). -/
def txChange (c k v : Nat) (s : State) : State :=
  let x := s.ctx c
  let s := s.setCtx c { (putSlot x (1 - k) {}) with act := k, chg := none }
  (s.raise 7 0x703 ([c, k] ++ lohi v)).bump (baseCE + 0x214)

/-- The estimated index of a receive copy (RFC 3711, section 3.3.1). -/
def rxIndex (s : State) (c seq : Nat) : Nat :=
  match (s.ctx c).index with
  | none => ((ceRec s c).map ceRoc).getD 0 * 65536 + seq
  | some i =>
    let sl := i % 65536
    let roc := i / 65536
    let roc' :=
      if sl < 32768 then (if seq > sl + 32768 then (roc + 2 ^ 32 - 1) % 2 ^ 32 else roc)
      else if seq + 32768 < sl then (roc + 1) % 2 ^ 32 else roc
    roc' * 65536 + seq

/-- The slot that a receive copy of index `v` uses (R301). -/
def rxSlot (b : List Byte) (x : CeCtx) (v mki : Nat) : Option Nat :=
  if ceMkiLen b ≠ 0 then
    if x.s0.st ≠ 0 ∧ x.s0.mki = mki then some 0
    else if x.s1.st ≠ 0 ∧ x.s1.mki = mki then some 1
    else none
  else
    let k := match x.chg with
      | some g => if g ≤ v then 1 - x.act else x.act
      | none => x.act
    if (slotOf x k).st = 0 then none else some k

/-- A record of the merge is changed (R94). -/
def updMerge (stream seq : Nat) (f : MergeRec → MergeRec) (s : State) : State :=
  let r := s.rx stream
  s.setRx stream { r with merge := tupd {} r.merge (seq % 2048) f }

/-- A record is set back to EMPTY; the number and the legs that it saw stay, so that a packet is forwarded once (R105, R115). -/
def emptied (m : MergeRec) : MergeRec := { legs := m.legs, seq := m.seq }

/-- A transmit stream is refused for want of a key (R113). -/
def txRefuse (stream c : Nat) (s : State) : State :=
  let x := s.tx stream
  let s := (s.setTx stream { x with svc := 3, reason := 2 }).bump (baseSE + 0x234)
  if x.reason = 2 then s else s.raise 5 0x501 [stream, c]

/-! ## Operations -/

/-- Removing the first element that satisfies a test. -/
def takeFirst {α : Type} (p : α → Bool) : List α → Option (α × List α)
  | [] => none
  | x :: r => if p x then some (x, r) else (takeFirst p r).map fun (y, r) => (y, x :: r)

/-- Source number of an operation (R306, R309). -/
def opSource : CipherOp → Nat
  | .srtpTx _ => 5 | .srtpRx _ _ _ => 4 | .macsecTx p _ => p.val | .macsecRx p _ => p.val

/-! ## Sealing and opening (R80, R298, R299, R304, R307) -/

/-- The key of a cipher operation with its length code. -/
def gcmKey (klen : Nat) (key : List Byte) : List Byte := BitVec.ofNat 8 klen :: key

/-- A text sealed with a tag of 16 bytes. -/
def gcmSeal (key salt iv aad text : List Byte) : List Byte :=
  (List.range (text.length + 16)).map (Config.gcmByte true key salt iv aad text)

/-- The plaintext of a sealed text, whether or not its tag stands. -/
def gcmPlain (key salt iv aad text : List Byte) : List Byte :=
  (List.range (text.length - 16)).map (Config.gcmByte false key salt iv aad text)

/-- The part of the initial value that a packet gives: SSRC and packet index (RFC 7714). -/
def srtpIv (header : List Byte) (v : Nat) : List Byte := slice header 8 4 ++ toBe 6 v

/-- A key-encryption key as the wrap functions take it. -/
def kekBytes (s : State) (j : Nat) : List Byte := tget [] s.fuses.keks j

/-- A block unwrapped, and wrapped: 8 bytes shorter, and longer. -/
def keyUnwrap (s : State) (j : Nat) (blob : List Byte) : List Byte :=
  (List.range (blob.length - 8)).map (Config.wrapByte false j (kekBytes s j) blob)
def keyWrap (s : State) (j : Nat) (block : List Byte) : List Byte :=
  (List.range (block.length + 8)).map (Config.wrapByte true j (kekBytes s j) block)

/-! ## Locks (R293) -/

/-- Whether a master may lock a lane. -/
def mayLock (m : Master) : Bool := m == .host || m == .supervisor || m == .trust

/-- A claim of the same grain by a higher source gives way, as claims of one grain are decided in ascending source number
(R27, R293). -/
def yieldClaim (m : Master) (s : State) : State :=
  [0, 1, 2, 3].foldl (fun s i =>
    if (s.lane i).since = s.now ∧ (s.lane i).owner.any (fun o => decide (srcOf m < o)) then
      s.setLane i { s.lane i with owner := none }
    else s) s

/-- A lane is locked when no lane is. -/
def claimLane (m : Master) (n : Nat) (s : State) : State :=
  if ¬ mayLock m ∨ bit s.sup.ceRetired n then s
  else
    let y := yieldClaim m s
    if (List.range 4).all fun i => (y.lane i).owner.isNone then
      y.setLane n { y.lane n with owner := some (srcOf m), since := y.now }
    else s

/-- A lane is unlocked by its owner. -/
def unlockLane (m : Master) (n : Nat) (s : State) : State :=
  if (s.lane n).owner = some (srcOf m) then s.setLane n { s.lane n with owner := none } else s

/-- CLAIM. -/
def opClaim (m : Master) (n : Nat) : State → State := guardWrite m (baseCE + 0x10 + 4 * n) (claimLane m n)

/-- Release by the owner. -/
def opUnlock (m : Master) (n : Nat) : State → State := guardWrite m (baseCE + 0x10 + 4 * n) (unlockLane m n)

/-- A write of CE_LOCKn: with both bits set the release comes first (log 29). -/
def opLock (m : Master) (n v : Nat) : State → State :=
  guardWrite m (baseCE + 0x10 + 4 * n) fun s =>
    let s := if bit v 1 then unlockLane m n s else s
    if bit v 0 then claimLane m n s else s

def execClaim (t : Gts) (m : Master) (n : Fin 4) : State → Host.Outcome State Fault Refusal := act t (opClaim m n.val)
def execLockRelease (t : Gts) (m : Master) (n : Fin 4) : State → Host.Outcome State Fault Refusal :=
  act t (opUnlock m n.val)

/-- LOCK_EXPIRED: a lane locked for longer than 4 ms is released, after a command that runs on it. -/
def execLockExpired (t : Gts) (n : Fin 4) : State → Host.Outcome State Fault Refusal :=
  act t fun s =>
    let x := s.lane n.val
    match x.owner with
    | none => s
    | some o =>
      if x.since + 16000000 < s.now ∧ ¬ s.ce.cmd.any (fun c => c.lane == n.val) then
        (s.setLane n.val { x with owner := none }).raise 7 0x707 [n.val, o]
      else s

/-! ## Commands (R306, R307) -/

/-- A command completes with a result; a failing result is logged (R309). -/
def ceResult (op ctx r : Nat) (s : State) : State :=
  let s := s.updCe fun e => { e with cmd := none, result := r, resCtx := ctx }
  let s := if r = 2 ∨ r = 3 then s.bump (baseCE + 0x22C) else s
  if r = 0 then s else s.raise 7 0x708 [op, r, ctx]

/-- A command is written to CE_CMD: it needs a lane held by its master. -/
def opCeCmd (m : Master) (op slot kek ctx : Nat) : State → State :=
  guardWrite m baseCE fun s =>
    if s.ce.cmd.isSome then s
    else
      match (List.range 4).find? fun n => (s.lane n).owner == some (srcOf m) with
      | none => ceResult op ctx 1 s
      | some n =>
        s.updCe fun e =>
          { e with cmd := some { op, ctx, slot, kek, lane := n, fail := 0,
                                 arg := s.reg (baseCE + 4) + 2 ^ 32 * s.reg (baseCE + 8)
                                 blob := tgets 0 s.ce.xfer 0 280 } }

def execKeyload (t : Gts) (m : Master) (slot : BitVec 1) (kek : BitVec 2) (ctx : BitVec 16) :
    State → Host.Outcome State Fault Refusal := act t (opCeCmd m 1 slot.toNat kek.toNat ctx.toNat)
def execChange (t : Gts) (m : Master) (slot : BitVec 1) (kek : BitVec 2) (ctx : BitVec 16) :
    State → Host.Outcome State Fault Refusal := act t (opCeCmd m 2 slot.toNat kek.toNat ctx.toNat)
def execDiscard (t : Gts) (m : Master) (slot : BitVec 1) (kek : BitVec 2) (ctx : BitVec 16) :
    State → Host.Outcome State Fault Refusal := act t (opCeCmd m 3 slot.toNat kek.toNat ctx.toNat)
def execSave (t : Gts) (m : Master) (slot : BitVec 1) (kek : BitVec 2) (ctx : BitVec 16) :
    State → Host.Outcome State Fault Refusal := act t (opCeCmd m 4 slot.toNat kek.toNat ctx.toNat)
def execRestore (t : Gts) (m : Master) (slot : BitVec 1) (kek : BitVec 2) (ctx : BitVec 16) :
    State → Host.Outcome State Fault Refusal := act t (opCeCmd m 5 slot.toNat kek.toNat ctx.toNat)
def execExportCtx (t : Gts) (m : Master) (slot : BitVec 1) (kek : BitVec 2) (ctx : BitVec 16) :
    State → Host.Outcome State Fault Refusal := act t (opCeCmd m 6 slot.toNat kek.toNat ctx.toNat)
def execImportCtx (t : Gts) (m : Master) (slot : BitVec 1) (kek : BitVec 2) (ctx : BitVec 16) :
    State → Host.Outcome State Fault Refusal := act t (opCeCmd m 7 slot.toNat kek.toNat ctx.toNat)

/-- The usage limit that a key takes at load (R297). -/
def loadLimit (s : State) (b : List Byte) : Nat := if u32 b 0xC = 0 then s.reg (baseCE + 0x20) else u32 b 0xC

/-- The MACsec usage limit at load; values above 2^60 act as 2^60 (R305, R310). -/
def msLimit (s : State) : Nat := min (2 ^ 60) (s.reg (baseCE + 0x24) + 2 ^ 32 * s.reg (baseCE + 0x28))

/-- KEYLOAD of an SRTP slot from an unwrapped blob (R304). -/
def loadSrtp (c : CeCmd) (b out : List Byte) (s : State) : State :=
  let x := s.ctx c.ctx
  let v : KeySlot :=
    { st := 1, key := slice out 0 32, salt := slice out 0x20 12, mki := u32 out 0x30, used := 0,
      limit := loadLimit s b }
  let x' := putSlot x c.slot v
  let x' := if x.s0.st = 0 ∧ x.s1.st = 0 then { x' with act := c.slot } else x'
  ceResult 1 c.ctx 0 (s.setCtx c.ctx x')

/-- KEYLOAD of a MACsec association (R304, R305). -/
def loadMacsec (c : CeCmd) (i : Nat) (out : List Byte) (s : State) : State :=
  let v : Sa :=
    { st := 1, key := slice out 0 32, salt := slice out 0x20 12, ssci := u32 out 0x30, sci := c.arg, pn := 1,
      window := if 4 ≤ i % 8 then u32 out 0x34 else 0, used := 0, limit := msLimit s }
  ceResult 1 c.ctx 0 (s.setSa i v)

/-- The effect of KEYLOAD (R304, R306): the blob is 64 bytes, its plaintext 56. -/
def doKeyload (c : CeCmd) (s : State) : State :=
  let blob := c.blob.take 64
  let ok := Config.wrapOk c.kek (kekBytes s c.kek) blob
  let out := keyUnwrap s c.kek blob
  let bind (slot klen : Nat) : Bool := u16 out 0x2C == c.ctx && byteAt out 0x2E == slot && byteAt out 0x2F == klen
  if c.ctx < 2048 then
    match ceRec s c.ctx with
    | none => ceResult 1 c.ctx 4 s
    | some b =>
      if (slotOf (s.ctx c.ctx) c.slot).st ≠ 0 then ceResult 1 c.ctx 4 s
      else if ¬ ok ∨ ¬ kekUsable s c.kek then ceResult 1 c.ctx 2 s
      else if ¬ bind c.slot (byteAt b 1) then ceResult 1 c.ctx 3 s
      else loadSrtp c b out s
  else if 0x8000 ≤ c.ctx ∧ c.ctx < 0x8020 then
    let i := c.ctx - 0x8000
    if (s.sa i).st ≠ 0 then ceResult 1 c.ctx 4 s
    else if ¬ ok ∨ ¬ kekUsable s c.kek then ceResult 1 c.ctx 2 s
    else if ¬ bind 0 1 then ceResult 1 c.ctx 3 s
    else loadMacsec c i out s
  else ceResult 1 c.ctx 5 s

/-- The effect of CHANGE (R301, R305, R306). -/
def doChange (c : CeCmd) (s : State) : State :=
  if c.ctx < 2048 then
    let x := s.ctx c.ctx
    if (ceRec s c.ctx).isSome ∧ (slotOf x (1 - x.act)).st = 1 then
      ceResult 2 c.ctx 0 (s.setCtx c.ctx { x with chg := some (c.arg % 2 ^ 48), chgLogged := false })
    else ceResult 2 c.ctx 4 s
  else if 0x8000 ≤ c.ctx ∧ c.ctx < 0x8020 then
    let i := c.ctx - 0x8000
    if i % 8 < 4 ∧ (1 ≤ (s.sa i).st ∧ (s.sa i).st ≤ 3) then
      ceResult 2 c.ctx 0 (s.updCe fun e => { e with txAn := tset 0 e.txAn (i / 8) (i % 8 + 1) })
    else ceResult 2 c.ctx 4 s
  else ceResult 2 c.ctx 5 s

/-- The effect of DISCARD (R306). -/
def doDiscard (c : CeCmd) (s : State) : State :=
  if c.ctx < 2048 then
    match ceRec s c.ctx with
    | none => ceResult 3 c.ctx 4 s
    | some b =>
      let x := s.ctx c.ctx
      if ceTx b ∧ c.slot = x.act ∧ usable (slotOf x c.slot) then ceResult 3 c.ctx 4 s
      else ceResult 3 c.ctx 0 (s.setCtx c.ctx (putSlot x c.slot {}))
  else if 0x8000 ≤ c.ctx ∧ c.ctx < 0x8020 then
    let i := c.ctx - 0x8000
    if i % 8 < 4 ∧ tget 0 s.ce.txAn (i / 8) = i % 8 + 1 ∧ (1 ≤ (s.sa i).st ∧ (s.sa i).st ≤ 3) then
      ceResult 3 c.ctx 4 s
    else ceResult 3 c.ctx 0 (s.setSa i {})
  else ceResult 3 c.ctx 5 s

/-- The effect of SAVE (R306). -/
def doSave (c : CeCmd) (s : State) : State :=
  match ceRec s c.ctx with
  | none => ceResult 4 c.ctx 4 s
  | some b =>
    let v : SaveSlot := { kind := b2n (ceTx b), stream := ceStream b, full := true, ctx := s.ctx c.ctx }
    ceResult 4 c.ctx 0 (s.updCe fun e => { e with saves := tset {} e.saves (c.arg % 512) v })

/-- The effect of RESTORE (R306). -/
def doRestore (c : CeCmd) (s : State) : State :=
  let v := tget {} s.ce.saves (c.arg % 512)
  match ceRec s c.ctx with
  | none => ceResult 5 c.ctx 4 s
  | some b =>
    if v.full ∧ v.kind = b2n (ceTx b) ∧ v.stream = ceStream b then ceResult 5 c.ctx 0 (s.setCtx c.ctx v.ctx)
    else ceResult 5 c.ctx 4 s

/-- `ctl` of a context (R296). -/
def ceCtl (b : List Byte) (x : CeCtx) : Nat :=
  2 ^ 31 + b2n (ceTx b) * 2 ^ 30 + byteAt b 1 * 2 ^ 29 + ceMkiLen b * 2 ^ 26 + x.act * 2 ^ 25
    + b2n x.chg.isSome * 2 ^ 24 + x.s1.st * 2 ^ 21 + x.s0.st * 2 ^ 18

/-- A key slot as its 64 bytes (R297), keys included. -/
def slotBytes (k : KeySlot) : List Byte :=
  (k.key ++ List.replicate 32 0).take 32 ++ (k.salt ++ List.replicate 12 0).take 12 ++ toLe 4 k.mki ++ toLe 8 k.used ++ toLe 8 k.limit

/-- The 256 bytes of a context (R296), its slots as `f` shows them. -/
def ctxBytes (b : List Byte) (x : CeCtx) (f : KeySlot → List Byte) : List Byte :=
  toLe 4 (ceCtl b x) ++ toLe 2 (ceStream b) ++ toLe 2 0 ++ toLe 8 (x.index.getD 0 % 2 ^ 48)
    ++ toLe 8 ((x.chg.getD (2 ^ 48 - 1)) % 2 ^ 48) ++ List.replicate 8 0 ++ f x.s0 ++ f x.s1 ++ List.replicate 96 0

/-- The 272 bytes that EXPORT wraps: the context with its keys, GTS, `ctx`, `kind`, zero (R307). -/
def exportBlock (s : State) (c : Nat) (b : List Byte) : List Byte :=
  ctxBytes b (s.ctx c) slotBytes ++ toLe 8 s.now ++ toLe 2 c ++ [BitVec.ofNat 8 (b2n (ceTx b))] ++ List.replicate 5 0

/-- The effect of EXPORT (R307). -/
def doExport (c : CeCmd) (s : State) : State :=
  match ceRec s c.ctx with
  | none => ceResult 6 c.ctx 4 s
  | some b =>
    if kekUsable s c.kek then
      ceResult 6 c.ctx 0 (s.updCe fun e => { e with xfer := tsets 0 e.xfer 0 (keyWrap s c.kek (exportBlock s c.ctx b)) })
    else ceResult 6 c.ctx 2 s

/-- A key slot from its 64 bytes (R297); its state is that of `ctl`. -/
def slotOfBytes (st : Nat) (b : List Byte) : KeySlot :=
  { st := st, key := slice b 0 32, salt := slice b 0x20 12, mki := u32 b 0x2C, used := u64 b 0x30, limit := u64 b 0x38 }

/-- A context from the 256 bytes of R296. -/
def ctxOfBytes (b : List Byte) : CeCtx :=
  let ctl := u32 b 0
  { s0 := slotOfBytes (fld ctl 20 18) (slice b 0x20 64), s1 := slotOfBytes (fld ctl 23 21) (slice b 0x60 64),
    act := fld ctl 25 25, chg := if bit ctl 24 then some (u64 b 0x10 % 2 ^ 48) else none,
    index := some (u64 b 8 % 2 ^ 48) }

/-- The effect of IMPORT (R307). -/
def doImport (c : CeCmd) (s : State) : State :=
  let ok := Config.wrapOk c.kek (kekBytes s c.kek) c.blob
  let out := keyUnwrap s c.kek c.blob
  match ceRec s c.ctx with
  | none => ceResult 7 c.ctx 4 s
  | some b =>
    if ¬ ok ∨ ¬ kekUsable s c.kek then ceResult 7 c.ctx 2 s
    else if byteAt out 266 ≠ b2n (ceTx b) ∨ u16 out 4 ≠ ceStream b then ceResult 7 c.ctx 3 s
    else if ceTx b ∧ c.arg < 65536 then ceResult 7 c.ctx 5 s
    else
      let x := ctxOfBytes out
      let x := if ceTx b then { x with index := x.index.map (· + c.arg) } else x
      ceResult 7 c.ctx 0 (s.setCtx c.ctx x)

/-- What the engine finds for a command: whether its blob unwraps, and the bytes that it unwraps or wraps (R304, R307). -/
def cmdReport (c : CeCmd) (s : State) : Bool × List Byte :=
  match c.op with
  | 1 => (Config.wrapOk c.kek (kekBytes s c.kek) (c.blob.take 64), keyUnwrap s c.kek (c.blob.take 64))
  | 6 => (true, (ceRec s c.ctx).elim [] fun b => keyWrap s c.kek (exportBlock s c.ctx b))
  | 7 => (Config.wrapOk c.kek (kekBytes s c.kek) c.blob, keyUnwrap s c.kek c.blob)
  | _ => (true, [])

/-- CMD_COMPLETE (R306, R308): the running command ends. A second mismatch of a lane ends a command with UNWRAP (log 22). A report of
anything but what the engine finds is no event of the device and changes nothing (DESIGN CHOICE, log 5). -/
def execCmdComplete (t : Gts) (parityBad unwrapOk : Bool) (out : List Byte) : State → Host.Outcome State Fault Refusal :=
  act t fun s =>
    match s.ce.cmd with
    | none => s
    | some c =>
      if c.fail ≠ 0 then ceResult c.op c.ctx c.fail s
      else if parityBad ∧ ¬ c.repeated then
        let s := (s.bump (baseCE + 0x224)).raise 7 0x706 [c.lane, ((s.lane c.lane).owner).getD 0xFF]
        laneMismatch 7 c.lane false (s.updCe fun e => { e with cmd := some { c with repeated := true } })
      else if parityBad then ceResult c.op c.ctx 2 (laneMismatch 7 c.lane true s)
      else if (unwrapOk, out) ≠ cmdReport c s then s
      else
        match c.op with
        | 1 => doKeyload c s
        | 2 => doChange c s
        | 3 => doDiscard c s
        | 4 => doSave c s
        | 5 => doRestore c s
        | 6 => doExport c s
        | _ => doImport c s

/-- Key zeroization in the engine (R308, R396, R417): every context, association, save slot and CE_XFER; a command in
flight will end with STATE. -/
def ceZeroize (s : State) : State :=
  s.updCe fun e =>
    { e with ctxs := [], sas := [], saves := [], xfer := [], cmd := e.cmd.map fun c => { c with fail := 4 } }

/-! ## What the windows show -/

/-- A key slot as CE_CTX shows it: session key and salt read as zero (R296). -/
def slotWindow (k : KeySlot) : List Byte :=
  List.replicate 44 0 ++ toLe 4 k.mki ++ toLe 8 k.used ++ toLe 8 k.limit

/-- The CE_CTX window (R296). -/
def ceCtxWindow (s : State) (c : Nat) : List Byte :=
  match ceRec s c with
  | none => []
  | some b =>
    ctxBytes b (s.ctx c) slotWindow

/-- An association as CE_SA shows it, keys and salts zero; the order of its fields is the model's (log 23). -/
def ceSaWindow (s : State) (i : Nat) : List Byte :=
  let a := s.sa i
  if a.st = 0 then []
  else toLe 4 a.st ++ List.replicate 44 0 ++ toLe 4 a.ssci ++ toLe 4 0 ++ toLe 8 a.sci ++ toLe 8 a.pn ++ toLe 4 a.window
    ++ toLe 4 0 ++ toLe 8 a.used ++ toLe 8 a.limit

/-- The CE_CSTAT entry of a context (R311). -/
def ceStatWord (s : State) (c i : Nat) : Nat :=
  match ceRec s c with
  | none => 0
  | some _ =>
    let x := s.ctx c
    match i with
    | 0 => x.s0.st * 2 ^ 29 + x.s1.st * 2 ^ 26 + x.act * 2 ^ 25
    | 1 => satN 32 (slotOf x x.act).used
    | 2 => satN 32 x.tagFail
    | _ => satN 32 x.replay

end Sys2Proof.Machine
end

