-- ==== Sys2Proof/Machine/TimeBase.lean ====
section
/-! DEFINITION. The Time Base, [14]: PTP instances, reference, lock and holdover, steps and realignment, PPS. -/

namespace Sys2Proof.Machine

/-- Fields of a PTP record (R340). -/
def ptpRole (b : List Byte) : Nat := byteAt b 0
def ptpOpts (b : List Byte) : Nat := byteAt b 3

/-- Layout of a PTP body (R340, R461). -/
def formPTP (b : List Byte) : Bool :=
  b.length == 16 && decide (byteAt b 0 < 3) && decide (byteAt b 1 < 2) && decide (byteAt b 3 < 8) &&
    decide (byteAt b 3 / 2 % 4 < 3) && allZero (slice b 0xC 4)

/-- The rules of R340 and R341 on one PTP body. What a profile permits is the profile's own, a free value (log 24). -/
def limitPTP (b : List Byte) : Bool :=
  decide (byteAt b 2 < 128) && decide (2 ≤ byteAt b 7) && decide (byteAt b 7 ≤ 10) && decide (10 ≤ u16 b 0xA) &&
    decide (u16 b 0xA ≤ 1000) &&
    (byteAt b 0 == 0 ||
      Config.ptpPermits (byteAt b 1) (byteAt b 2) (byteAt b 7) [sgn 8 (byteAt b 4), sgn 8 (byteAt b 5), sgn 8 (byteAt b 6)])

/-- The PTP record of an instance. -/
def ptpRec (s : State) (i : Nat) : Option (List Byte) := s.recNow tyPTP i

/-- Grains in a second. -/
def sec : Nat := 4000000000

/-- An interval of 2^l seconds for a signed byte l (R340). -/
def logInterval (l : Nat) : Nat :=
  let x := sgn 8 l
  if 0 ≤ x then sec * 2 ^ x.toNat else sec / 2 ^ (-x).toNat

/-- Step threshold in grains (R336, R337). -/
def stepThr (s : State) : Nat := s.rfld (baseTB + 4) 14 0 * 4000

/-- Step confirmation in grains. -/
def stepConfirm (s : State) : Nat := s.rfld (baseTB + 4) 23 16 * sec

/-- An integer as two detail words. -/
def words64 (x : Int) : List Nat := [wrap 64 x % 2 ^ 32, wrap 64 x / 2 ^ 32]

/-- The preferred instance of the policy (R372). -/
def ptpPref (s : State) : Nat := s.rfld (baseSV + 0x814) 0 0

/-- A SLAVE instance without a pending step (R344). -/
def usableInst (s : State) (i : Nat) : Bool := (s.inst i).pstate == 9 && (s.inst i).stepFrom == 0

/-- HOLDOVER ends (R343). -/
def leaveHold (goTo : Nat) (s : State) : State :=
  let d := (s.now - s.tb.holdFrom) / sec
  let s' := s.updTb fun b => { b with st := goTo, expired := false, lockFrom := 0 }
  s'.raise 12 0xC05 ([d] ++ words64 s.tb.theta)

/-- The Supervisor names an instance reference (R344, R380). -/
def nameRef (i : Nat) (s : State) : State :=
  if s.tb.ref = some i ∧ s.tb.st ≠ 3 then s
  else
    let old := s.tb.ref
    let th := (s.inst i).theta
    let s := s.updTb fun b => { b with ref := some i, refNew := true, theta := th }
    let s := match old with
      | some o =>
        if o = i then s
        else
          let s := s.setInst o { s.inst o with stepFrom := 0, stepLog := 0 }
          (s.raise 12 0xC03 ([o, i] ++ words64 th)).bump (baseTB + 0x214)
      | none => s
    if s.tb.st = 3 then leaveHold 1 s
    else if s.tb.st = 0 then s.updTb fun b => { b with st := 1, lockFrom := 0 }
    else s

/-- The reference can no longer be used: the other instance is named, or a LOCKED Time Base enters HOLDOVER (R343,
R344, R380). -/
def refLost (s : State) : State :=
  match s.tb.ref with
  | none => s
  | some r =>
    if usableInst s (1 - r) then nameRef (1 - r) s
    else if s.tb.st = 2 then
      ((s.updTb fun b => { b with st := 3, holdFrom := s.now, lockFrom := 0 }).raise 12 0xC04 [r]).bump (baseTB + 0x218)
    else s

/-- The lock states follow a measurement of the reference (R343). -/
def lockStep (i : Nat) (th : Int) (s : State) : State :=
  let small := decide (th.natAbs < 4000)
  let from' := if small then (if s.tb.lockFrom = 0 then s.now + 1 else s.tb.lockFrom) else 0
  let s := s.updTb fun b => { b with lockFrom := from', theta := th, refNew := false }
  let s := if s.tb.st = 0 then s.updTb fun b => { b with st := 1 } else if s.tb.st = 3 then leaveHold 1 s else s
  if s.tb.st = 1 ∧ 200000 < s.tb.freq.natAbs then
    (s.updTb fun b => { b with st := 0 }).raise 12 0xC02 [i, 0]
  else if s.tb.st = 1 ∧ from' ≠ 0 ∧ from' - 1 + 2 * sec ≤ s.now then
    (s.updTb fun b => { b with st := 2, everLocked := true }).raise 12 0xC01 ([i] ++ words64 th)
  else if s.tb.st = 2 ∧ 40000 < th.natAbs then
    (s.updTb fun b => { b with st := 1, lockFrom := 0 }).raise 12 0xC02 [i, 1]
  else s

/-- A measured offset of an instance (R336, R337, R342). -/
def measure (i : Nat) (th : Int) (s : State) : State :=
  let x := s.inst i
  let bw := ((ptpRec s i).map fun b => u16 b 0xA).getD 0
  let s := s.bump (baseTB + 0x200 + 4 * i)
  let s := s.updTb fun b =>
    { b with freq := if b.ref = some i ∧ th.natAbs < stepThr s then Config.servoFreq b.freq th bw else b.freq }
  if stepThr s ≤ th.natAbs then
    if x.stepFrom = 0 then
      let s := s.setInst i { x with theta := th, lastSync := s.now, stepFrom := s.now + 1, stepLog := 0 }
      if s.tb.ref = some i then refLost s else s
    else s.setInst i { x with theta := th, lastSync := s.now }
  else
    let s := s.setInst i { x with theta := th, lastSync := s.now, stepFrom := 0, stepLog := 0 }
    if s.tb.ref = some i ∧ x.pstate = 9 then lockStep i th s else s

/-- Whether an instance follows a master (R340). -/
def isFollower (s : State) (i : Nat) : Bool := ((ptpRec s i).map ptpRole).getD 0 == 1

/-- SYNC (R342): a one-step message is measured at once, a two-step message waits for its Follow_Up. -/
def execSync (t : Gts) (i : Fin 2) (m : PtpMsg) (rxTs : Gts) : State → Host.Outcome State Fault Refusal :=
  act t fun s =>
    if ¬ isFollower s i.val then s
    else
      let x := s.inst i.val
      let t2 := s.mediaOf rxTs.toNat
      if m.twoStep then s.setInst i.val { x with syncSeq := some m.seq, t2 := t2, t1 := m.corr }
      else
        let t1 := m.origin + m.corr
        let s := s.setInst i.val { x with t1 := t1, t2 := t2, syncSeq := none }
        measure i.val (t1 + x.delay - t2) s

/-- FOLLOW_UP (R342). -/
def execFollowUp (t : Gts) (i : Fin 2) (m : PtpMsg) : State → Host.Outcome State Fault Refusal :=
  act t fun s =>
    let x := s.inst i.val
    if isFollower s i.val ∧ x.syncSeq = some m.seq then
      let t1 := x.t1 + m.origin + m.corr
      measure i.val (t1 + x.delay - x.t2) (s.setInst i.val { x with t1 := t1, syncSeq := none })
    else s

/-- DELAY_REQ (R342): the master side answers with Delay_Resp. -/
def execDelayReq (t : Gts) (i : Fin 2) (_ : PtpMsg) (_ : Gts) : State → Host.Outcome State Fault Refusal :=
  act t fun s =>
    if ((ptpRec s i.val).map ptpRole).getD 0 = 2 then
      s.setInst i.val { s.inst i.val with sentResp := (s.inst i.val).sentResp + 1 }
    else s

/-- DELAY_RESP (R342): the mean path delay of IEEE 1588-2019. -/
def execDelayResp (t : Gts) (i : Fin 2) (m : PtpMsg) : State → Host.Outcome State Fault Refusal :=
  act t fun s =>
    let x := s.inst i.val
    if isFollower s i.val then
      let t4 := m.origin - m.corr
      s.setInst i.val { x with delay := ((x.t2 - x.t1) + (t4 - x.t3)) / 2 }
    else s

/-- The choice of the reference when an instance becomes usable (R344, R380): the preferred one of two. -/
def chooseRef (s : State) : State :=
  if s.tb.ref.isNone ∨ s.tb.st = 3 ∨ s.tb.st = 0 then
    let p := ptpPref s
    if usableInst s p then nameRef p s else if usableInst s (1 - p) then nameRef (1 - p) s else s
  else s

/-- A port state of an instance (R342, R343). -/
def setPstate (i st : Nat) (s : State) : State :=
  let x := s.inst i
  let s := s.setInst i { x with pstate := st, slaveFrom := if st = 9 then (if x.pstate = 9 then x.slaveFrom else s.now + 1) else 0 }
  let s := if x.pstate = 9 ∧ st ≠ 9 ∧ s.tb.ref = some i then refLost s else s
  if st = 9 then chooseRef s else s

/-- ANNOUNCE (R342, R343): what best-master selection concludes. -/
def execAnnounce (t : Gts) (i : Fin 2) (r : BmcResult) : State → Host.Outcome State Fault Refusal :=
  act t fun s =>
    if (ptpRec s i.val).isSome then
      let x := s.inst i.val
      setPstate i.val r.pstate.toNat (s.setInst i.val { x with steps := r.steps.toNat, gmId := r.gmId })
    else s

/-- ANNOUNCE_RECEIPT_TIMEOUT (R340, R342): the instance goes to LISTENING. -/
def execAnnounceReceiptTimeout (t : Gts) (i : Fin 2) : State → Host.Outcome State Fault Refusal :=
  act t fun s => if (ptpRec s i.val).isSome then setPstate i.val 4 s else s

/-- SYNC_TX (R342): the master side sends Sync. -/
def execSyncTx (t : Gts) (i : Fin 2) : State → Host.Outcome State Fault Refusal :=
  act t fun s =>
    match ptpRec s i.val with
    | some b =>
      if ptpRole b = 2 then
        let x := s.inst i.val
        s.setInst i.val { x with sentSync := x.sentSync + 1, txReq := false, txFrom := if bit (ptpOpts b) 0 then s.now + 1 else 0 }
      else s
    | none => s

/-- DELAY_REQ_TX (R342, R349). -/
def execDelayReqTx (t : Gts) (i : Fin 2) : State → Host.Outcome State Fault Refusal :=
  act t fun s =>
    if isFollower s i.val then
      (s.setInst i.val { s.inst i.val with txFrom := s.now + 1, txReq := true }).bump (baseTB + 0x208 + 4 * i.val)
    else s

/-- NP_LAT.`tx_lat` of the port on which an instance runs (R81, R340). -/
def txLat (s : State) (i : Nat) : Nat := ((portOfRole s (i + 1)).map fun p => s.rfld (baseNP p + 0x44) 31 16).getD 0

/-- EGRESS_TIMESTAMP (R81, R342): the time of a Delay_Req, or of the Sync whose Follow_Up the master side sends. `ts` is the
instant at the PCS boundary; the port adds `tx_lat`. -/
def execEgressTimestamp (t : Gts) (i : Fin 2) (ts : Gts) : State → Host.Outcome State Fault Refusal :=
  act t fun s =>
    let x := s.inst i.val
    let m := s.mediaOf (ts.toNat + txLat s i.val)
    if x.txFrom = 0 ∨ x.txFrom - 1 + sec / 1000 < s.now then s
    else if x.txReq then s.setInst i.val { x with txFrom := 0, t3 := m }
    else s.setInst i.val { x with txFrom := 0, sentAt := m }

/-- TS_DROP (R342): an event message without its timestamp is discarded; logged once per instance per second. -/
def execTsDrop (t : Gts) (i : Fin 2) : State → Host.Outcome State Fault Refusal :=
  act t fun s =>
    let x := s.inst i.val
    let now := s.now / sec + 1
    let s := (s.setInst i.val { x with txFrom := 0, syncSeq := none, dropSec := now }).bump (baseTB + 0x210)
    if x.dropSec = now then s else s.raise 12 0xC0A [i.val]

/-- HOLDOVER_ON (R343): no Sync used for four Sync intervals of the reference. -/
def execHoldoverOn (t : Gts) : State → Host.Outcome State Fault Refusal :=
  act t fun s =>
    match s.tb.ref with
    | some r =>
      let iv := ((ptpRec s r).map fun b => logInterval (byteAt b 4)).getD 0
      if s.tb.st = 2 ∧ (s.inst r).lastSync + 4 * iv ≤ s.now then refLost s else s
    | none => s

/-- The error estimate of holdover, ns (R345). -/
def holdErr (s : State) : Nat := 50 + s.rfld (baseTB + 8) 15 0 * (s.now - s.tb.holdFrom) / sec

/-- HOLDOVER_EXPIRED (R345), once. -/
def execHoldoverExpired (t : Gts) : State → Host.Outcome State Fault Refusal :=
  act t fun s =>
    if s.tb.st = 3 ∧ ¬ s.tb.expired ∧ s.rfld (baseTB + 8) 31 16 < holdErr s then
      (s.updTb fun b => { b with expired := true }).raise 12 0xC06 [holdErr s]
    else s

/-- PTP_STEP (R337): a step of the reference is confirmed, and confirmed again at each further period. -/
def execPtpStep (t : Gts) (i : Fin 2) : State → Host.Outcome State Fault Refusal :=
  act t fun s =>
    let x := s.inst i.val
    let from' := if x.stepLog = 0 then x.stepFrom else x.stepLog
    if s.tb.ref = some i.val ∧ x.stepFrom ≠ 0 ∧ from' - 1 + stepConfirm s ≤ s.now then
      let s := s.setInst i.val { x with stepLog := s.now + 1 }
      let s := s.raise 12 0xC07 ([i.val] ++ words64 x.theta)
      if bit (s.reg (baseTB + 4)) 15 ∨ s.sup.mode = .calibrate then s.updTb fun b => { b with realignReq := true } else s
    else s

/-- The pending, confirmed step: of the reference instance, or of PPS in (R337, R346). -/
def stepPending (s : State) : Bool :=
  (match s.tb.ref with | some r => (s.inst r).stepFrom != 0 | none => false) || s.tb.ppsStepFrom != 0

/-- REALIGN through TB_CTRL (R337). -/
def opRealign (m : Master) : State → State :=
  guardWrite m (baseTB + 0x10) fun s =>
    if stepPending s then s.updTb fun b => { b with realignReq := true } else s

def execRealign (t : Gts) (m : Master) : State → Host.Outcome State Fault Refusal := act t (opRealign m)

/-- SET_TOD through TB_CTRL (R346). -/
def opSetTod (m : Master) : State → State :=
  guardWrite m (baseTB + 0x10) fun s =>
    s.updTb fun b => { b with tod := some (s.reg (baseTB + 0x14) + 2 ^ 32 * s.reg (baseTB + 0x18)) }

def execSetTod (t : Gts) (m : Master) : State → Host.Outcome State Fault Refusal := act t (opSetTod m)

/-- PPS_IN (R346): with `src` 1 an edge in state FREE is a reference measurement. -/
def execPpsIn (t : Gts) : State → Host.Outcome State Fault Refusal :=
  act t fun s =>
    let edge := s.mediaOf (s.now - s.rfld (baseTB + 0xC) 15 0)
    let s := s.updTb fun b => { b with ppsOk := true, lastPps := s.now }
    if s.rfld baseTB 9 8 = 1 ∧ s.tb.st = 0 then
      match s.tb.tod with
      | none => s
      | some d =>
        let th := (d * sec : Nat) - edge
        let s := s.updTb fun b => { b with tod := some (d + 1), theta := th }
        if stepThr s ≤ th.natAbs then
          let from' := if s.tb.ppsStepFrom = 0 then s.now + 1 else s.tb.ppsStepFrom
          let s := s.updTb fun b => { b with ppsStepFrom := from' }
          if from' - 1 + stepConfirm s ≤ s.now then
            let s := (s.updTb fun b => { b with ppsStepFrom := s.now + 1 }).raise 12 0xC07 ([2] ++ words64 th)
            if bit (s.reg (baseTB + 4)) 15 ∨ s.sup.mode = .calibrate then s.updTb fun b => { b with realignReq := true } else s
          else s
        else s.updTb fun b => { b with ppsStepFrom := 0 }
    else s

/-- PPS_LOSS (R346): an expected edge is 10 ms late, or the 10 MHz input stops. -/
def execPpsLoss (t : Gts) (tenMhz : Bool) : State → Host.Outcome State Fault Refusal :=
  act t fun s =>
    if tenMhz then
      if s.tb.ref10Ok then (s.updTb fun b => { b with ref10Ok := false }).raise 12 0xC09 [1] else s
    else if s.tb.ppsOk ∧ s.tb.lastPps + sec + sec / 100 ≤ s.now then
      (s.updTb fun b => { b with ppsOk := false }).raise 12 0xC09 [0]
    else s

/-- TEN_MHZ_INPUT_PRESENT (R334, R346): the input is used when `ref10` is set. -/
def execTenMhzInputPresent (t : Gts) : State → Host.Outcome State Fault Refusal :=
  act t fun s => s.updTb fun b => { b with ref10Ok := bit (s.reg baseTB) 4 }

/-- REF_REVERT (R380): the preferred instance has been usable for `ref_revert` seconds. -/
def execRefRevert (t : Gts) : State → Host.Outcome State Fault Refusal :=
  act t fun s =>
    let p := ptpPref s
    let rv := s.rfld (baseSV + 0x814) 15 8
    let x := s.inst p
    if rv ≠ 0 ∧ s.tb.ref = some (1 - p) ∧ usableInst s p ∧ x.slaveFrom ≠ 0 ∧ x.slaveFrom - 1 + rv * sec ≤ s.now then
      nameRef p s
    else s

/-- The latches of a read of TB_GTS_LO (R348). -/
def latchGts (s : State) : State :=
  let n := s.ell % 2 ^ 48
  s.updTb fun b =>
    { b with gtsHi := BitVec.ofNat 32 (s.now / 2 ^ 32), ellLo := BitVec.ofNat 32 n, ellHi := BitVec.ofNat 32 (n / 2 ^ 32) }

/-- The J and the remainder of a realignment that takes effect at the boundary whose old number is `n` (R337). -/
def realignDue (n : Nat) (s : State) : Option (Int × Int) :=
  match s.tb.realign with
  | some (j, r, at') => if at' ≤ n then some (j, r) else none
  | none => none

/-- A realignment takes effect (R337). -/
def takeRealign (j r : Int) (s : State) : State :=
  let clear (x : PtpInst) : PtpInst := { x with stepFrom := 0, stepLog := 0 }
  let s := s.setInst 0 (clear (s.inst 0))
  let s := s.setInst 1 (clear (s.inst 1))
  let s := s.updTb fun b =>
    { b with ofs := b.ofs + 500000 * j, theta := r, realign := none, realignReq := false, ppsStepFrom := 0,
             jumped := b.jumped + j }
  (s.raise 12 0xC08 [wrap 32 j, wrap 32 r]).bump (baseTB + 0x21C)

/-- A number moved by `j`, where it is not zero. -/
def moveNum (j : Int) (n : Nat) : Nat := if n = 0 then 0 else ((n : Int) + j).toNat

/-- A realignment that is asked for is decided at E_n, unless a delta is APPLYING (R337); a scheduled target among the skipped
numbers becomes the first new one, and the cut-off and the playout that have passed count in the new numbering (R338). -/
def decideRealign (n : Nat) (s : State) : State :=
  if s.tb.realignReq ∧ s.tb.realign.isNone ∧ s.load.st ≠ 5 then
    let th := match s.tb.ref with | some r => if s.tb.ppsStepFrom ≠ 0 then s.tb.theta else (s.inst r).theta | none => s.tb.theta
    let j := (th + 250000) / 500000
    let k := s.load.k
    let k' := if s.load.st = 4 ∧ n < k ∧ (k : Int) ≤ n + j then (n + 1 + j.toNat) else k
    let s := s.updTb fun b => { b with realign := some (j, th - 500000 * j, n + 1) }
    { s with load := { s.load with k := k' },
             se := { s.se with cutEll := moveNum j s.se.cutEll, playEll := moveNum j s.se.playEll } }
  else s

/-- TB_STATUS (R348). -/
def tbStatus (s : State) : Nat :=
  let err := if s.tb.st = 3 then holdErr s else s.tb.theta.natAbs / 4
  s.tb.st * 2 ^ 29 + (s.tb.ref.getD 0) * 2 ^ 28 + b2n s.tb.expired * 2 ^ 27 + b2n (stepPending s) * 2 ^ 26
    + b2n s.tb.ppsOk * 2 ^ 25 + b2n s.tb.ref10Ok * 2 ^ 24 + satN 24 err

/-- A signed value saturated to 32 bits. -/
def sat32 (x : Int) : Nat := wrap 32 (max (-2147483648) (min 2147483647 x))

/-- The TB_PTP entry of an instance (R349). -/
def ptpWord (s : State) (i w : Nat) : Nat :=
  match ptpRec s i with
  | none => 0
  | some b =>
    if ptpRole b = 0 then 0
    else
      let x := s.inst i
      match w with
      | 0 => x.pstate * 2 ^ 28 + ptpRole b * 2 ^ 26 + x.steps
      | 1 => sat32 x.theta
      | 2 => wrap 32 x.delay
      | 3 => x.gmId.toNat / 2 ^ 32
      | 4 => x.gmId.toNat % 2 ^ 32
      | _ => 0

end Sys2Proof.Machine
end

