-- ==== Sys2Proof/Machine/Modes.lean ====
section
/-! DEFINITION. Operating modes, resets, wake and power-down, [17], up to the choice made at an Ell boundary. -/

namespace Sys2Proof.Machine

/-- Whether a debug level may stay open in a mode (R416). -/
def levelAllowed (m : Mode) (level : Nat) : Bool :=
  match m with
  | .off => false | .standby => false | .boot => false | .lockdown => false
  | .test => level == 1 | .recovery => level == 1
  | _ => true

/-- Modes in which low-power idle may be asserted (R82). -/
def lpiMode (m : Mode) : Bool := m == .boot || m == .calibrate || m == .test || m == .recovery

/-- A port leaves low-power idle; its first frame waits `tw` (R82). -/
def leaveLpi (p : Nat) (s : State) : State :=
  let x := s.port p
  if x.lpiTx then
    s.setPort p { x with lpiTx := false, txReady := s.now + s.rfld (baseNP p + 0x48) 31 16 * 4000, idleFrom := s.now }
  else s

/-- The mode changes, with its event (R388). `cause` is the rank of R388 times ten, 90 for the ordinary exits. -/
def setMode (goTo : Mode) (cause : Nat) (s : State) : State :=
  if s.sup.mode = goTo then s
  else
    let old := s.sup.mode
    let s := s.updSup fun u =>
      { u with mode := goTo, prev := old, debugFrom := if goTo = .debug then old else u.debugFrom }
    let s := s.raiseSv 0x80 [old.code, goTo.code, cause]
    let s := if lpiMode goTo then s else [0, 1, 2, 3].foldl (fun s p => leaveLpi p s) s
    if s.trust.level ≠ 0 ∧ ¬ levelAllowed goTo s.trust.level then closeDebug 4 s else s

/-- Offsets of the always-on domain that outlive a reset of the blocks and Standby (R392, R397, R403). -/
def alwaysOn (off : Nat) : Bool :=
  off == 0x20A04 ||
    (decide (0x40000 ≤ off) && decide (off < 0x50000) &&
      (let r := (off - 0x40000) % 0x4000
       r == 0x4C || r == 0x50 || r == 0x54 || (decide (0x80 ≤ r) && decide (r < 0xC0))))

/-- The Trust Block after a reset that keeps the fuses (R410, R414, R415). -/
def trustAfter (t : Trust) : Trust :=
  { t with level := 0, sessEnd := none, nonceN := t.nonceN + 1, result := 0, busyOp := 0, cert := [], xfer := [],
           kekDown := false, zeroizing := false, pendInv := none, flashPass := false, bootSlot := 0, errA := 0, errB := 0 }

/-- What a reset of the blocks and the Supervisor leaves (R392): GTS, OFS, retirements, the always-on domain. -/
def resetBlocks (s : State) : State :=
  let base : State := {}
  { base with
    pending := s.pending
    gts := s.gts
    regs := s.regs.filter fun e => alwaysOn e.1
    fuses := s.fuses
    trust := trustAfter s.trust
    tb := { ofs := s.tb.ofs }
    sup :=
      { rcSpare := s.sup.rcSpare, scSpare := s.sup.scSpare, mfSpare := s.sup.mfSpare, ceRetired := s.sup.ceRetired
        czRetired := s.sup.czRetired, resetCause := s.sup.resetCause, recov := s.sup.recov, railsUp := s.sup.railsUp
        mode := s.sup.mode, prev := s.sup.prev, tripped := false }
    freeN := s.freeN }

/-- A reset of R392 that leads to Boot, naming its cause (R403). -/
def bootReset (cause rank : Nat) (s : State) : State :=
  let open' := s.trust.level ≠ 0
  let s := resetBlocks s
  let s := s.updSup fun u => { u with resetCause := cause }
  let s := if open' then s.raise 16 0x1004 [2] else s
  (setMode .boot rank s).raiseSv 0x81 [cause]

/-- Power-on and brownout reset: everything but the fuses (R392). -/
def powerOn (cause : Nat) (s : State) : State :=
  let base : State := {}
  let s' : State :=
    { base with pending := s.pending, fuses := s.fuses, trust := { nonceN := s.trust.nonceN + 1 }, freeN := s.freeN,
                sup := { resetCause := cause } }
  s'.raiseSv 0x81 [cause]

/-- POWER_ON_RESET: GTS and OFS restart from zero (R334, R392, R394). -/
def execPowerOnReset (t : Gts) (s : State) : Host.Outcome State Fault Refusal := .next (powerOn 1 (s.advance t))

/-- BROWNOUT: as a power-on reset (R392). -/
def execBrownout (t : Gts) (s : State) : Host.Outcome State Fault Refusal := .next (powerOn 2 (s.advance t))

/-- RESET_N in Off after a thermal trip (R386): what the always-on domain logged stays. -/
def resetFromTrip (s : State) : State :=
  let s' := bootReset 64 40 s
  { s' with pwrEn := true, pmbusOn := true, log := { s'.log with fresh := s.log.fresh ++ s'.log.fresh } }

/-- RESET_N (R387, R392): ignored in Standby and Lockdown; in Off only after a thermal trip (R386). -/
def execResetN (t : Gts) (tjBelow : Bool) : State → Host.Outcome State Fault Refusal :=
  act t fun s =>
    match s.sup.mode with
    | .standby => s
    | .lockdown => s
    | .off => if s.sup.tripped ∧ tjBelow then resetFromTrip s else s
    | _ => bootReset 4 40 s

/-- DEBUG_RESET (R392, R414): the debug port at Invasive level. -/
def execDebugReset (t : Gts) : State → Host.Outcome State Fault Refusal :=
  act t fun s =>
    if s.trust.level = 2 ∧ s.sup.mode ≠ .lockdown ∧ s.sup.mode ≠ .off ∧ s.sup.mode ≠ .standby then bootReset 32 40 s
    else s

/-- Asking for a mode change at the next Ell boundary (R388). -/
def askMode (rank : Nat) (goTo : Mode) (host : Bool) (s : State) : State :=
  s.updSup fun u => { u with reqs := u.reqs ++ [{ rank, goTo, cause := rank, host }] }

/-- A cause of Recovery (R398), where R387 allows it. -/
def askRecovery (s : State) : State :=
  match s.sup.mode with
  | .off => s | .standby => s | .boot => s | .test => s | .recovery => s | .lockdown => s
  | _ => askMode 50 .recovery false s

/-- WATCHDOG (R392): the Supervisor is reset and the device goes to Recovery. -/
def execWatchdog (t : Gts) : State → Host.Outcome State Fault Refusal :=
  act t fun s => askRecovery (s.updSup fun u => { u with resetCause := 16, reqs := [], held := [] })

/-- PERST_N (R392): the endpoint, the DMA rings and the MSI-X state. -/
def execPerstN (t : Gts) : State → Host.Outcome State Fault Refusal :=
  act t fun s =>
    { s with
      regs := tdrop s.regs fun k => decide (0x111000 ≤ k) && decide (k < 0x111400)
      msix := []
      host := { s.host with rings := [], aborted := false } }

/-- TRST_N (R392): the TAP controller, which holds no state of the model. -/
def execTrstN (t : Gts) : State → Host.Outcome State Fault Refusal := act t fun s => s

/-- The result of an SV_MODE_CTRL operation. -/
def modeResult (r : Nat) (s : State) : State := s.updSup fun u => { u with result := r }

/-- Whether a mode allows a host request (R386, R387, R399): 0 refused, 1 allowed, 2 held. -/
def requestAllowed (m : Mode) (op : Nat) : Nat :=
  match op with
  | 5 => (match m with | .off => 0 | .standby => 0 | .lockdown => 0 | _ => 1)
  | 1 => (match m with | .service => 1 | .sheltered => 1 | .reconfigure => 2 | _ => 0)
  | 2 => (match m with | .service => 1 | .sheltered => 1 | .reconfigure => 2 | _ => 0)
  | 3 => (match m with | .configure => 1 | .service => 1 | .sheltered => 1 | .reconfigure => 2 | _ => 0)
  | 4 => (match m with | .configure => 1 | .calibrate => 1 | .service => 1 | .sheltered => 1 | .debug => 1
                       | .reconfigure => 2 | _ => 0)
  | _ => 0

/-- Rank of a host request (R388): RESET, OFF, STANDBY, TEST and RECOVER, in that order. -/
def requestRank (op : Nat) : Nat := match op with | 5 => 60 | 2 => 61 | 1 => 62 | 3 => 63 | _ => 64

/-- The mode that a host request asks for. -/
def requestTo (op : Nat) : Mode :=
  match op with | 1 => .standby | 2 => .off | 3 => .test | 4 => .recovery | _ => .boot

/-- The wake from Standby (R397): the rails are restored and R394 follows from Boot. -/
def wake (s : State) : State :=
  if s.sup.mode = .standby then
    setMode .boot 90 { (s.updSup fun u => { u with downTo := none, fwOk := false, railsUp := false }) with
      pwrEn := true, pmbusOn := true }
  else s

/-- An operation of SV_MODE_CTRL (R388, R403). -/
def opMode (m : Master) (op confirm : Nat) : State → State :=
  guardWrite m (baseSV + 0xA00) fun s =>
    if s.sup.mode = .lockdown then s
    else if confirm ≠ 0x5A then modeResult 2 s
    else if op = 6 then
      if m = .spi ∧ s.sup.mode = .standby then wake (modeResult 0 s) else modeResult 1 s
    else
      match requestAllowed s.sup.mode op with
      | 1 => askMode (requestRank op) (requestTo op) true (modeResult 0 s)
      | 2 =>
        modeResult 4 (s.updSup fun u =>
          { u with held := u.held ++ [{ rank := requestRank op, goTo := requestTo op, cause := requestRank op, host := true }] })
      | _ => modeResult 1 s

def execStandby (t : Gts) (m : Master) (c : Byte) : State → Host.Outcome State Fault Refusal := act t (opMode m 1 c.toNat)
def execOff (t : Gts) (m : Master) (c : Byte) : State → Host.Outcome State Fault Refusal := act t (opMode m 2 c.toNat)
def execTest (t : Gts) (m : Master) (c : Byte) : State → Host.Outcome State Fault Refusal := act t (opMode m 3 c.toNat)
def execRecover (t : Gts) (m : Master) (c : Byte) : State → Host.Outcome State Fault Refusal := act t (opMode m 4 c.toNat)
def execReset (t : Gts) (m : Master) (c : Byte) : State → Host.Outcome State Fault Refusal := act t (opMode m 5 c.toNat)
def execWake (t : Gts) (m : Master) (c : Byte) : State → Host.Outcome State Fault Refusal := act t (opMode m 6 c.toNat)

/-- WAKE_PIN (R397): WAKE_N low for 1 ms, when `wake_pin` is set. -/
def execWakePin (t : Gts) : State → Host.Outcome State Fault Refusal :=
  act t fun s => if bit (s.reg (baseSV + 0xA04)) 16 then wake s else s

/-- What stays in the always-on domain when the rails go down (R396, R397, R403). -/
def powerDown (s : State) : State :=
  let base : State := {}
  { base with
    pending := s.pending, gts := s.gts, fuses := s.fuses
    regs := s.regs.filter fun e => alwaysOn e.1
    trust := trustAfter s.trust
    tb := { ofs := s.tb.ofs }
    sup := { mode := s.sup.mode, prev := s.sup.prev, resetCause := s.sup.resetCause, tripped := s.sup.tripped,
             rcSpare := s.sup.rcSpare, scSpare := s.sup.scSpare, mfSpare := s.sup.mfSpare,
             ceRetired := s.sup.ceRetired, czRetired := s.sup.czRetired, recov := s.sup.recov, result := s.sup.result,
             bootErr := s.sup.bootErr, calBits := s.sup.calBits }
    pmbusOn := false
    pwrEn := s.sup.mode = .standby
    freeN := s.freeN }

/-- A port outside the modes in which it trains: its link reads 0, and no event says so (R68). -/
def unlink (p : Nat) (s : State) : State :=
  s.updPort p fun x => { x with link := false, fecLock := false, lpiTx := false, lpiRx := false, eeePartner := false }

/-- The steps of R396 at the boundary of an OFF or STANDBY request: outputs stop with the mode, egress queues are
boundary-flushed, the Cipher Engine is zeroed, the regulator is turned off. -/
def startDown (goTo : Mode) (cause : Nat) (s : State) : State :=
  let s := (recsOf s.cfg.recs tyQUEUE).foldl
    (fun s e => if qCons e.2 < 4 then qFlushLater e.1 e.2 s else s) s
  let s := ceZeroize s
  let s := [0, 1, 2, 3].foldl (fun s p => unlink p s) (setMode goTo cause s)
  { (s.updSup fun u => { u with downTo := some goTo }) with pmbusOn := false }

/-- POWER_DOWN_DONE (R396): the rails are down; PWR_EN is de-asserted for Off. -/
def execPowerDownDone (t : Gts) : State → Host.Outcome State Fault Refusal :=
  act t fun s => if s.sup.downTo.isSome then powerDown s else s

/-- A thermal trip (R379, R396): steps 3 and 4 at once, then PWR_EN. -/
def thermalTrip (s : State) : State :=
  let s := setMode .off 20 (ceZeroize s)
  powerDown (s.updSup fun u => { u with tripped := true })

/-- Entering Recovery (R398): blocks are reset but for the Time Base and the MADI paths; pass-through begins. -/
def enterRecovery (cause : Nat) (s : State) : State :=
  let recent := s.now :: (s.sup.recov.filter fun g => decide (s.now < g + 600 * sec))
  let tb := { s.tb with st := if s.tb.st = 2 then 3 else s.tb.st, holdFrom := s.now }
  let keep := s.host.ports.filter fun e => decide (0x10 ≤ e.1) && decide (e.1 < 0x14)
  let s' := resetBlocks s
  let madi (e : Nat × Option (List Byte)) : Bool :=
    decide (e.1 / 2 ^ 32 = tyLOCAL) && decide (0x10 ≤ e.1 % 2 ^ 32) && decide (e.1 % 2 ^ 32 < 0x14)
  let s' := { s' with tb := tb, host := { s'.host with ports := keep }, cfg := { s'.cfg with recs := s.cfg.recs.filter madi } }
  let s' := s'.updSup fun u => { u with recov := recent, passThru := true, noFlash := decide (3 ≤ recent.length) }
  let s' := setMode .recovery cause s'
  if 3 ≤ recent.length then s'.raiseSv 0x83 [recent.length] else s'

/-- `v_max` of the policy (R372). -/
def vMax (s : State) : Nat := s.rfld (baseSV + 0x804) 25 16

/-- The fixed bytes before the signature of a block of R47: its magic, the algorithm, the length and zero bytes. -/
def sigHead : List Byte := [0x4B, 0x53, 0x49, 0x47, 0x65, 0x00, 0xED, 0x0C, 0, 0, 0, 0, 0, 0, 0, 0]

/-- Whether a signature block of R47 verifies over `msg` under `key` with context `ctx`. A block whose header or zero
bytes are not those of R47 does not verify (DEDUCED, log 21). -/
def sigVerifies (key msg ctx block : List Byte) : Bool :=
  slice block 0 16 == sigHead && allZero (slice block 3325 3) && Config.mlDsa key msg ctx (slice block 16 3309)

/-- The signature block of R47 that holds a signature. -/
def sigBlockOf (signature : List Byte) : List Byte := sigHead ++ padTo 3309 signature ++ List.replicate 3 0

/-- Header and code of a firmware image: what its signature covers and its measurement is taken of (R405, R406). -/
def fwBytes (img : List Byte) : List Byte := slice img 0 (64 + u32 img 8)

/-- The Casholt firmware public key of the boot ROM (R405). -/
def firmwareKey : List Byte := (List.range 1952).map Config.firmwareKey

/-- The code with which an image fails the checks of R406, laid out as R405 has it; 0 when it passes. -/
def fwErr (s : State) (img : List Byte) : Nat :=
  if slice img 0 4 ≠ [0x54, 0x56, 0x46, 0x57] ∨ u16 img 4 ≠ 1 then 1
  else if u32 img 8 % 8 ≠ 0 ∨ 491520 - 64 - 3328 < u32 img 8 ∨ ¬ allZero (slice img 6 2) ∨ ¬ allZero (slice img 0x20 32) then 2
  else if ¬ sigVerifies firmwareKey (fwBytes img) [0x54, 0x56, 0x46, 0x57, 0x31] (slice img (64 + u32 img 8) 3328) then 3
  else if u64 img 0x10 < s.fuses.rollback then 4
  else 0

/-- Firmware is started: its measurement (R406), and `vset` = `v_max` (R394). -/
def startFw (slot : Nat) (img : List Byte) (s : State) : State :=
  let s := s.updTrust fun t =>
    { t with bootSlot := slot, fwMeas := shake256 (fwBytes img), fwSec := u64 img 0x10, fwVer := u64 img 0x18 }
  let s := s.updSup fun u => { u with fwOk := true, bootErr := 0, vset := vMax s, avs := 0 }
  if s.sup.mode = .recovery ∨ s.sup.railsUp then askMode 90 .configure false s else s

/-- FIRMWARE_VERIFIED (R394, R405, R406): the fuses, slot A, then slot B. -/
def execFirmwareVerified (t : Gts) (sensed : Bool) (slots : List Byte × List Byte) : State → Host.Outcome State Fault Refusal :=
  act t fun s =>
    let (a, b) := slots
    if s.sup.mode ≠ .boot ∧ s.sup.mode ≠ .recovery then s
    else
      let ea := fwErr s a
      let eb := fwErr s b
      if ¬ sensed then s.updSup fun u => { u with bootErr := 5 }
      else if ea = 0 then startFw 0 a (s.updTrust fun t => { t with errA := 0, errB := 0 })
      else
        let s := s.updTrust fun t => { t with errA := ea, errB := eb }
        if eb = 0 then startFw 1 b s else s.updSup fun u => { u with bootErr := eb, fwOk := false }

/-- SERDES_AND_PCIE_RAILS_UP (R394, R452): a Boot that has verified its firmware goes on to Configure. -/
def execSerdesAndPcieRailsUp (t : Gts) : State → Host.Outcome State Fault Refusal :=
  act t fun s =>
    let s := s.updSup fun u => { u with railsUp := true }
    if s.sup.mode = .boot ∧ s.sup.fwOk then askMode 90 .configure false s else s

/-- CAL_TIMEOUT (R390): `cal_max` seconds after Calibrate began its conditions still fail. -/
def execCalTimeout (t : Gts) : State → Host.Outcome State Fault Refusal :=
  act t fun s =>
    if s.sup.mode = .calibrate ∧ s.sup.calFrom + s.rfld (baseSV + 0xA04) 15 0 * sec ≤ s.now then
      let s := s.raiseSv 0x82 [15 - s.sup.calBits % 16]
      askMode 90 .service false s
    else s

/-- Whether a P1 mask is set for a holm in the running structure (R168, R462). -/
def p1Mask (s : State) : Nat := ((s.recNow tyDEVICE 0).map fun b => u16 b 0xA).getD 0

/-- `pstate` of GL_MODE (R386). -/
def pstate (s : State) : Nat :=
  match s.sup.mode with
  | .standby => 2
  | .calibrate => if p1Mask s ≠ 0 then 1 else 0
  | .service => if p1Mask s ≠ 0 then 1 else 0
  | .sheltered => if p1Mask s ≠ 0 then 1 else 0
  | .reconfigure => if p1Mask s ≠ 0 then 1 else 0
  | .debug => if p1Mask s ≠ 0 then 1 else 0
  | _ => 0

end Sys2Proof.Machine
end

