-- ==== Sys2Proof/Machine/EllMem.lean ====
section
/-! DEFINITION. Ell memory and sample containers, [01]: copies, marks, hold samples, fades, and the view of slots whose
producer is delayed (R34). -/

namespace Sys2Proof.Machine

/-! ## Containers (R16, R17) -/

/-- The sample of a container, Q1.23. -/
def cVal (w : Nat) : Int := sgn 24 (w / 256)

/-- The flags of a container, bits [7:4]. -/
def cFlags (w : Nat) : Nat := w % 256 / 16 * 16

def flagP : Nat := 0x80
def flagC : Nat := 0x40
def flagS : Nat := 0x20
def flagT : Nat := 0x10

/-- A container from a sample and flags. -/
def mkC (v : Int) (flags : Nat) : Nat := wrap 24 v * 256 + flags

/-- Saturating to 24 bits: the sample and whether it saturated. -/
def sat24 (v : Int) : Int × Bool :=
  if 8388607 < v then (8388607, true) else if v < -8388608 then (-8388608, true) else (v, false)

/-- Saturating an integer to 24 bits. -/
def clamp24 (v : Int) : Int := (sat24 v).1

/-! ## Slots -/

/-- Whether a slot is a bus slot, with one copy (R12). -/
def isBus (slot : Nat) : Bool := decide (8192 ≤ slot) && decide (slot < 12288)

/-- Data Ell `n` of work that runs one Ell late (R34): its slots wait apart until their readers come to them. -/
def lateEll (n : Nat) : Nat := 2 ^ 60 + n

/-- Data Ell `n` of slots that were kept for a task that reads them one Ell late (R34). -/
def keptEll (n : Nat) : Nat := 2 ^ 61 + n

/-- The copy of a slot that holds data Ell `n` (R12). -/
def copyOf (n slot : Nat) : Nat :=
  if 2 ^ 61 ≤ n then 4 + n % 2 else if 2 ^ 60 ≤ n then 2 + n % 2 else if isBus slot then 0 else n % 2

/-- Key of a container in the table. -/
def ellKey (n slot j : Nat) : Nat := copyOf n slot * 2 ^ 17 + slot * 8 + j

/-- Key of a slot copy's mark. -/
def markKey (n slot : Nat) : Nat := copyOf n slot * 2 ^ 14 + slot

namespace State

/-- A container of Ell memory. -/
def ellGet (s : State) (n slot j : Nat) : Nat := (tget 0 s.em.words (ellKey n slot j)).toNat

/-- Writing a container: bits [3:0] are forced to zero (R17). -/
def ellPut (s : State) (n slot j w : Nat) : State :=
  { s with em := { s.em with words := tset 0 s.em.words (ellKey n slot j) (BitVec.ofNat 32 (w / 16 * 16)) } }

/-- The mark of a slot copy. -/
def ellMark (s : State) (n slot : Nat) : Nat := tget 0 s.em.mark (markKey n slot)

/-- Setting a mark. -/
def setMark (s : State) (n slot m : Nat) : State := { s with em := { s.em with mark := tset 0 s.em.mark (markKey n slot) m } }

/-- The hold sample of a slot (R180). -/
def holdOf (s : State) (slot : Nat) : Nat := (tget 0 s.em.hold slot).toNat

/-- Setting a hold sample. -/
def setHold (s : State) (slot w : Nat) : State :=
  { s with em := { s.em with hold := tset 0 s.em.hold slot (BitVec.ofNat 32 w) } }

end State

/-- Writing the six containers of a slot copy. -/
def putSlotWords (n slot : Nat) (ws : List Nat) (s : State) : State :=
  (ws.zipIdx).foldl (fun s e => s.ellPut n slot e.2 e.1) s

/-- The fade of R183 from a sample `l`. -/
def fade183 (l : Nat) : List Nat :=
  (List.range 6).map fun (j : Nat) => mkC ((cVal l * (5 - (j : Int))).tdiv 6) (flagC ||| (cFlags l &&& (flagS ||| flagT)))

/-- A slot copy is marked CONCEALED: its readers see the fade of the hold sample, which becomes zero (R183). -/
def ellConceal (n slot : Nat) (s : State) : State :=
  (((putSlotWords n slot (fade183 (s.holdOf slot)) s).setMark n slot 1)).setHold slot 0

/-- A slot copy is marked REFUSED: it reads zero with `c` (R183). -/
def ellRefuse (n slot : Nat) (s : State) : State :=
  (((putSlotWords n slot (List.replicate 6 flagC) s).setMark n slot 2)).setHold slot 0

/-! ## SLOTUSE (R44) -/

/-- The 32-bit entries of a SLOTUSE body. -/
def slotEntries (b : List Byte) : List Nat := wordsOf b

/-- Slots that a task writes. -/
def writeSlots (r : Recs) (task : Nat) : List Nat :=
  ((slotEntries ((recGet r tySLOTUSE task).getD [])).filter fun e => bit e 31).map (· % 16384)

/-- Slots that a task reads. -/
def readSlots (r : Recs) (task : Nat) : List Nat :=
  ((slotEntries ((recGet r tySLOTUSE task).getD [])).filter fun e => bit e 30).map (· % 16384)

/-- Slots that a task's loads may reach: a write entry allows reads too (R171). -/
def namedSlots (r : Recs) (task : Nat) : List Nat :=
  (slotEntries ((recGet r tySLOTUSE task).getD [])).map (· % 16384)

/-! ## Delayed slots (R34) -/

/-- Tasks delayed at data Ell `n`. -/
def delayedAt (s : State) (n : Nat) : List Nat := ((s.sup.delays.find? fun e => e.1 == n).map (·.2)).getD []

/-- Whether the producer of a slot is delayed at data Ell `n`. -/
def slotDelayed (s : State) (n slot : Nat) : Bool :=
  (delayedAt s n).any fun t => (writeSlots (s.recsAt n) t).contains slot

/-- The crossfade of R107 and R34 between a removed Ell `u` and the Ell `v` that follows it; `c` is set. -/
def joinEll (u v : List Nat) : List Nat :=
  let n := u.length
  (List.range n).map fun (i : Nat) =>
    let a := u.getD i 0
    let b := v.getD i 0
    mkC (((n - i : Nat) * cVal a + (i : Nat) * cVal b).tdiv n) (flagC ||| cFlags a ||| cFlags b)

/-- The six containers that a reader of data Ell `n` sees in a slot. A delayed producer's slots are read one Ell later;
the Ell that begins a delay is concealed where it is decided, and the Ell after its end is a join (R34). -/
def slotRead (s : State) (n slot : Nat) : List Nat :=
  let raw (k : Nat) : List Nat := (List.range 6).map fun j => s.ellGet k slot j
  if s.sup.delays.isEmpty then raw n
  else
    match slotDelayed s (n - 1) slot, slotDelayed s n slot with
    | true, true => raw (lateEll (n - 1))
    | true, false => joinEll (raw (lateEll (n - 1))) (raw n)
    | _, _ => raw n

end Sys2Proof.Machine
end

