-- ==== Sys2Proof/Machine/Ports.lean ====
section
/-! DEFINITION. The network ports, [03]: links, receive filtering and dispatch, MACsec, gates, pause and its watchdog,
transmission, low-power idle and wake; and what the Supervisor does about links and storms (R363, R381). -/

namespace Sys2Proof.Machine

/-- Register field of a port. -/
def npFld (s : State) (p off hi lo : Nat) : Nat := s.rfld (baseNP p + off) hi lo
def npRole (s : State) (p : Nat) : Nat := npFld s p 0 1 0
def tenG (s : State) (p : Nat) : Bool := bit (s.reg (baseNP p)) 2
def npMacsec (s : State) (p : Nat) : Bool := bit (s.reg (baseNP p)) 4
def mediaMask (s : State) (p : Nat) : Nat := npFld s p 0xC 31 24

/-- A port's event (R85). -/
def npEvent (p v : Nat) (d : List Nat) (s : State) : State := s.raise p (p * 256 + v) d

/-! ## Wake (R83) -/

/-- The pattern comparison; a compared byte beyond the frame fails it. `b` is the frame before its FCS. -/
def wakeHit (s : State) (p : Nat) (b : List Byte) : Bool :=
  let off := npFld s p 0x4C 10 0
  let mask := s.reg (baseNP p + 0x50) + 2 ^ 32 * s.reg (baseNP p + 0x54)
  (List.range 64).all fun i =>
    !bit mask i ||
      (decide (off + i < b.length) && byteAt b (off + i) == fld (s.reg (baseNP p + 0x80 + i / 4 * 4)) (8 * (i % 4) + 7) (8 * (i % 4)))

/-- Whether the wake-pattern detector examines a frame (R68, R83): any port in Standby, and in every powered mode a port
that is Spare or whose link is declared down. -/
def detectorOn (s : State) (p : Nat) : Bool :=
  s.sup.mode == .standby || (s.sup.mode != .off && s.sup.mode != .lockdown && (npRole s p == 0 || !(s.port p).link))

/-- The detector examines a frame. -/
def wakeDetect (p : Nat) (b : List Byte) (s : State) : State :=
  if detectorOn s p ∧ fcsOk b ∧ bit (s.reg (baseNP p + 0x4C)) 31 ∧ wakeHit s p (b.take (b.length - 4)) then
    let s := (s.updPort p fun x => { x with wake := true }).bump (baseNP p + 0x240)
    wake (npEvent p 4 [b.length] s)
  else s

/-! ## MACsec (R80, R305) -/

/-- Whether a frame stands outside MACsec: EAPOL, and PTP with `ptp_clear`. -/
def macsecFree (s : State) (p : Nat) (b : List Byte) : Bool :=
  let f := parseFrame b
  let ptp := f.etype == 0x88F7 || (isUdp f && (n16 b (f.l4 + 2) == 319 || n16 b (f.l4 + 2) == 320))
  f.etype == 0x888E || (bit (s.reg (baseNP p)) 5 && ptp)

/-- A packet number recovered from its low 32 bits (IEEE 802.1AE extended packet numbering). -/
def xpn (lowest lo : Nat) : Nat :=
  let hi := lowest / 2 ^ 32
  if 2 ^ 31 ≤ lowest % 2 ^ 32 ∧ lo < 2 ^ 31 then (hi + 1) * 2 ^ 32 + lo else hi * 2 ^ 32 + lo

/-- One use of an association's key, with the events of R301. -/
def useSa (i : Nat) (s : State) : State :=
  let a := s.sa i
  let used := a.used + 1
  let worn := cdiv (7 * a.limit) 8
  let st := if a.limit ≤ used then 4 else if worn ≤ used then 3 else 2
  let s := s.setSa i { a with used := used, st := st }
  let s := if a.st < 3 ∧ worn ≤ used then s.raise 7 0x701 [0x8000 + i, 0, satN 32 used] else s
  if a.limit ≤ used then s.raise 7 0x702 [0x8000 + i, 0] else s

/-- A frame dropped by the MACsec check: reason 0 no SecTAG, 1 association, 2 packet number, 3 ICV, 4 no key. -/
def macsecDrop (p assoc reason : Nat) (s : State) : State :=
  let first := (s.port p).macsecEll ≠ s.ell + 1
  let s := (s.updPort p fun x => { x with macsecEll := s.ell + 1 }).bump (baseNP p + 0x218)
  if first then npEvent p 6 [assoc, reason] s else s

/-- What a packet gives to the initial value of MACsec: SSCI and packet number (extended packet numbering). -/
def macsecIv (a : Sa) (pn : Nat) : List Byte := toBe 4 a.ssci ++ toBe 8 pn

/-- The secured data and ICV of a MACsec frame, behind addresses and SecTAG; a short frame names its length (IEEE 802.1AE). -/
def macsecText (b : List Byte) : List Byte :=
  let sl := byteAt b 15 % 64
  let x := b.drop 28
  if sl = 0 then x else x.take (sl + 16)

/-- The MACsec check of a received frame (without FCS): the plain frame where it passes, and the state after. -/
def macsecCheck (p : Nat) (b : List Byte) (s : State) : Option (List Byte) × State :=
  if n16 b 12 ≠ 0x88E5 ∨ ¬ bit (byteAt b 14) 5 then (none, macsecDrop p 0xFF 0 s)
  else
    let i := 8 * p + 4 + byteAt b 14 % 4
    let a := s.sa i
    let sci := beNat (slice b 20 8)
    if a.st = 0 ∨ a.sci ≠ sci then (none, macsecDrop p i 1 s)
    else if a.st = 4 then (none, macsecDrop p i 4 s)
    else
      let pn := xpn a.pn (n32 b 16)
      if pn + a.window < a.pn then (none, macsecDrop p i 2 s)
      else
        let s := (useSa i s).bump (baseCE + 0x21C)
        let k := gcmKey 1 a.key
        let iv := macsecIv a pn
        if Config.gcmOk k a.salt iv (b.take 28) (macsecText b) then
          (some (b.take 12 ++ gcmPlain k a.salt iv (b.take 28) (macsecText b)), s.setSa i { s.sa i with pn := max a.pn (pn + 1) })
        else (none, macsecDrop p i 3 s)

/-! ## Receive (R69-R71) -/

/-- The bin of a multicast address (R70). -/
def mcBin (dst : List Byte) : Nat := (crc32 dst).toNat % 4096

/-- A bin of one of the hash windows. -/
def binSet (s : State) (p win b : Nat) : Bool := bit (s.reg (baseNP p + win + 4 * (b / 32))) (b % 32)

/-- The destination filter (R70). -/
def dstOk (s : State) (p : Nat) (dst : List Byte) : Bool :=
  if dst.all (· == 0xFF) then true
  else if byteAt dst 0 % 2 = 1 then binSet s p 0x800 (mcBin dst) || binSet s p 0xA00 (mcBin dst)
  else dst == portMac s p || bit (s.reg (baseNP p)) 6

/-- The class of a received frame (R71). -/
def rxClass (s : State) (p : Nat) (f : Parsed) : Nat :=
  let cl := s.reg (baseNP p + 0xC)
  if (f.ip4 || f.ip6) && bit cl 4 then
    fld (s.reg (baseNP p + 0x14 + 4 * (f.dscp / 8))) (4 * (f.dscp % 8) + 2) (4 * (f.dscp % 8))
  else if f.tagged && bit cl 3 then fld (s.reg (baseNP p + 0x10)) (3 * f.pcp + 2) (3 * f.pcp)
  else cl % 8

/-- The queue of a field of NP_RXQ, 127 when it names none that the port may fill (R69). -/
def rxQueue (s : State) (p hi lo : Nat) : Nat :=
  let q := npFld s p 0x3C hi lo
  match qDesc s q with
  | some d => if q < 96 ∧ qProd d = p then q else 127
  | none => 127

/-- Dispatching an accepted frame (R69, step 5). A frame with a bad FCS reaches a queue only where cut-through began. -/
def dispatch (p : Nat) (b : List Byte) (wire : Nat) (ts : Gts) (s : State) : State :=
  let f := parseFrame b
  let udp := isUdp f
  let port := n16 b (f.l4 + 2)
  let ptp := f.etype == 0x88F7 || (udp && (port == 319 || port == 320))
  let media := udp && (npRole s p == 1 || npRole s p == 2)
  let q := if ptp then rxQueue s p 22 16 else if media then rxQueue s p 6 0 else rxQueue s p 14 8
  if q = 127 then s.bump (baseNP p + 0x21C)
  else
    let lat := npFld s p 0x44 15 0
    let it : Item :=
      { src := p, tclass := rxClass s p f, gts := if ptp then ts.toNat - lat else s.now, data := b }
    ((qPushNow q it s).bump (baseNP p + 0x200)).bumpBy (baseNP p + 0x204) wire

/-- A UDP frame whose FCS fails after it began to pass through a cut-through `q_media` is pushed with `err` (R116,
R129). -/
def badFcs (p : Nat) (b : List Byte) (s : State) : State :=
  let s := s.bump (baseNP p + 0x208)
  let x := b.take (b.length - 4)
  let f := parseFrame x
  let q := rxQueue s p 6 0
  match qDesc s q with
  | some d =>
    if isUdp f ∧ (npRole s p = 1 ∨ npRole s p = 2) ∧ q < 96 ∧ qCt d ≠ 0 ∧ 64 * qCt d ≤ x.length ∧ dstOk s p f.dst then
      qPushNow q { src := p, tclass := rxClass s p f, err := true, gts := s.now, data := x } s
    else s
  | none => s

/-- RX_FRAME (R68, R69, R80, R83): the frame is `bytes`, the ICV of a protected frame, and the FCS. -/
def execRxFrame (t : Gts) (p : PortId) (bytes : List Byte) (ts : Gts) (icv fcs : List Byte) :
    State → Host.Outcome State Fault Refusal :=
  act t fun s =>
    let p := p.val
    let bytes := bytes ++ icv ++ fcs
    let n := bytes.length
    if ¬ (s.port p).link ∨ npRole s p = 0 then wakeDetect p bytes s
    else if n < 64 then s.bump (baseNP p + 0x20C)
    else if npFld s p 0x40 13 0 < n then s.bump (baseNP p + 0x210)
    else if ¬ fcsOk bytes then badFcs p bytes s
    else
      let b := bytes.take (n - 4)
      match if npMacsec s p ∧ ¬ macsecFree s p b then macsecCheck p b s else (some b, s) with
      | (none, s) => s
      | (some b, s) => if dstOk s p (b.take 6) then dispatch p b n ts s else s.bump (baseNP p + 0x214)

/-! ## Pause (R77, R78) -/

/-- Whether a class is held by pause now. -/
def isPaused (s : State) (p c : Nat) : Bool := decide (s.now < tget 0 (s.port p).hold c)

/-- Whether a class is in a release window now. -/
def inRelease (s : State) (p c : Nat) : Bool := decide (s.now < tget 0 (s.port p).relEnd c)

/-- One class of a received pause frame (R77). A hold that begins at the instant at which the last one ended leaves no
instant without a hold, so the class stays continuously paused (R78). -/
def pauseClass (p : Nat) (s : State) (cq : Nat × Nat) : State :=
  let (c, q) := cq
  if ¬ bit (npFld s p 0x34 15 8) c ∨ inRelease s p c then s
  else
    let x := s.port p
    if q = 0 then
      s.setPort p { x with
        hold := tset 0 x.hold c 0, heldTo := tset 0 x.heldTo c (if isPaused s p c then s.now else tget 0 x.heldTo c) }
    else
      let stop := s.now + pauseGrains (tenG s p) q
      let from' := if tget 0 x.pausedFrom c ≠ 0 ∧ s.now ≤ tget 0 x.heldTo c then tget 0 x.pausedFrom c else s.now + 1
      s.setPort p { x with
        hold := tset 0 x.hold c stop, heldTo := tset 0 x.heldTo c stop, pausedFrom := tset 0 x.pausedFrom c from' }

/-- PAUSE_FRAME (R77). -/
def execPauseFrame (t : Gts) (p : PortId) (k : PauseKind) : State → Host.Outcome State Fault Refusal :=
  act t fun s =>
    let p := p.val
    if ¬ (s.port p).link ∨ npRole s p = 0 then s
    else
      let s := s.bump (baseNP p + 0x220)
      if ¬ bit (s.reg (baseNP p + 0x34)) 0 then s
      else
        match k with
        | .link q => ((List.range 8).map fun c => (c, q.toNat)).foldl (pauseClass p) s
        | .pfc e qs =>
          (((List.range 8).filter fun c => e.getLsbD c).map fun c => (c, ((qs.getD c 0).toNat : Nat))).foldl (pauseClass p) s

/-- PAUSE_EXPIRY (R77). -/
def execPauseExpiry (t : Gts) (p : PortId) (c : Fin 8) : State → Host.Outcome State Fault Refusal :=
  act t fun s =>
    if isPaused s p.val c.val then s
    else s.updPort p.val fun x => { x with hold := tset 0 x.hold c.val 0 }

/-- The media port other than `p`. -/
def otherMedia (s : State) (p : Nat) : Option Nat :=
  match npRole s p with
  | 1 => portOfRole s 2
  | 2 => portOfRole s 1
  | _ => none

/-- The move of a class after a storm (R381). A storm on the port that a class was moved to renews the hold. -/
def classMove (p c : Nat) (s : State) : State :=
  match otherMedia s p with
  | none => s
  | some o =>
    let holdUntil := s.now + s.rfld (baseSV + 0x814) 31 24 * sec
    if tget 0 s.sup.moved (8 * o + c) ≠ 0 then s.updSup fun u => { u with moved := tset 0 u.moved (8 * o + c) holdUntil }
    else if ¬ bit (s.reg (baseSV + 0x814)) 16 ∨ bit (mediaMask s p) c ∨ ¬ (s.port o).link
        ∨ tget 0 s.sup.moved (8 * p + c) ≠ 0 then s
    else
      (s.updSup fun u =>
        { u with moved := tset 0 u.moved (8 * p + c) holdUntil, movedAt := tset 0 u.movedAt (8 * p + c) (s.now + 1) }).raiseSv
        0x69 [c, p, o]

/-- PAUSE_STORM (R78). -/
def execPauseStorm (t : Gts) (p : PortId) (c : Fin 8) : State → Host.Outcome State Fault Refusal :=
  act t fun s =>
    let p := p.val
    let c := c.val
    let x := s.port p
    let limit := npFld s p 0x38 15 0
    let from' := tget 0 x.pausedFrom c
    if limit ≠ 0 ∧ from' ≠ 0 ∧ isPaused s p c ∧ from' - 1 + limit * 4000 ≤ s.now then
      let s := s.setPort p { x with
        hold := tset 0 x.hold c 0
        heldTo := tset 0 x.heldTo c 0
        pausedFrom := tset 0 x.pausedFrom c 0
        relEnd := tset 0 x.relEnd c (s.now + npFld s p 0x38 31 16 * 4000) }
      classMove p c (npEvent p 3 [c, s.now % 2 ^ 32, s.now / 2 ^ 32] (s.bump (baseNP p + 0x23C)))
    else s

/-- RELEASE_WINDOW_END (R78). -/
def execReleaseWindowEnd (t : Gts) (p : PortId) (c : Fin 8) : State → Host.Outcome State Fault Refusal :=
  act t fun s =>
    if inRelease s p.val c.val then s else s.updPort p.val fun x => { x with relEnd := tset 0 x.relEnd c.val 0 }

/-- CLASS_BACK (R381). -/
def execClassBack (t : Gts) (p : PortId) (c : Fin 8) : State → Host.Outcome State Fault Refusal :=
  act t fun s =>
    let k := 8 * p.val + c.val
    let g := tget 0 s.sup.moved k
    if g ≠ 0 ∧ g ≤ s.now then
      (s.updSup fun u => { u with moved := tset 0 u.moved k 0, movedAt := tset 0 u.movedAt k 0 }).raiseSv 0x6A [c.val, p.val]
    else s

/-! ## Gates (R73-R76) -/

/-- Fields of a GATE body (R73). -/
def gCycle (b : List Byte) : Nat := byteAt b 0 % 32 + 1
def gEntries (b : List Byte) : Nat := u16 b 2
def gOpen (b : List Byte) (i : Nat) : Nat := byteAt b (16 + 8 * i)
def gInterval (b : List Byte) (i : Nat) : Nat := u32 b (20 + 8 * i)

/-- Layout of a GATE body (R73, R461). -/
def formGATE (b : List Byte) : Bool :=
  decide (16 ≤ b.length) && b.length == 16 + 8 * gEntries b && allZero (slice b 4 12) &&
    (List.range (gEntries b)).all fun i => allZero (slice b (16 + 8 * i + 1) 3)

/-- Gate states of one instant: the open classes, the entry, and the end of its interval; none is unbounded. -/
structure GateNow where
  mask : Nat
  entry : Nat
  until' : Option Nat
  deriving DecidableEq, Repr

/-- Walking the entries of a cycle: `e` grains after its start, in a cycle that ends at `stop`. -/
def gateWalk (b : List Byte) (e start stop : Nat) : List Nat → Nat → Nat × Nat → GateNow
  | [], _, last => { mask := last.1, entry := last.2, until' := some stop }
  | i :: r, acc, last =>
    let d := gInterval b i
    if d = 0 then gateWalk b e start stop r acc last
    else if e < acc + d then { mask := gOpen b i, entry := i, until' := some (min stop (start + acc + d)) }
    else gateWalk b e start stop r (acc + d) (gOpen b i, i)

/-- The gate states of a list at a GTS; a list whose intervals are all zero keeps every gate open. -/
def gateOf (s : State) (b : List Byte) (g : Nat) : GateNow :=
  if gEntries b = 0 then { mask := 0xFF, entry := 0, until' := none }
  else
    let m := gCycle b
    let n := s.ellOf g
    let k := n - (n + m - byteAt b 1 % m) % m
    gateWalk b (g - s.startOf k) (s.startOf k) (s.startOf (k + m)) (List.range (gEntries b)) 0 (0xFF, 0)

/-- The list in force at a GTS, and the instant at which the next one cuts it (R76). -/
def gclAt (cur : List Byte) (g : Nat) : List (Nat × List Byte) → List Byte × Option Nat
  | [] => (cur, none)
  | (at', b) :: r => if at' ≤ g then gclAt b g r else (cur, some at')

/-- The gate states of a port at a GTS, over every change of list (R76). -/
def gateAt (s : State) (p g : Nat) : GateNow :=
  let (b, cut) := gclAt (s.port p).gcl g (s.port p).gclNext
  let x := gateOf s b g
  match cut with
  | none => x
  | some at' => { x with until' := some (min at' (x.until'.getD at')) }

/-- Whether a class's gate is open throughout [cur, stop). -/
def gateSpan (s : State) (p c stop : Nat) : Nat → Nat → Bool
  | 0, _ => false
  | fuel + 1, cur =>
    if stop ≤ cur then true
    else
      let x := gateAt s p cur
      if ¬ bit x.mask c then false
      else
        match x.until' with
        | none => true
        | some u => if u ≤ cur then false else gateSpan s p c stop fuel u

/-- Whether a frame of class `c` that takes `T` grains may start now (R75). -/
def gateFits (s : State) (p c T : Nat) : Bool := gateSpan s p c (s.now + T) (T + 1) s.now

/-- The first cycle start of a list at or after an instant (R76). -/
def cycleFrom (s : State) (b : List Byte) (g : Nat) : Nat :=
  let m := gCycle b
  let n := s.ellOf (g + 499999)
  let k := n + (byteAt b 1 % m + m - n % m) % m
  s.startOf k

/-- A list is to follow the one in force: from the new list's first cycle start from `g` on, or, where the GATE record is
removed, the empty list from `g` on (R76). A change that would come later is dropped. -/
def setGate (p : Nat) (b : Option (List Byte)) (g : Nat) (s : State) : State :=
  let at' := (b.map fun b => cycleFrom s b g).getD g
  s.updPort p fun x => { x with gclNext := x.gclNext.filter (fun e => decide (e.1 < at')) ++ [(at', b.getD [])] }

/-- List changes that are due. -/
def gateSettle (p : Nat) (s : State) : State :=
  if (s.port p).gclNext.isEmpty then s
  else s.updPort p fun x =>
    { x with gcl := (gclAt x.gcl s.now x.gclNext).1, gclNext := x.gclNext.filter fun e => decide (s.now < e.1) }

/-- GATE_ENTRY (R74, R76): the states follow from the list and time; a new list comes into force when it is due. -/
def execGateEntry (t : Gts) (p : PortId) : State → Host.Outcome State Fault Refusal := act t (gateSettle p.val)

/-! ## Transmission (R72, R75, R80, R81) -/

/-- An item popped from an egress queue waits for its class. A class that was moved takes the other port, from the items
requested after the move on (R381). -/
def offer (p : Nat) (it : Item) (s : State) : State :=
  let f : TxFrame := { bytes := it.data, tclass := it.tclass, stomp := it.err, dp := if it.src = 4 then some it.aux else none }
  let at' := tget 0 s.sup.movedAt (8 * p + it.tclass)
  let dest := if it.src = 13 ∧ at' ≠ 0 ∧ at' - 1 ≤ it.gts then (otherMedia s p).getD p else p
  s.updPort dest fun x => { x with txq := tupd [] x.txq it.tclass (· ++ [f]) }

/-- Every complete item of a queue is popped by the port. -/
def drainQueue (p q : Nat) : Nat → State → State
  | 0, s => s
  | fuel + 1, s =>
    match qPopNow p q s with
    | (none, s) => s
    | (some it, s) => drainQueue p q fuel (offer p it s)

/-- Every complete item of the queues that the port consumes is popped, in ascending queue number. -/
def drainPort (p : Nat) (s : State) : State :=
  (recsOf s.cfg.recs tyQUEUE).foldl
    (fun s e =>
      if qCons e.2 = p then
        let x := s.queue e.1
        drainQueue p e.1 (x.out.length + qDepth e.2 x) s
      else s) s

/-- Frames of a dead link are discarded (R68). -/
def discardAll (p : Nat) (s : State) : State :=
  let s := drainPort p s
  let x := s.port p
  let n := (x.txq.map fun e => e.2.length).sum
  (s.setPort p { x with txq := [] }).bumpBy (baseNP p + 0x230) n

/-- Bytes on the wire (R75): padded to the least frame, with SecTAG, ICV and FCS. A short frame is padded to 60 bytes as it
leaves its queue, and the 32 bytes of MACsec are added to that length (DESIGN CHOICE, log 6). -/
def wireLen (s : State) (p : Nat) (b : List Byte) : Nat :=
  max 60 b.length + 4 + (if npMacsec s p ∧ ¬ macsecFree s p b then 32 else 0)

/-- Grains that L bytes take (R75). -/
def txGrains (tenG : Bool) (n : Nat) : Nat := if tenG then cdiv (n * 32) 10 else cdiv (n * 128) 100

/-- The association on which a port transmits (R305): the current one, or the next AN when it is spent. -/
def txSa (s : State) (p : Nat) : Option (Nat × Bool) :=
  match tget 0 s.ce.txAn p with
  | 0 => none
  | i + 1 =>
    let st := (s.sa (8 * p + i % 4)).st
    let nx := (i + 1) % 4
    if 1 ≤ st ∧ st ≤ 3 then some (i % 4, false)
    else if st = 4 ∧ (s.sa (8 * p + nx)).st = 1 then some (nx, true)
    else none

/-- Protecting a frame on transmit: SecTAG, secured data and ICV (R80, log 5). -/
def macsecSeal (p : Nat) (b : List Byte) (s : State) : Option (List Byte × State) :=
  match txSa s p with
  | none => none
  | some (an, change) =>
    let i := 8 * p + an
    let pn := (s.sa i).pn
    let s := if change then
        ((s.updCe fun e => { e with txAn := tset 0 e.txAn p (an + 1) }).raise 7 0x703 ([0x8000 + i, an] ++ lohi pn)).bump (baseCE + 0x214)
      else s
    let s := (useSa i s).bump (baseCE + 0x218)
    let a := s.sa i
    let s := s.setSa i { a with pn := pn + 1 }
    let tag := toBe 2 0x88E5 ++ [BitVec.ofNat 8 (0x2C + an), BitVec.ofNat 8 (if b.length < 60 then b.length - 12 else 0)]
      ++ toBe 4 pn ++ toBe 8 a.sci
    some (b.take 12 ++ tag ++ gcmSeal (gcmKey 1 a.key) a.salt (macsecIv a pn) (b.take 12 ++ tag) (b.drop 12), s)

/-- The head frame of a class. -/
def headOf (s : State) (p c : Nat) : Option TxFrame := (tget [] (s.port p).txq c).head?

/-- Removing or replacing the head frame of a class. -/
def popHead (p c : Nat) (s : State) : State := s.updPort p fun x => { x with txq := tupd [] x.txq c List.tail }

/-- Whether a waiting frame is deferred now: by its gate (R75), or, on the Direct Path, by a frame on the wire (R24). -/
def deferred (s : State) (p c : Nat) (f : TxFrame) : Bool :=
  !gateFits s p c (txGrains (tenG s p) (wireLen s p f.bytes + 8)) || (f.dp.isSome && decide (s.now < (s.port p).txEnd))

/-- Frames of a class that are deferred are counted, each once, the head frame and those queued behind it (R24, R75). -/
def countWait (p c : Nat) (s : State) : State :=
  let l := tget [] (s.port p).txq c
  let hit (f : TxFrame) : Bool := !f.waited && deferred s p c f
  let n := (l.filter hit).length
  if n = 0 then s
  else
    (s.updPort p fun x => { x with txq := tset [] x.txq c (l.map fun f => if hit f then { f with waited := true } else f) }).bumpBy
      (baseNP p + 0x238) n

/-- The class that starts: the highest whose head frame is admitted (R72, R75, R77). -/
def pickClass (s : State) (p : Nat) : Option (Nat × TxFrame) :=
  [7, 6, 5, 4, 3, 2, 1, 0].findSome? fun c =>
    match headOf s p c with
    | none => none
    | some f =>
      if isPaused s p c ∨ ¬ gateFits s p c (txGrains (tenG s p) (wireLen s p f.bytes + 8)) then none else some (c, f)

/-- A frame starts. -/
def startFrame (p : Nat) (f : TxFrame) (bytes : List Byte) (len : Nat) (s : State) : State :=
  let stop := s.now + txGrains (tenG s p) (len + 8)
  let padded := bytes ++ List.replicate (len - 4 - bytes.length) 0
  let s := s.updPort p fun x =>
    { x with txCur := some f, txEnd := stop, txReady := stop + txGrains (tenG s p) 12, idleFrom := stop,
             wire := some { f with bytes := withFcs padded f.stomp } }
  let s := (s.bump (baseNP p + 0x224)).bumpBy (baseNP p + 0x228) len
  let s := if f.dp.isSome then s.bump (baseSE + 0x224) else s
  if f.stomp then
    let s := if f.dp.isSome then s.bump (baseSE + 0x228) else s
    npEvent p 5 [f.dp.getD 0xFFFF] (s.bump (baseNP p + 0x234))
  else s

/-- Offset of the PTP header of a frame: in its own EtherType, or behind UDP destination port 319 or 320 (R69). -/
def ptpAt (b : List Byte) : Option Nat :=
  let f := parseFrame b
  if f.etype = 0x88F7 then some f.l3
  else if isUdp f ∧ (n16 b (f.l4 + 2) = 319 ∨ n16 b (f.l4 + 2) = 320) then some (f.l4 + 8)
  else none

/-- The UDP checksum of a frame whose datagram has changed: none over IPv4, computed over IPv6 (log 6). -/
def udpFix (b : List Byte) : List Byte :=
  let f := parseFrame b
  if ¬ isUdp f then b
  else
    let z := b.take (f.l4 + 6) ++ [0, 0] ++ b.drop (f.l4 + 8)
    let c := 0xFFFF - fold16 (udpSum z f)
    if f.ip4 then z else b.take (f.l4 + 6) ++ toBe 2 (if c = 0 then 0xFFFF else c) ++ b.drop (f.l4 + 8)

/-- One-step operation (R81): into a Sync message of a master-side instance that runs one-step, the port writes the correction
that makes the origin timestamp and the correction field name the egress time at the ball. The fields are those of IEEE
1588-2019: flags at 6, correction field (2^-16 ns) at 8, origin timestamp at 34 (PRESUMED, log 6). -/
def oneStep (s : State) (p : Nat) (b : List Byte) : List Byte :=
  let r := npRole s p
  let master := (r == 1 || r == 2) && ((ptpRec s (r - 1)).any fun c => ptpRole c == 2 && !bit (ptpOpts c) 0)
  match ptpAt b with
  | none => b
  | some o =>
    if master ∧ byteAt b o % 16 = 0 ∧ ¬ bit (byteAt b (o + 6)) 1 ∧ o + 44 ≤ b.length then
      let out := s.mediaOf (s.now + txGrains (tenG s p) 8 + npFld s p 0x44 31 16)
      let origin : Int := beNat (slice b (o + 34) 6) * sec + beNat (slice b (o + 40) 4) * 4
      let corr := sgn 64 (beNat (slice b (o + 8) 8)) + (out - origin) * 16384
      udpFix (b.take (o + 8) ++ toBe 8 (wrap 64 corr) ++ b.drop (o + 16))
    else b

/-- A frame leaves its class and starts, protected where MACsec asks for it; without a usable association it is discarded (R80,
R305). -/
def launch (p : Nat) (f : TxFrame) (s : State) : State :=
  let len := wireLen s p f.bytes
  if npMacsec s p ∧ ¬ macsecFree s p f.bytes then
    match macsecSeal p f.bytes s with
    | some (b, s) => startFrame p f b len s
    | none => s.bump (baseCE + 0x220)
  else startFrame p f (oneStep s p f.bytes) len s

/-- What a port does before it may start a frame: items are popped, a list that is due comes into force, waits are counted. -/
def prepared (p : Nat) (s : State) : State :=
  [7, 6, 5, 4, 3, 2, 1, 0].foldl (fun s c => countWait p c s) (gateSettle p (drainPort p s))

/-- Modes in which a port sends nothing (R386, R398, R401). -/
def txMute (m : Mode) : Bool := m == .off || m == .standby || m == .recovery || m == .lockdown || m == .test

/-- TX_START (R72, R75, R77, R80, R82). -/
def execTxStart (t : Gts) (p : PortId) : State → Host.Outcome State Fault Refusal :=
  act t fun s =>
    let p := p.val
    if ¬ (s.port p).link then discardAll p s
    else if txMute s.sup.mode ∨ npRole s p = 0 then s
    else
      let s := prepared p s
      let x := s.port p
      if s.now < x.txEnd ∨ s.now < x.txReady then s
      else
        let s := s.setPort p { x with txCur := none }
        match pickClass s p with
        | none => s
        | some (c, f) =>
          if x.lpiTx then leaveLpi p s
          else launch p f (popHead p c s)

/-! ## Low-power idle (R82) -/

/-- LPI_ENTRY: only while `eee_en` is set and the link partner supports low-power idle. -/
def execLpiEntry (t : Gts) (p : PortId) : State → Host.Outcome State Fault Refusal :=
  act t fun s =>
    let p := p.val
    let s := if (s.port p).link then drainPort p s else s
    let x := s.port p
    if lpiMode s.sup.mode ∧ x.link ∧ ¬ x.lpiTx ∧ x.eeePartner ∧ bit (s.reg (baseNP p + 0x48)) 0 ∧ x.txq.isEmpty
        ∧ x.idleFrom + npFld s p 0x48 15 4 * 4000 ≤ s.now then
      (s.setPort p { x with lpiTx := true, txCur := none }).bump (baseNP p + 0x244)
    else s

/-- LOW_POWER_IDLE_FROM_PARTNER: accepted in every mode. -/
def execLowPowerIdleFromPartner (t : Gts) (p : PortId) (enter : Bool) : State → Host.Outcome State Fault Refusal :=
  act t fun s => s.updPort p.val fun x => { x with lpiRx := enter }

/-! ## Links and networks (R68, R131, R363) -/

/-- The receive streams of the running structure with a leg on a network: 0 Red, 1 Blue. -/
def legStreams (s : State) (net : Nat) : List Nat :=
  (recsOf s.cfg.recs tyRX).filterMap fun e => if bit (u32 e.2 0) (27 - net) then some e.1 else none

/-- Whether a leg has been declared lost (R96). -/
def legGone (s : State) (net i : Nat) : Bool := if net = 0 then (s.rx i).redLostAt != 0 else (s.rx i).blueLostAt != 0

/-- A media network is lost now: declared, or its port has no link (R363, R390). -/
def netDown (s : State) (net : Nat) : Bool :=
  match portOfRole s (net + 1) with
  | none => false
  | some p => bit s.sup.netLost net || !(s.port p).link

/-- NET_LOST is declared (R363); the PTP instance of the network, when it was the reference, is left. -/
def declareLost (net : Nat) (s : State) : State :=
  if bit s.sup.netLost net then s
  else
    let s := s.updSup fun u => { u with netLost := u.netLost ||| 2 ^ net }
    let s := (s.raiseSv 0x4A [net]).bump (baseSV + 0x724)
    if s.tb.ref = some net then refLost s else s

/-- NET_BACK is declared when the link is up and a leg is back, or the network carries no receive stream (R363). -/
def tryNetBack (net : Nat) (s : State) : State :=
  match portOfRole s (net + 1) with
  | none => s
  | some p =>
    let legs := legStreams s net
    if bit s.sup.netLost net ∧ (s.port p).link ∧ (legs.isEmpty ∨ legs.any fun i => !legGone s net i) then
      (s.updSup fun u =>
        { u with netLost := u.netLost ^^^ (u.netLost &&& 2 ^ net), netBackAt := tset 0 u.netBackAt net (s.now + 1) }).raiseSv
        0x4B [net]
    else s

/-- Cause codes of LINK_DOWN. -/
def linkCode : LinkFault → Nat | .blockLock => 0 | .localFault => 1 | .remoteFault => 2

/-- A link goes down: queued frames are discarded, egress queues boundary-flushed, the PTP port state is FAULTY, and a
media network is lost. -/
def takeDown (p cause : Nat) (s : State) : State :=
  if ¬ (s.port p).link then s
  else
    let s := s.updPort p fun x => { x with link := false, fecLock := false, lpiTx := false, lpiRx := false, txCur := none }
    let s := npEvent p 1 [cause] (s.bump (baseNP p + 0x250))
    let s := discardAll p s
    let s := (recsOf s.cfg.recs tyQUEUE).foldl (fun s e => if qCons e.2 = p then qFlushLater e.1 e.2 s else s) s
    let r := npRole s p
    if r = 1 ∨ r = 2 then
      let s := declareLost (r - 1) s
      if (ptpRec s (r - 1)).isSome then setPstate (r - 1) 2 s else s
    else s

/-- LINK_DOWN (R68). -/
def execLinkDown (t : Gts) (p : PortId) (cause : LinkFault) : State → Host.Outcome State Fault Refusal :=
  act t (takeDown p.val (linkCode cause))

/-- LINK_UP (R68): never on a Spare port, nor in Standby, Off or Lockdown. `eee` is what training has told of the partner
(R82). -/
def execLinkUp (t : Gts) (p : LinkEnd) : State → Host.Outcome State Fault Refusal :=
  act t fun s =>
    let eee := p.eee
    let p := p.port.val
    let r := npRole s p
    let m := s.sup.mode
    if (s.port p).link ∨ r = 0 ∨ m = .standby ∨ m = .off ∨ m = .lockdown then s
    else
      let s := discardAll p s
      let fec := bit (s.reg (baseNP p)) 3 && !tenG s p
      let s := s.updPort p fun x => { x with link := true, fecLock := fec, eeePartner := eee, idleFrom := s.now, txEnd := s.now, txReady := s.now }
      let s := npEvent p 2 [b2n (tenG s p), b2n fec] s
      if r = 1 ∨ r = 2 then
        let s := if (s.inst (r - 1)).pstate = 2 then setPstate (r - 1) 4 s else s
        tryNetBack (r - 1) s
      else s

/-- NET_LOST (R363): every receive leg of a network has been lost for 1 s. -/
def execNetLost (t : Gts) (net : Leg) : State → Host.Outcome State Fault Refusal :=
  act t fun s =>
    let n := if net = .red then 0 else 1
    let legs := legStreams s n
    let old (i : Nat) : Bool :=
      let g := if n = 0 then (s.rx i).redLostAt else (s.rx i).blueLostAt
      g != 0 && decide (g - 1 + sec ≤ s.now)
    match portOfRole s (n + 1) with
    | none => s
    | some p => if (¬ legs.isEmpty ∧ legs.all old) ∨ ¬ (s.port p).link then declareLost n s else s

/-! ## What the registers show (R86) -/

/-- NP_STATUS. -/
def npStatus (s : State) (p : Nat) : Nat :=
  let x := s.port p
  let mask (f : Nat → Bool) : Nat := ((List.range 8).map fun c => b2n (f c) * 2 ^ c).sum
  mask (isPaused s p) * 2 ^ 24 + mask (inRelease s p) * 2 ^ 16 + b2n x.wake * 16 + b2n x.lpiRx * 8 + b2n x.lpiTx * 4
    + b2n x.fecLock * 2 + b2n x.link

/-- The list in force at a port. -/
def gclNow (s : State) (p : Nat) : List Byte := (gclAt (s.port p).gcl s.now (s.port p).gclNext).1

/-- NP_GCL_STATE: its reset value until a structure is built. -/
def npGclState (s : State) (p : Nat) : Nat :=
  if ¬ s.cfg.built then 0 else
  let b := gclNow s p
  let x := gateAt s p s.now
  x.mask * 2 ^ 24 + x.entry * 2 ^ 16 + (gEntries b - 1) * 2 ^ 8 + b2n (gEntries b = 0) * 2 ^ 7 + byteAt b 0 % 32

/-- NP_GCL. -/
def npGcl (s : State) (p o : Nat) : Nat :=
  let b := gclNow s p
  let i := o / 8
  if i < gEntries b then (if o % 8 = 0 then gOpen b i else gInterval b i) else 0

end Sys2Proof.Machine
end

