-- ==== Sys2Proof/Machine/Streams.lean ====
section
/-! DEFINITION. The Stream Engine, [04]: matching and merging of copies, Stream memory, cut-off, playout and concealment,
depth adaptation, the packetiser, and the Direct Path. -/

namespace Sys2Proof.Machine

/-! ## Receive entries (R88, R89) -/

def rxCtl (b : List Byte) : Nat := u32 b 0
def rxFirst (b : List Byte) : Nat := u16 b 4
def rxPt (b : List Byte) : Nat := byteAt b 6 % 128
def rxFade (b : List Byte) : Nat := byteAt b 7
def rxTsOff (b : List Byte) : Nat := u32 b 0xC
def jbMin (b : List Byte) : Nat := u16 b 0x10
def jbMax (b : List Byte) : Nat := u16 b 0x12
def jbInit (b : List Byte) : Nat := u16 b 0x14
def skewMax (b : List Byte) : Nat := u16 b 0x16
def rxCeCtx (b : List Byte) : Nat := u16 b 0x1A
def rxCzCtx (b : List Byte) : Nat := u16 b 0x1C
def rxPlay (b : List Byte) : Bool := bit (rxCtl b) 28
def rxSrtp (b : List Byte) : Bool := rxCeCtx b != 0xFFFF
def rxDst (b : List Byte) (net : Nat) : List Byte := slice b (if net = 0 then 0x20 else 0x30) 16

/-- Samples per channel in a packet (R92). -/
def pktSamples (ctl : Nat) : Nat := perEll ctl * ptimeElls ctl

/-- Sample width on the wire. -/
def widthOf (ctl : Nat) : Nat := if fmtOf ctl = 0 then 2 else 3

/-- Containers in a ring (R97). -/
def ringLen (b : List Byte) : Nat := 512 * cdiv (perEll (rxCtl b) * (jbMax b + ptimeElls (rxCtl b) + 1)) 512

/-- The receive entry that serves the copies that arrive now (R59). -/
def rxEntry (s : State) (i : Nat) : Option (List Byte) := s.recAt s.soon tyRX i

/-- Counter j of receive stream i (R119). -/
def rxCtr (i j : Nat) : Nat := baseSE + 0x4000 + 48 * i + 8 * j

/-- Layout of an RXSTREAM body (R88, R89, R461). -/
def formRX (b : List Byte) : Bool :=
  let c := rxCtl b
  b.length == 64 && fld c 11 0 == 0 && bit c 31 && fld c 30 29 != 3 && fmtOf c != 3 && decide (fld c 15 13 < 5)
    && decide (byteAt b 6 < 128) && u16 b 0x1E == 0
    && (bit c 25 || (allZero (slice b 0x20 12) && allZero (slice b 0x30 12)))

/-- Ranges of R88 that concern one body, and R90's first rules. -/
def limitRX (b : List Byte) : Bool :=
  let c := rxCtl b
  (bit c 27 || bit c 26) && decide (1 ≤ rxFade b) && decide (rxFade b ≤ 64) && decide (1 ≤ jbMin b) && decide (jbMin b ≤ 800)
    && decide (jbMin b ≤ jbMax b) && decide (jbMax b ≤ 800) && decide (jbMin b ≤ jbInit b) && decide (jbInit b ≤ jbMax b)
    && decide (skewMax b ≤ 1200)
    && (if rxPlay b then decide (rxFirst b + fld c 21 16 * (if rate96 c then 2 else 1) + (if rate96 c then 1 else 0) < 4096)
          && !(rate96 c && rxFirst b % 2 == 1)
        else rxFirst b == 0xFFFF)
    && (if fmtOf c = 2 then rxCzCtx b != 0xFFFF else rxCzCtx b == 0xFFFF)

/-! ## Time placement (R93, R99) -/

/-- Media sample count at a media time. -/
def mediaSamples (media : Int) (hi : Bool) : Int := media * (if hi then 12 else 6) / 500000

/-- The sample index of a packet (R93): the congruent integer nearest to `m`, the lower of two. -/
def sampleIndex (m : Int) (ts off : Nat) : Int :=
  let d := ((ts : Int) - off - m) % (2 ^ 32 : Nat)
  if d < (2 ^ 31 : Nat) then m + d else m + d - (2 ^ 32 : Nat)

/-- C_n as media time. -/
def cutOffOf (n : Int) : Int := n * 500000 - 540000

/-- The Ell whose playout instant is current at a media time (R99). -/
def currentEll (media : Int) : Int := (media + 540000) / 500000 + 1

/-- Playout offset in force for arrivals: `jb_init` before the stream starts. -/
def offsetOf (b : List Byte) (r : RxStream) : Nat := (if r.ofs = 0 then jbInit b else r.ofs) + r.heldElls

/-- Data Ell in which a sample is played (R99). -/
def playsIn (b : List Byte) (r : RxStream) (idx : Int) : Int := idx / (perEll (rxCtl b) : Int) + (offsetOf b r : Int)

/-! ## Stream memory (R92, R97) -/

/-- Key of a ring position. -/
def ringKey (b : List Byte) (ch : Nat) (idx : Int) : Nat := ch * 2 ^ 20 + (idx % (ringLen b : Nat)).toNat

/-- Container of a sample's bytes (R92). -/
def contOf (w : Nat) (bs : List Byte) : Word := BitVec.ofNat 32 (beNat bs * (if w = 2 then 65536 else 256))

/-- Width of the bytes of a copy's payload. -/
def copyWidth (b : List Byte) (cp : Copy) : Nat := if cp.decoded then 3 else widthOf (rxCtl b)

/-- A copy's containers with their channels and sample indices, channel by channel within each sample. -/
def copyConts (b : List Byte) (cp : Copy) : List (Nat × Int × Word) :=
  let c := chOf (rxCtl b)
  let w := copyWidth b cp
  (List.range (pktSamples (rxCtl b))).flatMap fun (j : Nat) =>
    (List.range c).map fun (i : Nat) => (i, cp.first + (j : Int), contOf w (slice cp.payload ((j * c + i) * w) w))

/-- Writing a copy's samples with `p` as given, but for Ells whose cut-off had passed when it was parsed (R97, R99). What stood
at those ring positions is overwritten, whatever the tag check finds (R98). -/
def placeWith (p : Word) (b : List Byte) (cp : Copy) (s : State) : State :=
  let r := s.rx cp.stream
  let cur := currentEll (s.mediaOf cp.gts)
  let ring := (copyConts b cp).foldl
    (fun t e =>
      let (ch, idx, w) := e
      if playsIn b r idx < cur then t else tset {} t (ringKey b ch idx) { idx := idx, seq := cp.seq, w := w ||| p }) r.ring
  s.setRx cp.stream { r with ring := ring }

/-- Samples enter Stream memory, clear of `p` or, while their tag is being checked, with it. -/
def placeCopy (b : List Byte) (cp : Copy) (s : State) : State := placeWith 0 b cp s
def placePending (b : List Byte) (cp : Copy) (s : State) : State := placeWith (BitVec.ofNat 32 flagP) b cp s

/-- `p` is cleared on every container of an authenticated copy in one action (R98). -/
def clearPending (b : List Byte) (cp : Copy) (s : State) : State :=
  let r := s.rx cp.stream
  let ring := (copyConts b cp).foldl
    (fun t e =>
      let k := ringKey b e.1 e.2.1
      let h := tget {} t k
      if h.idx = e.2.1 ∧ h.seq = cp.seq then tset {} t k { h with w := h.w &&& ~~~(BitVec.ofNat 32 flagP) } else t) r.ring
  s.setRx cp.stream { r with ring := ring }

/-- A stored container that may be played: `p` is clear, and its record is USED and still its own (R100). -/
def heldAt (b : List Byte) (r : RxStream) (ch : Nat) (idx : Int) : Option Nat :=
  let h := tget {} r.ring (ringKey b ch idx)
  let m := tget {} r.merge (h.seq % 2048)
  if h.idx = idx ∧ m.st = 2 ∧ m.seq = h.seq ∧ m.first ≤ idx ∧ ¬ bit h.w.toNat 7 then some h.w.toNat else none

/-! ## Measurements of adaptation (R102) -/

/-- An authenticated copy takes part in `hmin` or `worst`: a plain one where it is parsed, whatever becomes of it, an SRTP one
where its tag verifies. -/
def noteHeadroom (b : List Byte) (cp : Copy) (s : State) : State :=
  let r := s.rx cp.stream
  let room := cutOffOf (playsIn b r cp.first) - s.mediaOf cp.gts
  if 0 < room then
    s.setRx cp.stream { r with hmin := some (match r.hmin with | some h => min h room.toNat | none => room.toNat) }
  else s.setRx cp.stream { r with worst := max r.worst (-room).toNat }

/-! ## Verdicts (R95, R98) -/

/-- A record becomes USED. -/
def markUsed (cp : Copy) (s : State) : State :=
  let s := updMerge cp.stream cp.seq (fun m => { m with st := 2 }) s
  let r := s.rx cp.stream
  s.setRx cp.stream { r with gotUsed := true, lastSeq := cp.seq, lastTs := cp.ts, lastFirst := cp.first }

/-- AUTH_FAIL (R98): counted, and logged for the first failure of the stream in each Ell. -/
def authFail (cp : Copy) (s : State) : State :=
  let s := s.bump (rxCtr cp.stream 5)
  let r := s.rx cp.stream
  let s' := s.setRx cp.stream { r with authEll := s.ell + 1 }
  if r.authEll = s.ell + 1 then s' else s'.raise 4 0x406 [cp.stream, cp.leg, cp.seq]

/-- A mismatch or failed compare enters the period's sums (R364). -/
def noteMismatch (leg : Nat) (s : State) : State :=
  s.updSup fun u =>
    { u with mmSum := u.mmSum + 1, mmRed := u.mmRed + b2n (leg = 0), mmBlue := u.mmBlue + b2n (leg ≠ 0) }

/-- Offset of the first byte in which a copy differs from the containers held; none when it does not (R95). -/
def firstDiff (b : List Byte) (r : RxStream) (cp : Copy) : Option Nat :=
  let w := copyWidth b cp
  ((copyConts b cp).zipIdx).findSome? fun e =>
    let ((ch, idx, c), k) := e
    let h := tget {} r.ring (ringKey b ch idx)
    if h.idx ≠ idx ∨ h.w = c then none
    else
      let x := toBe 4 h.w.toNat
      let y := toBe 4 c.toNat
      some (k * w + (((List.range w).find? fun j => x.getD j 0 != y.getD j 0).getD 0))

/-- The comparison of a twin copy (R95). The offset of a Dalow mismatch counts the bytes of the decoded samples, 3 bytes each; a
difference of the payload length alone is reported as offset 0 (DESIGN CHOICE, log 16). -/
def compareCopy (b : List Byte) (cp : Copy) (s : State) : State :=
  let r := s.rx cp.stream
  let m := tget {} r.merge (cp.seq % 2048)
  let off : Option Nat :=
    if m.ts ≠ cp.ts ∨ m.m ≠ cp.m then some 0xFFFF
    else match firstDiff b r cp with
      | some o => some o
      | none => if m.len ≠ cp.len then some 0 else none
  match off with
  | none => s
  | some o =>
    (noteMismatch cp.leg (s.bump (rxCtr cp.stream 4))).raise 4 0x405 [cp.stream, cp.seq, o, m.leg * 256 + cp.leg]

/-! ## The Direct Path (R114-R116) -/

/-- DIRECT entries that forward a stream. -/
def directOf (s : State) (stream : Nat) : List (Nat × List Byte) :=
  (recsOf (s.recsAt s.soon) tyDIRECT).filter fun e => u16 e.2 0 == stream

/-- The RTP packet that an entry sends (R25, R114). -/
def rewriteRtp (e rtp : List Byte) : List Byte :=
  let rw := byteAt e 0xC
  let b1 := byteAt rtp 1
  let b1 := if bit rw 1 then b1 / 128 * 128 + byteAt e 0xD % 128 else b1
  let ts := n32 rtp 4 + (if bit rw 2 then u32 e 0x14 else 0)
  let ssrc := if bit rw 0 then u32 e 0x10 else n32 rtp 8
  rtp.take 1 ++ [BitVec.ofNat 8 b1] ++ slice rtp 2 2 ++ toBe 4 ts ++ toBe 4 ssrc ++ rtp.drop 12

/-- The frame of an entry on one network. -/
def directFrame (s : State) (b e rtp : List Byte) (net p : Nat) : List Byte :=
  let v6 := bit (rxCtl b) 25
  let dst := slice e (if net = 0 then 0x20 else 0x30) 16
  udpFrame
    { ipv6 := v6, srcMac := portMac s p, dstMac := macFor v6 dst (nextHop s net), vlan := u16 e 4,
      dscp := byteAt e 6 % 64, ttl := byteAt e 7, src := netSrc s net v6, dst := dst, sport := u16 e 8, dport := u16 e 0xA }
    (rewriteRtp e rtp)

/-- Whether a frame that ended with an error had begun its transmission: the egress port is no faster than the ingress port, so
that the frame is cut through, and nothing held it (R115, R116). -/
def mayBegin (s : State) (leg p : Nat) (f : TxFrame) : Bool :=
  let x := s.port p
  let slow := !((portOfRole s (leg + 1)).any (tenG s)) || tenG s p
  slow && x.link && !txMute s.sup.mode && decide (x.txEnd ≤ s.now) && decide (x.txReady ≤ s.now) && !x.lpiTx && !isPaused s p f.tclass
    && gateFits s p f.tclass (txGrains (tenG s p) (wireLen s p f.bytes + 8))

/-- One entry sends on one network. A frame that arrived with an error is stomped where its transmission had begun, and never
started otherwise. -/
def directSend (b rtp : List Byte) (stream seq leg : Nat) (stomp : Bool) (net : Nat) (s : State) (e : Nat × List Byte) : State :=
  match portOfRole s (net + 1) with
  | none => s
  | some p =>
    if ¬ bit (byteAt e.2 2) net then s
    else
      let f : TxFrame :=
        { bytes := directFrame s b e.2 rtp net p, tclass := byteAt e.2 3 % 8, dp := some e.1, stomp := stomp,
          key := some (stream, seq) }
      if ¬ stomp then s.updPort p fun x => { x with txq := tupd [] x.txq f.tclass (· ++ [f]) }
      else if mayBegin s leg p f then launch p f s
      else s

/-- Forwarding a packet by every entry of its stream, where the mode sends media (R389). -/
def directForward (b : List Byte) (cp : Copy) (stomp : Bool) (s : State) : State :=
  if s.mediaOn then
    let es := directOf s cp.stream
    let send := directSend b cp.rtp cp.stream cp.seq cp.leg stomp
    es.foldl (send 1) (es.foldl (send 0) s)
  else s

/-- A failed copy is remembered, with its arrival, for its rescue (R116). -/
def noteFailed (cp : Copy) (s : State) : State :=
  s.updSe fun e => { e with direct := { stream := cp.stream, seq := cp.seq, leg := cp.leg, failedAt := cp.gts } :: e.direct.take 255 }

/-- Whether a frame is that of a packet. -/
def isPacket (stream seq : Nat) (f : TxFrame) : Bool := f.key == some (stream, seq)

/-- Whether a frame of a packet is on the wire of some port. -/
def onWire (stream seq : Nat) (s : State) : Bool :=
  [0, 1, 2, 3].any fun p => decide (s.now < (s.port p).txEnd) && (s.port p).txCur.any (isPacket stream seq)

/-- The frame of a packet on the wire of one port is stomped (R116). -/
def stompWire (stream seq : Nat) (s : State) (p : Nat) : State :=
  let x := s.port p
  match x.txCur with
  | some f =>
    if isPacket stream seq f ∧ ¬ f.stomp ∧ s.now < x.txEnd then
      let bad (g : TxFrame) : TxFrame := { g with stomp := true, bytes := withFcs (g.bytes.take (g.bytes.length - 4)) true }
      let s := s.setPort p { x with txCur := some { f with stomp := true }, wire := x.wire.map bad }
      npEvent p 5 [f.dp.getD 0xFFFF] ((s.bump (baseNP p + 0x234)).bump (baseSE + 0x228))
    else s
  | none => s

/-- The frame of a packet on the wire of one port is stomped; frames that have not begun are never started (R116). -/
def stompPort (stream seq : Nat) (s : State) (p : Nat) : State :=
  stompWire stream seq (s.updPort p fun x => { x with txq := tmap [] x.txq fun l => l.filter fun f => !isPacket stream seq f }) p

/-- A forwarded packet whose tag fails (R116). -/
def directFail (cp : Copy) (s : State) : State :=
  if (directOf s cp.stream).isEmpty then s
  else noteFailed cp ([0, 1, 2, 3].foldl (stompPort cp.stream cp.seq) s)

/-- Whether a failed packet is that of a copy on the other leg. -/
def failedTwin (cp : Copy) (d : DirectFrame) : Bool := d.stream == cp.stream && d.seq == cp.seq && d.leg != cp.leg

/-- Whether a copy arrives within `skew_max` Ells of a failed copy of its packet on the other leg (R30, R116). -/
def rescues (s : State) (b : List Byte) (cp : Copy) : Bool :=
  s.se.direct.any fun d => failedTwin cp d && decide (cp.gts - d.failedAt < skewMax b * 500000)

/-- The RTP packet of the rescuing copy is kept until its tag verifies. -/
def keepRescue (cp : Copy) (s : State) : State :=
  s.updSe fun e => { e with direct := e.direct.map fun d => if failedTwin cp d then { d with frame := cp.rtp } else d }

/-- The rescuing copy is forwarded in full, and counted in `dp_rescued`. -/
def directRescue (b : List Byte) (cp : Copy) (s : State) : State :=
  let s := s.updSe fun e => { e with direct := e.direct.filter fun d => !failedTwin cp d }
  (directForward b cp false s).bump (baseSE + 0x22C)

/-! ## Merging (R94) -/

/-- A copy awaits its tag, its Dalow check, or is USED at once. -/
def submitCopy (b : List Byte) (cp : Copy) (s : State) : State :=
  if rxSrtp b then s.updCe fun e => { e with inq := e.inq ++ [cp] }
  else if fmtOf (rxCtl b) = 2 then { s with cz := { s.cz with inq := s.cz.inq ++ [cp] } }
  else if cp.role = .compare then compareCopy b cp s
  else markUsed cp (placeCopy b cp s)

/-- Records after `high` up to a number become EMPTY. -/
def advanceHigh (r : RxStream) (seq d : Nat) : RxStream :=
  let n := min d 2048
  { r with
    high := some seq
    merge := (List.range n).foldl (fun t k => tset {} t ((seq + 65536 - k) % 2048) {}) r.merge }

/-- Whether a record has been released: the playout window of its last Ell has closed (R94). -/
def released (s : State) (b : List Byte) (r : RxStream) (m : MergeRec) : Bool :=
  decide (playsIn b r (m.first + (pktSamples (rxCtl b) : Int) - 1) * 500000 ≤ s.mediaOf s.now)

/-- A leg joins a record. -/
def addLeg (cp : Copy) (s : State) : State := updMerge cp.stream cp.seq (fun m => { m with legs := m.legs ||| 2 ^ cp.leg }) s

/-- The merge of R94 for a copy within the window. Only the first copy of a packet that becomes PENDING is forwarded (R115). -/
def mergeCopy (b : List Byte) (cp : Copy) (s : State) : State :=
  let r := s.rx cp.stream
  let m := tget {} r.merge (cp.seq % 2048)
  if m.st = 1 then s.setRx cp.stream { r with waiting := r.waiting ++ [cp] }
  else if m.st = 0 ∨ m.st = 3 then
    let role : CopyRole := if m.st = 0 then .first else .rescue
    let m' : MergeRec :=
      { st := 1, legs := (if m.st = 0 then 0 else m.legs) ||| 2 ^ cp.leg, leg := cp.leg, ts := cp.ts, m := cp.m, gts := cp.gts,
        first := cp.first, len := cp.len, seq := cp.seq }
    let s := updMerge cp.stream cp.seq (fun _ => m') s
    let s :=
      if rescues s b cp then (if rxSrtp b then keepRescue cp s else directRescue b cp s)
      else if role = .first ∧ ¬ (m.seq = cp.seq ∧ m.legs ≠ 0) then directForward b cp false s
      else s
    submitCopy b { cp with role := role } s
  else if bit m.legs cp.leg then (addLeg cp s).bump (baseSE + 0x210)
  else if skewMax b * 500000 ≤ cp.gts - m.gts then
    let s := (addLeg cp s).bump (baseSE + 0x218)
    let r := s.rx cp.stream
    let s' := s.setRx cp.stream { r with skewLogged := true }
    if r.skewLogged then s' else s'.raise 4 0x40A [cp.stream, (cp.gts - m.gts) / 500000]
  else if rxPlay b ∧ ¬ released s b r m then addLeg cp (submitCopy b { cp with role := .compare } s)
  else (addLeg cp s).bump (baseSE + 0x214)

/-- How far a number lies beyond the highest, as a signed 16-bit difference. -/
def aheadOf (r : RxStream) (seq : Nat) : Int := match r.high with | none => 1 | some h => sgn 16 (seq + 65536 - h)

/-- Whether a held copy still waits: its record is PENDING. -/
def stillHeld (r : RxStream) (c : Copy) : Bool :=
  let m := tget {} r.merge (c.seq % 2048)
  m.st == 1 && m.seq == c.seq

/-- Held copies whose record has left PENDING, by a verdict, a replay, or a new number in its place, enter the merge again
(R94); one that has fallen behind the window is stale. -/
def wakeWaiting (b : List Byte) (stream : Nat) (s : State) : State :=
  let r := s.rx stream
  let (rest, mine) := r.waiting.partition (stillHeld r)
  mine.foldl (fun s c => if aheadOf (s.rx stream) c.seq ≤ -2048 then s.bump (baseSE + 0x20C) else mergeCopy b c s)
    (s.setRx stream { r with waiting := rest })

/-- RESYNC (R105). -/
def enterResync (cp : Copy) (s : State) : State :=
  let r := s.rx cp.stream
  let s := (s.setRx cp.stream { r with st := 5, svc := 2, jump := [] }).bump (baseSE + 0x220)
  s.raise 4 0x409 [cp.stream, wrap 32 r.lastFirst, wrap 32 cp.first]

/-- Early and very late packets in sequence, on whichever legs their copies come (R105); `kind` 1 early, 2 very late, 0 neither. A
packet with a copy that is neither counts as neither. The last 64 packets are remembered. -/
def jumpStep (cp : Copy) (kind : Nat) (s : State) : State :=
  let r := s.rx cp.stream
  let k := if r.jump.any fun e => e.1 == cp.seq && e.2 == 0 then 0 else kind
  let jump := ((cp.seq, k) :: r.jump.filter fun e => e.1 != cp.seq).take 64
  let same (d : Nat) : Bool := jump.any fun e => e.1 == (cp.seq + d) % 65536 && e.2 == k
  let run := k != 0 && ((same 1 && same 2) || (same 65535 && same 1) || (same 65534 && same 65535))
  let s := s.setRx cp.stream { r with jump := jump }
  if run ∧ r.st ≠ 5 then enterResync cp s else s

/-- Whether a copy is early (R105); a stream that plays nothing has no early copies. -/
def isEarly (b : List Byte) (r : RxStream) (cp : Copy) (media : Int) : Bool :=
  rxPlay b && decide (currentEll media + (jbMax b + ptimeElls (rxCtl b) : Nat) < playsIn b r cp.first)

/-- A late copy is counted, and logged once per period (R100). -/
def noteLate (b : List Byte) (cp : Copy) (s : State) : State :=
  let r := s.rx cp.stream
  let room := cutOffOf (playsIn b r cp.first) - s.mediaOf cp.gts
  if 0 < room then s
  else
    let s := s.bump (rxCtr cp.stream 3)
    let s' := s.setRx cp.stream { r with lateN := r.lateN + 1, lateLogged := true }
    if r.lateLogged then s' else s'.raise 4 0x407 [cp.stream, (-room).toNat % 2 ^ 32]

/-- An early copy (R105): its samples are not written and its record is set back to EMPTY. The first copy of a packet has become
PENDING before that, so it is forwarded (R115). -/
def dropEarly (b : List Byte) (cp : Copy) (s : State) : State :=
  let s := s.bump (baseSE + 0x21C)
  let m := tget {} (s.rx cp.stream).merge (cp.seq % 2048)
  if m.st = 1 ∨ m.st = 2 then s
  else
    let seen := if m.seq = cp.seq then m.legs else 0
    let s :=
      if rescues s b cp then (if rxSrtp b then s else directRescue b cp s)
      else if m.st = 0 ∧ seen = 0 then directForward b cp false s
      else s
    updMerge cp.stream cp.seq (fun _ => { legs := seen ||| 2 ^ cp.leg, seq := cp.seq }) s

/-- A parsed copy enters the merge (R94, R102, R105). -/
def takeCopy (b : List Byte) (cp : Copy) (s : State) : State :=
  let r := s.rx cp.stream
  let d := aheadOf r cp.seq
  let media := s.mediaOf cp.gts
  let early := isEarly b r cp media
  let late := decide (playsIn b r cp.first + (jbMax b : Int) < currentEll media)
  let s := noteLate b cp (if rxSrtp b then s else noteHeadroom b cp s)
  if d ≤ -2048 then s.bump (baseSE + 0x20C)
  else
    let fresh := if r.high.isNone then 2048 else d.toNat
    let s := if 0 < d then wakeWaiting b cp.stream (s.setRx cp.stream (advanceHigh (s.rx cp.stream) cp.seq fresh)) else s
    let s := if early then dropEarly b cp s else mergeCopy b cp s
    jumpStep cp (if early then 1 else if late then 2 else 0) s

/-! ## Legs (R96) -/

/-- A copy arrives on a leg. -/
def legSeen (stream leg seq : Nat) (s : State) : State :=
  let r := s.rx stream
  let lost := if leg = 0 then r.redLostAt else r.blueLostAt
  let seqOf := if leg = 0 then r.redSeq else r.blueSeq
  let run := if leg = 0 then r.redRun else r.blueRun
  let n := if seqOf = seq then run + 1 else 1
  let back := decide (lost ≠ 0) && decide (8 ≤ n)
  let ok := decide (lost = 0) || back
  let r' :=
    if leg = 0 then
      { r with redSeen := s.now + 1, redSeq := (seq + 1) % 65536, redRun := n, redOk := ok, redLostAt := if ok then 0 else lost }
    else
      { r with blueSeen := s.now + 1, blueSeq := (seq + 1) % 65536, blueRun := n, blueOk := ok, blueLostAt := if ok then 0 else lost }
  let s := s.setRx stream r'
  if back then tryNetBack leg (s.raise 4 0x404 [stream, leg]) else s

/-- Whether a leg of a stream exists (R67, R89). -/
def legExists (s : State) (b : List Byte) (leg : Nat) : Bool := bit (rxCtl b) (27 - leg) && (portOfRole s (leg + 1)).isSome

/-- LEG_LOST (R96): nothing for 8 packet times while copies arrive on the other leg. -/
def execLegLost (t : Gts) (stream : BitVec 10) (leg : Leg) : State → Host.Outcome State Fault Refusal :=
  act t fun s =>
    let i := stream.toNat
    let g := if leg = .red then 0 else 1
    match s.recNow tyRX i with
    | none => s
    | some b =>
      let r := s.rx i
      let span := 8 * ptimeElls (rxCtl b) * 500000
      let mine := if g = 0 then r.redSeen else r.blueSeen
      let other := if g = 0 then r.blueSeen else r.redSeen
      let lost := if g = 0 then r.redLostAt else r.blueLostAt
      if legExists s b 0 ∧ legExists s b 1 ∧ lost = 0 ∧ mine + span ≤ s.now + 1 ∧ other ≠ 0 ∧ s.now < other + span then
        let r' := if g = 0 then { r with redOk := false, redLostAt := s.now + 1, redRun := 0 }
                  else { r with blueOk := false, blueLostAt := s.now + 1, blueRun := 0 }
        (s.setRx i r').raise 4 0x403 [i, g]
      else s

/-! ## Parsing (R91, R92) -/

/-- The receive stream of a frame (R90, R91). -/
def matchRx (s : State) (leg : Nat) (dst : List Byte) (port : Nat) : Option (Nat × List Byte) :=
  (recsOf (s.recsAt s.soon) tyRX).find? fun e =>
    bit (rxCtl e.2) (27 - leg) && rxDst e.2 leg == dst && u16 e.2 0x18 == port

/-- A frame that matches no stream goes to the host (R91). -/
def noMatch (it : Item) (s : State) : State :=
  let s := s.bump (baseSE + 0x200)
  let q := s.rfld (baseSE + 4) 6 0
  if q < 96 then qPushNow q { it with src := 4 } s else s

/-- MKI bytes of a stream's packets (R295). -/
def mkiLen (s : State) (b : List Byte) : Nat := if rxSrtp b then ((ceRec s (rxCeCtx b)).map ceMkiLen).getD 0 else 0

/-- Whether the payload has the length of R92, behind a tag and MKI where SRTP is used. -/
def lenOk (s : State) (b : List Byte) (n : Nat) : Bool :=
  let extra := if rxSrtp b then 16 + mkiLen s b else 0
  fmtOf (rxCtl b) == 2 && decide (extra + 4 ≤ n) ||
    n == extra + pktSamples (rxCtl b) * chOf (rxCtl b) * widthOf (rxCtl b)

/-- A matched frame: header check, length check, merge (R91-R94). A frame that ended with `err` was forwarded before its end, so its
UDP checksum was not yet known: it is stomped, its record is left as it is, and it enters no merge (R116; DEDUCED, log 16). -/
def parseMatched (leg i : Nat) (b : List Byte) (f : Parsed) (it : Item) (s : State) : State :=
  let d := it.data
  let rtp := slice d (f.l4 + 8) (f.ipEnd - (f.l4 + 8))
  let payload := rtp.drop 12
  let bad := f.frag || (!it.err && !udpOk d f) || byteAt rtp 0 != 0x80 || byteAt rtp 1 % 128 != rxPt b || n32 rtp 8 != u32 b 8
    || decide (rtp.length < 12)
  let media := s.mediaOf s.now
  let seq := n16 rtp 2
  let mki := mkiLen s b
  let cp : Copy :=
    { stream := i, leg := leg, seq := seq, ts := n32 rtp 4, m := bit (byteAt rtp 1) 7,
      first := sampleIndex (mediaSamples media (rate96 (rxCtl b))) (n32 rtp 4) (rxTsOff b), payload := payload,
      role := .first, gts := s.now, len := rtp.length, mki := beNat (payload.drop (payload.length - mki)), rtp := rtp }
  if bad then s.bump (baseSE + 0x204)
  else if it.err then
    let m := tget {} (s.rx i).merge (seq % 2048)
    let taken := m.seq == seq && (m.st == 1 || m.st == 2 || m.legs != 0)
    if ¬ taken ∧ ¬ (directOf s i).isEmpty then noteFailed cp (directForward b cp true s) else s
  else
    let s := legSeen i leg seq (s.bump (rxCtr i leg))
    if ¬ lenOk s b payload.length then s.bump (baseSE + 0x208) else takeCopy b cp s

/-- RX_PARSE (R91-R96, R100, R105, R115): one frame of a media port's `q_media`. -/
def execRxParse (t : Gts) (p : PortId) : State → Host.Outcome State Fault Refusal :=
  act t fun s =>
    let p := p.val
    let role := npRole s p
    if role ≠ 1 ∧ role ≠ 2 then s
    else
      match qPopNow 4 (npFld s p 0x3C 6 0) s with
      | (none, s) => s
      | (some it, s) =>
        let f := parseFrame it.data
        match matchRx s (role - 1) f.ipDst (n16 it.data (f.l4 + 2)) with
        | none => noMatch it s
        | some (i, b) => parseMatched (role - 1) i b f it s

/-! ## Tag and Dalow results (R98, R323) -/

/-- An authenticated copy takes part in the measurements where its tag has verified. -/
def noteVerified (b : List Byte) (cp : Copy) (s : State) : State := if rxSrtp b then noteHeadroom b cp s else s

/-- The verdict on a FIRST or RESCUE copy: where its tag verifies, `p` is cleared, or the Dalow payload goes on to be decoded. -/
def verdictMain (b : List Byte) (cp : Copy) (fromCz : Bool) (s : State) : State :=
  let m := tget {} (s.rx cp.stream).merge (cp.seq % 2048)
  let dalow := fmtOf (rxCtl b) == 2
  if m.st ≠ 1 ∨ m.seq ≠ cp.seq ∨ m.leg ≠ cp.leg then s
  else if ¬ cp.ok then
    let s := updMerge cp.stream cp.seq (fun m => { m with st := 3 }) s
    let s := if fromCz then s else directFail cp (authFail cp s)
    wakeWaiting b cp.stream s
  else
    let s := if fromCz then s else noteVerified b cp s
    let s := if s.se.direct.any (fun d => failedTwin cp d && !d.frame.isEmpty) then directRescue b cp s else s
    if dalow ∧ ¬ cp.decoded then { s with cz := { s.cz with inq := s.cz.inq ++ [cp] } }
    else
      let s := if dalow then placeCopy b cp s else clearPending b cp s
      wakeWaiting b cp.stream (markUsed cp s)

/-- The verdict on a COMPARE copy: a failure is counted and logged, and the copy in use is kept (R299). -/
def verdictCompare (b : List Byte) (cp : Copy) (fromCz : Bool) (s : State) : State :=
  if ¬ cp.ok then (if fromCz then s else noteMismatch cp.leg (authFail cp s))
  else
    let s := if fromCz then s else noteVerified b cp s
    if fmtOf (rxCtl b) = 2 ∧ ¬ cp.decoded then { s with cz := { s.cz with inq := s.cz.inq ++ [cp] } } else compareCopy b cp s

/-- A verdict on a copy. -/
def applyVerdict (cp : Copy) (fromCz : Bool) (s : State) : State :=
  match rxEntry s cp.stream with
  | none => s
  | some b => if cp.role = .compare then verdictCompare b cp fromCz s else verdictMain b cp fromCz s

/-- TAG_RESULT: the oldest tag verdict on the named copy. -/
def execTagResult (t : Gts) (stream : BitVec 10) (leg : Leg) (seq : BitVec 16) :
    State → Host.Outcome State Fault Refusal :=
  act t fun s =>
    let want (c : Copy) : Bool := c.stream == stream.toNat && c.leg == (if leg = .red then 0 else 1) && c.seq == seq.toNat
    match takeFirst want s.ce.done with
    | some (cp, rest) => applyVerdict cp false (s.updCe fun e => { e with done := rest })
    | none => s

/-! ## Cut-off (R99) -/

/-- The packet whose first sample lies in media Ell `m`, by the phase of the last packet used: its sample index and
sequence number. -/
def expectedAt (b : List Byte) (r : RxStream) (m : Int) : Option (Int × Nat) :=
  let n : Int := perEll (rxCtl b)
  let step : Int := pktSamples (rxCtl b)
  let s0 := m * n + (r.lastFirst - m * n) % step
  if s0 < (m + 1) * n then some (s0, wrap 16 ((r.lastSeq : Int) + (s0 - r.lastFirst) / step)) else none

/-- A packet without a usable copy at the cut-off of its first Ell is lost. Numbers are known only while packets are played, so
`lost` is counted in PLAYING and CONCEALING, for the numbers that follow from the last packet used; a copy whose tag is still
being checked counts as usable (DESIGN CHOICE, log 16). -/
def cutStream (n : Nat) (s : State) (e : Nat × List Byte) : State :=
  let r := s.rx e.1
  if r.st ≠ 2 ∧ r.st ≠ 3 then s
  else
    match expectedAt e.2 r ((n : Int) - (offsetOf e.2 r : Int)) with
    | none => s
    | some (s0, q) =>
      let m := tget {} r.merge (q % 2048)
      if m.seq = q ∧ m.first = s0 ∧ (m.st = 1 ∨ m.st = 2) then s else s.bump (rxCtr e.1 2)

/-- CUT_OFF: C_n passes, for the Ell n that has just lost it. -/
def execCutOff (t : Gts) : State → Host.Outcome State Fault Refusal :=
  act t fun s =>
    let n := s.aheadEll 540000
    if s.se.cutEll = n + 1 ∨ ¬ s.audioOn then s
    else (recsOf (s.recsAt (s.aheadOld 540000)) tyRX).foldl (cutStream n) (s.updSe fun e => { e with cutEll := n + 1 })

/-! ## Concealment (R103, R104, R107) -/

/-- The concealed value at position `k` of a gap after the sample `l`, over `len` samples. -/
def concealed (l len k : Nat) : Nat :=
  let keep := flagC ||| (cFlags l &&& (flagS ||| flagT))
  if k < len then mkC ((cVal l * ((len - k : Nat) : Int)).tdiv len) keep else keep

/-- A weighted join of two samples. -/
def mixTwo (n i : Nat) (a b : Nat) : Nat :=
  mkC ((((n - i : Nat) : Int) * cVal a + (i : Int) * cVal b).tdiv n) (flagC ||| cFlags a ||| cFlags b)

/-- What one channel plays in an Ell: the containers, the gap after it, and the last sample played. -/
structure ChanOut where
  out : List Nat
  gap : Nat
  last : Nat
  deriving DecidableEq, Repr

/-- An Ell outside a gap: samples are played as stored up to the first that is missing. -/
def playPlain (len : Nat) : List (Option Nat) → Nat → Nat → ChanOut
  | [], gap, last => { out := [], gap := gap, last := last }
  | x :: r, gap, last =>
    match x, gap with
    | some v, 0 =>
      let t := playPlain len r 0 v
      { t with out := v :: t.out }
    | _, g =>
      let t := playPlain len r (g + 1) last
      { t with out := concealed last len (g + 1) :: t.out }

/-- One Ell of one channel. -/
def playChan (len : Nat) (cur : List (Option Nat)) (gap last : Nat) : ChanOut :=
  let n := cur.length
  if gap = 0 then playPlain len cur 0 last
  else if cur.all Option.isSome then
    let ys := cur.map fun x => x.getD 0
    let out := (List.range n).map fun i => mixTwo n i (concealed last len (gap + 1 + i)) (ys.getD i 0)
    { out := out, gap := 0, last := (out.getLast?).getD last }
  else { out := (List.range n).map fun i => concealed last len (gap + 1 + i), gap := gap + n, last := last }

/-- An inserted Ell (R107): from the last sample played to the first of the next Ell. -/
def playInsert (n last : Nat) (next : Option Nat) : ChanOut :=
  let out := (List.range n).map fun i => mixTwo n i last (next.getD last)
  { out := out, gap := 0, last := (out.getLast?).getD last }

/-- A removed Ell (R107). -/
def playRemove (last : Nat) (u v : List (Option Nat)) : ChanOut :=
  let n := u.length
  let out := (List.range n).map fun i => mixTwo n i ((u.getD i none).getD last) ((v.getD i none).getD last)
  { out := out, gap := 0, last := (out.getLast?).getD last }

/-! ## Playout (R100, R101, R109) -/

/-- The containers stored for media Ell `m` of a channel. -/
def ellOfRing (b : List Byte) (r : RxStream) (ch : Nat) (m : Int) : List (Option Nat) :=
  let n := perEll (rxCtl b)
  (List.range n).map fun (j : Nat) => heldAt b r ch (m * n + (j : Int))

/-- First slot of a channel, and its slots (R13, R90). -/
def chanSlots (first : Nat) (hi : Bool) (ch : Nat) : List Nat := if hi then [first + 2 * ch, first + 2 * ch + 1] else [first + ch]

/-- Writing one channel's containers for data Ell `n`. -/
def writeChan (n first : Nat) (hi : Bool) (ch : Nat) (ws : List Nat) (s : State) : State :=
  ((chanSlots first hi ch).zipIdx).foldl
    (fun s e => (putSlotWords n e.1 ((ws.drop (6 * e.2)).take 6) s).setMark n e.1 0) s

/-- Silence with `c` in every slot of a stream. -/
def playSilence (n : Nat) (b : List Byte) (s : State) : State :=
  let c := rxCtl b
  (List.range (chOf c)).foldl (fun s ch => writeChan n (rxFirst b) (rate96 c) ch (List.replicate (perEll c) flagC) s) s

/-- One channel of a running stream in data Ell `n`. -/
def playOne (b : List Byte) (r : RxStream) (m : Int) (step : Int) (ch : Nat) : ChanOut :=
  let c := rxCtl b
  let len := perEll c * rxFade b
  let gap := tget 0 r.gaps ch
  let last := (tget 0 r.last ch).toNat
  if 0 < step ∧ gap = 0 then playInsert (perEll c) last (heldAt b r ch ((m + 1) * perEll c))
  else if step < 0 ∧ gap = 0 then playRemove last (ellOfRing b r ch (m - 1)) (ellOfRing b r ch m)
  else if 0 < step then
    { out := (List.range (perEll c)).map fun i => concealed last len (gap + 1 + i), gap := gap + perEll c, last := last }
  else playChan len (ellOfRing b r ch m) gap last

/-- A running stream plays data Ell `n`, and its state follows (R101). -/
def playRunning (n i : Nat) (b : List Byte) (s : State) : State :=
  let r := s.rx i
  let c := rxCtl b
  let o := offsetOf b r
  let m : Int := (n : Int) - (o : Int)
  let step : Int := if r.oPrev = 0 then 0 else (o : Int) + 1 - (r.oPrev : Int)
  let outs := (List.range (chOf c)).map fun ch => (ch, playOne b r m step ch)
  let s := outs.foldl (fun s e => writeChan n (rxFirst b) (rate96 c) e.1 e.2.out s) s
  let sub := outs.any fun e => e.2.out.any fun w => bit w 6
  let inGap := outs.any fun e => e.2.gap != 0
  let joined := sub && !inGap && step == 0
  let run := if sub then r.concRun + 1 else 0
  let st := if inGap ∨ (joined ∧ r.st = 3) then 3 else if sub ∧ r.st = 3 then 3 else 2
  let muted := decide (800 ≤ run) && st == 3
  let s := s.setRx i { r with
    gaps := outs.foldl (fun t e => tset 0 t e.1 e.2.gap) r.gaps
    last := outs.foldl (fun t e => tset 0 t e.1 (BitVec.ofNat 32 e.2.last)) r.last
    oPrev := o + 1
    concRun := if muted then 0 else run
    conc := r.conc + b2n sub
    svc := if sub then 2 else if r.heldElls ≠ 0 then 1 else 0
    heldPlay := r.heldElls != 0
    st := if muted then 4 else st }
  if muted then s.raise 4 0x402 [i] else s

/-- Playout of one stream for data Ell `n`. -/
def playStream (n : Nat) (s : State) (e : Nat × List Byte) : State :=
  let (i, b) := e
  if ¬ rxPlay b then s
  else
    let r := s.rx i
    let c := rxCtl b
    if s.cz.refused.contains (rxCzCtx b) ∧ fmtOf c = 2 then
      (playSilence n b s).setRx i { r with svc := 3, gaps := [], last := [] }
    else
      match r.st with
      | 2 => playRunning n i b s
      | 3 => playRunning n i b s
      | 1 =>
        let m : Int := (n : Int) - (offsetOf b r : Int)
        if (List.range (chOf c)).all fun ch => (ellOfRing b r ch m).all Option.isSome then
          let s := s.setRx i { r with st := 2, gaps := [], oPrev := 0, concRun := 0 }
          playRunning n i b (s.raise 4 0x401 [i, offsetOf b r])
        else
          (playSilence n b s).setRx i { r with svc := 2, conc := r.conc + 1 }
      | _ => (playSilence n b s).setRx i { r with svc := 2, conc := r.conc + 1 }

/-- Playout of every receive stream of data Ell `n`. -/
def playAll (n : Nat) (s : State) : State := (recsOf (s.recsAt n) tyRX).foldl (playStream n) s

/-! ## Ell boundaries (R101, R106, R107) -/

/-- The `svc` that a stream's words show: CONCEALED while it plays nothing, unless it is refused (R101, R109). -/
def svcOf (r : RxStream) : Nat := if r.svc = 3 then 3 else if r.st = 2 ∨ r.st = 3 then r.svc else 2

/-- The four words of a status entry (R108). -/
def statWords (b : List Byte) (r : RxStream) : List Nat :=
  [svcOf r * 2 ^ 30 + r.st * 2 ^ 27 + b2n r.redOk * 2 ^ 26 + b2n r.blueOk * 2 ^ 25 + (if r.ofs = 0 then jbInit b else r.ofs) * 2 ^ 10,
   r.hminLast, r.lastSeq * 2 ^ 16 + r.concLast, r.lastTs]

/-- The status entry is updated at an Ell boundary, for the data Ell just played. -/
def showStream (i : Nat) (b : List Byte) (s : State) : State := s.setRx i { s.rx i with shown := statWords b (s.rx i) }

/-- The transitions and depth changes of an Ell boundary, once the status entry shows the Ell just played. -/
def tickStream (s : State) (e : Nat × List Byte) : State :=
  let (i, b) := e
  let s := showStream i b s
  let r := s.rx i
  let r' :=
    match r.st with
    | 0 => if r.gotUsed then { r with st := 1, ofs := jbInit b } else r
    | 4 => if r.gotUsed then { r with st := 1 } else r
    | 5 =>
      { r with st := 1, ring := [], merge := tmap {} r.merge emptied, high := none, ofs := jbInit b, target := 0, calm := 0,
               gaps := [], last := [], oPrev := 0, concRun := 0 }
    | _ => r
  let r' := { r' with gotUsed := false }
  if r'.target ≠ 0 ∧ r'.ofs ≠ 0 ∧ r'.ofs ≠ r'.target then
    let o := if r'.ofs < r'.target then r'.ofs + 1 else r'.ofs - 1
    (s.setRx i { r' with ofs := o }).raise 4 0x408 [i, r'.ofs, o]
  else if r.st = 5 ∧ ¬ r'.waiting.isEmpty then wakeWaiting b i (s.setRx i r')
  else s.setRx i r'

/-- Whether the shrink branch is held for a stream (R382). -/
def shrinkHeld (s : State) (b : List Byte) : Bool :=
  bit (s.reg (baseSV + 0x818)) 16 &&
    [0, 1].any fun net =>
      bit (rxCtl b) (27 - net) &&
        (netDown s net ||
          (let g := tget 0 s.sup.netBackAt net
           g != 0 && decide (s.now < g - 1 + s.rfld (baseSV + 0x818) 15 0 * sec)))

/-- The target of a stream at the end of a period (R106). -/
def adaptStream (i : Nat) (b : List Byte) (s : State) : State :=
  let r := s.rx i
  let adapt := bit (rxCtl b) 24
  let hold := shrinkHeld s b
  let r1 :=
    if ¬ adapt then r
    else if 0 < r.lateN then { r with target := min (jbMax b) (r.ofs + 1 + cdiv r.worst 500000), calm := 0 }
    else if hold then { r with calm := 0 }
    else if 1000000 ≤ r.hmin.getD 0 then
      let c := r.calm + 1
      if s.rfld baseSE 19 16 ≤ c then { r with target := max (jbMin b) (r.ofs - 1), calm := 0 } else { r with calm := c }
    else { r with calm := 0 }
  let r2 := if r1.ofs = 0 then { r1 with target := 0 } else r1
  showStream i b <| s.setRx i { r2 with
    hminLast := if 0 < r.lateN then 0 else satN 32 (r.hmin.getD 0 / 500)
    concLast := satN 16 r.conc, conc := 0, hmin := none, worst := 0, lateN := 0, lateLogged := false, skewLogged := false
    adaptEll := s.elapsed + 1 }

/-- ADAPT_PERIOD_END (R102, R106): at multiples of the period in the count of elapsed Ells. -/
def execAdaptPeriodEnd (t : Gts) (stream : BitVec 10) : State → Host.Outcome State Fault Refusal :=
  act t fun s =>
    let i := stream.toNat
    let period := max 1 (s.rfld baseSE 15 0)
    match s.recNow tyRX i with
    | none => s
    | some b => if s.elapsed % period = 0 ∧ (s.rx i).adaptEll ≠ s.elapsed + 1 then adaptStream i b s else s

/-! ## Transmit streams (R110-R113) -/

def txFirst (b : List Byte) : Nat := u16 b 4
def txCeCtx (b : List Byte) : Nat := u16 b 0x18
def txCzCtx (b : List Byte) : Nat := u16 b 0x1A

/-- Layout of a TXSTREAM body (R110, R461). -/
def formTX (b : List Byte) : Bool :=
  let c := rxCtl b
  b.length == 64 && fld c 7 0 == 0 && bit c 11 == false && bit c 31 && !bit c 28 && !bit c 24 && fld c 30 29 != 3 && fmtOf c != 3
    && decide (fld c 15 13 < 5) && decide (byteAt b 6 < 128) && decide (byteAt b 7 < 64) && !bit (u16 b 0x12) 12
    && allZero (slice b 0x1D 3) && (bit c 25 || (allZero (slice b 0x20 12) && allZero (slice b 0x30 12)))

/-- Ranges of R110 that concern one body. -/
def limitTX (b : List Byte) : Bool :=
  let c := rxCtl b
  let lastSlot := txFirst b + fld c 21 16 * (if rate96 c then 2 else 1) + (if rate96 c then 1 else 0)
  decide (4096 ≤ txFirst b) && decide (lastSlot < 8192) && !(rate96 c && txFirst b % 2 == 1) && decide (1 ≤ byteAt b 0x1C)
    && (if fmtOf c = 2 then txCzCtx b != 0xFFFF else txCzCtx b == 0xFFFF)

/-- Layout and ranges of a DIRECT body (R114, R461). -/
def formDIRECT (b : List Byte) : Bool :=
  b.length == 64 && decide (byteAt b 2 < 4) && decide (byteAt b 3 < 8) && !bit (u16 b 4) 12 && decide (byteAt b 6 < 64)
    && decide (byteAt b 0xC < 8) && decide (byteAt b 0xD < 128) && u16 b 0xE == 0 && allZero (slice b 0x18 8)
def limitDIRECT (b : List Byte) : Bool := decide (u16 b 0 < 1024) && decide (1 ≤ byteAt b 7)

/-- A sample of a container as 16 bits (R111): nearest, ties to even, saturating. -/
def round16 (w : Nat) : Int :=
  let v := cVal w
  let q := v / 256
  let f := v % 256
  let q := if 128 < f ∨ (f = 128 ∧ q % 2 = 1) then q + 1 else q
  max (-32768) (min 32767 q)

/-- Bytes of one sample on the wire. -/
def wireSample (fmt w : Nat) : List Byte := if fmt = 0 then toBe 2 (wrap 16 (round16 w)) else toBe 3 (w / 256)

/-- The containers of every channel of a transmit stream for data Ell `n`. -/
def txConts (s : State) (n : Nat) (b : List Byte) : List (List Word) :=
  let c := rxCtl b
  (List.range (chOf c)).map fun ch =>
    (chanSlots (txFirst b) (rate96 c) ch).flatMap fun slot => (List.range 6).map fun j => BitVec.ofNat 32 (s.ellGet n slot j)

/-- The containers of data Ell `n` one Ell later: the slots of delayed tasks stand apart (R34). -/
def txContsLate (s : State) (n : Nat) (b : List Byte) : List (List Word) :=
  let c := rxCtl b
  (List.range (chOf c)).map fun ch =>
    (chanSlots (txFirst b) (rate96 c) ch).flatMap fun slot =>
      let e := if slotDelayed s n slot then lateEll n else n
      (List.range 6).map fun j => BitVec.ofNat 32 (s.ellGet e slot j)

/-- Whether a transmit stream is fed by work delayed at data Ell `n` (R34, R113). -/
def txDelayed (s : State) (n : Nat) (b : List Byte) : Bool :=
  !s.sup.delays.isEmpty &&
    (List.range (chOf (rxCtl b))).any fun ch => (chanSlots (txFirst b) (rate96 (rxCtl b)) ch).any fun slot => slotDelayed s n slot

/-- The join of two Ells of containers. -/
def joinConts (u v : List (List Word)) : List (List Word) :=
  (u.zip v).map fun e => (joinEll (e.1.map BitVec.toNat) (e.2.map BitVec.toNat)).map fun w => BitVec.ofNat 32 w

/-- The packetiser takes the data Ell that became final at E_n (R18, R112); a delayed stream's samples come one Ell later
and the Ell after a delay is a join, sent for both Ells that it joins (R34, R113). -/
def gatherTx (n : Nat) (s : State) (e : Nat × List Byte) : State :=
  let (i, b) := e
  let x := s.tx i
  let d := n - 2
  if n < 2 then s
  else
    let late := txDelayed s d b
    let prev : List (Nat × List (List Word)) := if x.late ∧ 0 < d then [(d - 1, txContsLate s (d - 1) b)] else []
    let now : List (Nat × List (List Word)) := if late then [] else [(d, txConts s d b)]
    let got :=
      match prev, now with
      | [(p, u)], [(q, v)] => let j := joinConts u v; [(p, j), (q, j)]
      | _, _ => prev ++ now
    let got := got.filter fun g => decide (x.fromEll ≤ g.1)
    s.setTx i { x with late := late, acc := (x.acc ++ got).drop ((x.acc ++ got).length - 64) }

/-- The packetiser at an Ell boundary. -/
def gatherAll (n : Nat) (s : State) : State :=
  if s.mediaOn then (recsOf (s.recsAt (n - 2)) tyTX).foldl (gatherTx n) s else s

/-- The first whole group of a stream, what precedes it dropped (R111). -/
def firstGroup (p : Nat) : List (Nat × List (List Word)) → Option (Nat × List (List (List Word)) × List (Nat × List (List Word)))
  | [] => none
  | (d, c) :: r =>
    let l := (d, c) :: r
    let g := l.take p
    if d % p = 0 then
      (if g.length = p ∧ (g.zipIdx).all (fun e => e.1.1 == d + e.2) then some (d, g.map (·.2), l.drop p)
       else if r.any (fun e => e.1 % p == 0) ∧ ¬ (g.zipIdx).all (fun e => e.1.1 == d + e.2) then firstGroup p r
       else none)
    else firstGroup p r

/-- The containers of a group, sample by sample and channel by channel (R92). -/
def interleave (n : Nat) (ells : List (List (List Word))) : List Word :=
  ells.flatMap fun chans => (List.range n).flatMap fun j => chans.map fun ws => ws.getD j 0

/-- Whether both media networks are lost (R363). Where only one media network has a port, its loss counts as that of both (DESIGN
CHOICE, log 16). -/
def bothDown (s : State) : Bool :=
  let have' := [0, 1].filter fun n => (portOfRole s (n + 1)).isSome
  !have'.isEmpty && have'.all fun n => netDown s n

/-- CZ_REFUSED (R329): counted, and logged once per context per Ell. -/
def czRefuse (c : Nat) (s : State) : State :=
  let x := tget {} s.cz.stat c
  let s' := { s with cz := { s.cz with stat := tset {} s.cz.stat c { x with svc := 3, refEll := s.ell + 1 } } }
  let s' := s'.bump (baseCZ + 0x224)
  if x.refEll = s.ell + 1 then s' else s'.raise 8 0x804 [c]

/-- A built packet goes to the Compression Engine, the Cipher Engine or the egress queues. -/
def submitTx (b : List Byte) (p : TxPkt) (s : State) : State :=
  if fmtOf (rxCtl b) = 2 then { s with cz := { s.cz with txq := s.cz.txq ++ [p] } }
  else if txCeCtx b ≠ 0xFFFF then s.updSe fun e => { e with txWait := e.txWait ++ [p] }
  else sendTx p.stream (rtpHeader b p ++ p.payload) s

/-- One group is built into a packet (R111-R113), or, for overload, for want of a key or with both networks down, it is not sent:
REFUSED with the first of these reasons, counted in `tx_refused`, and the sequence number stays (DESIGN CHOICE on the order and on
`svc` with both networks down, log 16). -/
def buildPacket (i : Nat) (b : List Byte) (m : Nat) (ells : List (List (List Word)))
    (rest : List (Nat × List (List Word))) (s : State) : State :=
  let c := rxCtl b
  let x := s.tx i
  let seq := if x.started then x.seq else u16 b 0x10
  let x := { x with started := true, seq := seq, acc := rest }
  let ce := txCeCtx b
  let cz := txCzCtx b
  let unsent (why : Nat) : State := (s.setTx i { x with svc := 3, reason := why }).bump (baseSE + 0x234)
  if fmtOf c = 2 ∧ s.cz.refused.contains cz then czRefuse cz (unsent 1)
  else if ce ≠ 0xFFFF ∧ ¬ txReady s ce seq then txRefuse i ce (s.setTx i x)
  else if bothDown s then unsent 3
  else
    let conts := interleave (perEll c) ells
    let conc := conts.any fun w => bit w.toNat 6
    let p : TxPkt :=
      { stream := i, seq := seq, ts := (perEll c * m + u32 b 0xC) % 2 ^ 32,
        payload := if fmtOf c = 2 then [] else conts.flatMap fun w => wireSample (fmtOf c) w.toNat, conts := conts, ell := s.ell }
    let svc := if conc then 2 else if x.late ∨ (fmtOf c = 2 ∧ s.cz.delayed.contains cz) then 1 else 0
    submitTx b p (s.setTx i { x with seq := (seq + 1) % 65536, svc := svc, reason := 0 })

/-- PACKET_BUILD (R111-R113). -/
def execPacketBuild (t : Gts) (stream : BitVec 10) : State → Host.Outcome State Fault Refusal :=
  act t fun s =>
    let i := stream.toNat
    match s.recNow tyTX i with
    | none => s
    | some b =>
      if ¬ s.mediaOn then s
      else
        match firstGroup (ptimeElls (rxCtl b)) (s.tx i).acc with
        | some (m, ells, rest) => buildPacket i b m ells rest s
        | none => s

/-- Transmit streams begin with the group at or after a data Ell (R111, R389). -/
def startTxFrom (n : Nat) (s : State) : State :=
  (recsOf s.cfg.recs tyTX).foldl (fun s e => s.setTx e.1 { s.tx e.1 with fromEll := n, acc := [] }) s

/-! ## What the windows show (R108, R109, R113, R118) -/

/-- SE_RXSTAT: as it stood at the last Ell boundary; a stream that has seen none shows what it starts with. -/
def rxStat (s : State) (i w : Nat) : Nat :=
  match s.recNow tyRX i with
  | none => 0
  | some b =>
    let r := s.rx i
    (if r.shown = [] then statWords b r else r.shown).getD w 0

/-- SE_CHSTAT. -/
def chStat (s : State) (slot : Nat) : Nat :=
  match (recsOf s.cfg.recs tyRX).find? fun e =>
      rxPlay e.2 && decide (rxFirst e.2 ≤ slot) && decide (slot < rxFirst e.2 + chOf (rxCtl e.2) * (if rate96 (rxCtl e.2) then 2 else 1)) with
  | none => 0
  | some (i, _) =>
    let r := s.rx i
    let n := s.se.playEll - 1
    let seen := (List.range 6).any fun j => bit (s.ellGet n slot j) 6
    let svc := if svcOf r = 3 then 3 else if seen ∨ ¬ (r.st = 2 ∨ r.st = 3) then 2 else b2n r.heldPlay
    svc * 2 ^ 30 + b2n seen * 2 ^ 29 + r.st * 2 ^ 26 + i * 2 ^ 14

/-- SE_TXSTAT. -/
def txStat (s : State) (i : Nat) : Nat :=
  match s.recNow tyTX i with
  | none => 0
  | some b =>
    let x := s.tx i
    let seq := if x.started then x.seq else u16 b 0x10
    x.svc * 2 ^ 30 + x.reason * 2 ^ 28 + seq

/-- SE_STATUS. -/
def seStatus (s : State) : Nat :=
  let playing := ((recsOf s.cfg.recs tyRX).filter fun e => (s.rx e.1).st == 2 || (s.rx e.1).st == 3).length
  let sending := ((recsOf s.cfg.recs tyTX).filter fun e => (s.tx e.1).started && (s.tx e.1).svc != 3).length
  (if s.mediaOn then sending else 0) * 2 ^ 11 + playing

end Sys2Proof.Machine
end

