-- ==== Sys2Proof/Machine/RateChain.lean ====
section
/-! DEFINITION. The Rate Chain and the Scanner, [06]. The filter coefficients of R142, the K-weighting and the true-peak
interpolator are named by the spec and not given; they are free values of Config. -/

namespace Sys2Proof.Machine

/-! ## RATE records (R140, R141) -/

def raMode (b : List Byte) : Nat := byteAt b 0
def raKind (b : List Byte) : Nat := byteAt b 1
def raIn (b : List Byte) : Nat := byteAt b 2
def raOut (b : List Byte) : Nat := byteAt b 3
def raFilt (b : List Byte) : Nat := byteAt b 4
def raLane (b : List Byte) : Nat := byteAt b 5
def raCh (b : List Byte) : Nat := u16 b 6
def raInFirst (b : List Byte) : Nat := u16 b 8
def raOutFirst (b : List Byte) : Nat := u16 b 0xA
def raHist (b : List Byte) : Nat := u32 b 0xC
def raTarget (b : List Byte) : Nat := byteAt b 0x10

/-- Samples of a channel per Ell at a rate code (R139). -/
def kRate : Nat → Nat
  | 0 => 1 | 1 => 2 | 2 => 4 | 3 => 6 | _ => 12

/-- Taps per phase of a filter set (R142). -/
def tapsOf : Nat → Nat
  | 0 => 64 | 1 => 32 | 2 => 16 | _ => 48

/-- L and M of R143. -/
def ratL (b : List Byte) : Nat := kRate (raOut b) / Nat.gcd (kRate (raOut b)) (kRate (raIn b))
def ratM (b : List Byte) : Nat := kRate (raIn b) / Nat.gcd (kRate (raOut b)) (kRate (raIn b))

/-- W of R143: input samples per output. -/
def ratW (b : List Byte) : Nat := cdiv (tapsOf (raFilt b) * max (ratL b) (ratM b)) (ratL b)

/-- Cost of an instance on its lane (R144). -/
def raCost (b : List Byte) : Nat :=
  32 + match raMode b, raKind b with
    | 0, 0 => cdiv (raCh b * kRate (raOut b) * ratW b) 4
    | 0, _ => cdiv (raCh b * kRate (raOut b) * ratW b) 2
    | 1, _ => cdiv (raCh b * kRate (raIn b)) 4
    | _, _ => cdiv (raCh b * kRate (raIn b)) 8

/-- State words of an instance (R144). -/
def raWords (b : List Byte) : Nat :=
  if raMode b ≠ 0 then 0 else raCh b * (ratW b + if raKind b = 0 then kRate (raIn b) else 64)

/-- Channels of a local source or sink code; none for a code that names no port (R140). -/
def localChans (code : Nat) : Option Nat :=
  if code < 8 then some 2 else if 0x10 ≤ code ∧ code < 0x14 then some 64 else if code = 0x20 ∨ code = 0x21 then some 16 else none

/-- Layout of a RATE body (R140, R461). -/
def formRATE (b : List Byte) : Bool :=
  b.length == 32 && decide (raMode b < 3) && decide (raKind b < 3) && decide (raIn b < 5) && decide (raOut b < 5) &&
    decide (raFilt b < 4) && allZero (slice b 0x11 15)

/-- Slots that a channel takes at a rate code (R13). -/
def slotsPer (rate : Nat) : Nat := if rate = 4 then 2 else 1

/-- Whether a run of channels lies in slots [lo, hi), pairs on even slots. -/
def runIn (first ch rate lo hi : Nat) : Bool :=
  decide (lo ≤ first) && decide (first + ch * slotsPer rate ≤ hi) && (rate != 4 || first % 2 == 0)

/-- The rules of R141 that concern one record. -/
def limitRATE (b : List Byte) : Bool :=
  let i := raIn b
  let o := raOut b
  let c := raCh b
  let sync := raKind b == 0 && runIn (raInFirst b) c i 0 4096 && runIn (raOutFirst b) c o 12288 16384
  let codeOk (v : Nat) : Bool :=
    match localChans (v / 256) with
    | some n => decide (v % 256 + c ≤ n)
    | none => false
  decide (raLane b < 16) && decide (1 ≤ c) && decide (c ≤ if raMode b = 1 then 4096 else 64) && decide (raHist b + raWords b ≤ 131072) &&
  (raMode b == 0 || (raFilt b == 0 && raHist b == 0)) && (raKind b != 0 || raTarget b == 0) &&
  match raMode b, raKind b with
  | 0, 0 => sync && i != o && decide (raFilt b < 3)
  | 0, k =>
    raFilt b == 3 && ((i == 3 && o == 3) || (i == 4 && o == 3) || (i == 3 && o == 4)) &&
      decide (8 ≤ raTarget b) && decide (raTarget b ≤ 48) &&
      (if k = 1 then codeOk (raInFirst b) && runIn (raOutFirst b) c o 0 4096
       else codeOk (raOutFirst b) && runIn (raInFirst b) c i 4096 8192)
  | 1, _ => sync && (i == 3 || i == 4) && o == 0
  | _, _ => sync && i == o

/-- Slots that an instance writes and reads. -/
def raWrites (b : List Byte) : List Nat :=
  if raKind b = 2 then [] else (List.range (raCh b * slotsPer (raOut b))).map (raOutFirst b + ·)
def raReads (b : List Byte) : List Nat :=
  if raKind b = 1 then [] else (List.range (raCh b * slotsPer (raIn b))).map (raInFirst b + ·)

/-! ## Arithmetic -/

/-- Dividing and rounding to nearest, ties to even. -/
def rneDiv (v : Int) (d : Nat) : Int :=
  let q := v / d
  let r := v % d
  if 2 * r < d then q else if 2 * r > d then q + 1 else if q % 2 = 0 then q else q + 1

/-- A weighted sum of samples as a container: rounding and saturation of R143, flags of every contributing sample. -/
def filterOut (sum : Int) (d : Nat) (flags : Nat) : Nat × Bool :=
  let (v, sat) := sat24 (rneDiv sum d)
  (mkC v (flags ||| if sat then flagS else 0), sat)

/-- The OR of the flags of containers. -/
def orFlags (ws : List Nat) : Nat := ws.foldl (fun a w => a ||| cFlags w) 0

/-- Settle-in-one weights, Q1.23 (R145). -/
def settleWeights (hi : Bool) : List Int :=
  if hi then
    [0x40000, 0x40000, 0xC0000, 0xC0000, 0x100000, 0x100000, 0x100000, 0x100000, 0xC0000, 0xC0000, 0x40000, 0x40000]
  else [0x80000, 0x180000, 0x200000, 0x200000, 0x180000, 0x80000]

/-- The Settle-in-one output of an Ell of a channel (R145). -/
def settle (hi : Bool) (ws : List Nat) : Nat × Bool :=
  filterOut (((settleWeights hi).zip ws).map fun e => e.1 * cVal e.2).sum (2 ^ 23) (orFlags ws)

/-- Conversion number of an instance, for its coefficients. -/
def convOf (b : List Byte) : Nat := raFilt b * 25 + raIn b * 5 + raOut b

/-- One output of a polyphase filter over a window, newest sample first; `frac` in units of 2^-22 lies between two phases
(R142, R143). -/
def polyOut (conv phase frac : Nat) (win : List Nat) : Nat × Bool :=
  let sum := ((win.zipIdx).map fun e =>
    (Config.rateCoef conv phase e.2 * (2 ^ 22 - frac : Nat) + Config.rateCoef conv (phase + 1) e.2 * frac) * cVal e.1).sum
  filterOut sum (2 ^ 52) (orFlags win)

/-! ## Instances -/

namespace State
def rate (s : State) (i : Nat) : RateInst := tget {} s.rc.insts i
def setRate (s : State) (i : Nat) (x : RateInst) : State := { s with rc := { s.rc with insts := tset {} s.rc.insts i x } }
end State

/-- The containers of a channel at a rate in a run of slots, for data Ell `n`. -/
def chanRead (s : State) (n first ch rate : Nat) : List Nat :=
  if rate = 4 then slotRead s n (first + 2 * ch) ++ slotRead s n (first + 2 * ch + 1)
  else (slotRead s n (first + ch)).take (kRate rate)

/-- Writing the containers of a channel at a rate: the rest of a slot is zero (R139). -/
def chanWrite (n first ch rate : Nat) (ws : List Nat) (s : State) : State :=
  if rate = 4 then
    (putSlotWords n (first + 2 * ch + 1) (ws.drop 6)
      (putSlotWords n (first + 2 * ch) (ws.take 6) s)).setMark n (first + 2 * ch) 0 |>.setMark n (first + 2 * ch + 1) 0
  else (putSlotWords n (first + ch) ((ws ++ List.replicate 6 0).take 6) s).setMark n (first + ch) 0

/-- Whether a delta adds or replaces an instance at data Ell `n` (R149). -/
def deltaTouches (s : State) (n ty obj : Nat) : Bool :=
  s.cfg.deltaK == some n && recGet s.cfg.recs ty obj != recGet s.cfg.next ty obj

/-- A synchronising reset that is due takes effect (R149). -/
def applyReset (i : Nat) (b : List Byte) (s : State) (n : Nat) : State :=
  let x := s.rate i
  let cause := if deltaTouches s n tyRATE i then some 1 else x.pend
  match cause with
  | none => s
  | some c =>
    let y : RateInst :=
      { st := 3, pend := none, tLeft := if raMode b = 0 then tapsOf (raFilt b) else 0, ratio := x.ratio, stamps := x.stamps
        got := x.got, satEll := x.satEll, lastOut := x.lastOut }
    ((s.setRate i y).bump (baseRC + 0x204)).raise 9 0x902 [i, c]

/-- What an instance's Ell comes to: outputs of each channel, the state after it, and saturated samples by channel. -/
structure RateOut where
  outs : List (List Nat)
  inst : RateInst
  sats : List (Nat × Nat)

/-- The outputs still to carry `t` are marked (R150). -/
def markT (tLeft : Nat) (ws : List Nat) : List Nat :=
  (ws.zipIdx).map fun e => if e.2 < tLeft then e.1 ||| flagT else e.1

/-- A synchronous instance's Ell. -/
def syncEll (b : List Byte) (x : RateInst) (ins : List (List Nat)) : RateOut :=
  match raMode b with
  | 0 =>
    let ki := kRate (raIn b)
    let ko := kRate (raOut b)
    let res := (ins.zipIdx).map fun e =>
      let all := e.1.reverse ++ (tget [] x.hist e.2).map BitVec.toNat
      let outs := (List.range ko).map fun (m : Nat) =>
        let base := m * ki / ko
        let win := (all ++ List.replicate (ratW b) 0).drop (ki - 1 - base) |>.take (ratW b)
        polyOut (convOf b) (m * ratM b % ratL b) 0 win
      (outs, all.take (ratW b))
    { outs := res.map fun r => markT x.tLeft (r.1.map (·.1))
      inst := { x with
        hist := (res.zipIdx).foldl (fun t r => tset [] t r.2 (r.1.2.map (BitVec.ofNat 32))) x.hist
        tLeft := x.tLeft - ko }
      sats := (res.zipIdx).filterMap fun r =>
        let k := (r.1.1.filter (·.2)).length
        if k = 0 then none else some (r.2, k) }
  | 1 =>
    let res := ins.map fun ws => settle (raIn b == 4) ws
    { outs := res.map fun r => [r.1], inst := x,
      sats := (res.zipIdx).filterMap fun r => if r.1.2 then some (r.2, 1) else none }
  | _ => { outs := ins, inst := x, sats := [] }

/-- Saturation is counted, and logged for the first sample of an Ell that follows an Ell without (R163). -/
def noteSat (i n : Nat) (sats : List (Nat × Nat)) (s : State) : State :=
  match sats with
  | [] => s
  | (c, _) :: _ =>
    let x := s.rate i
    let s := (s.setRate i { x with satEll := n + 1 }).bumpBy (baseRC + 0x200) (sats.map (·.2)).sum
    if x.satEll = n ∧ n ≠ 0 then s else s.raise 9 0x901 [i, c]

/-- Residue mismatches of a lane (R151): `some twice` when the instance's Ell mismatched. -/
def badOf (bad : List LaneBad) (unit : Nat) : Option Bool := (bad.find? fun e => e.unit == unit).map (·.twice)

/-- An instance whose recomputation failed holds its last clean output with `c` (R151). -/
def holdOuts (b : List Byte) (x : RateInst) : List (List Nat) :=
  (List.range (raCh b)).map fun (c : Nat) =>
    List.replicate (kRate (raOut b)) ((tget 0 x.lastOut c).toNat ||| flagC)

/-- The end of an instance's Ell `n` on data Ell `d`: residue, saturation, last clean outputs, and the outputs themselves. -/
def finishInst (i n d : Nat) (b : List Byte) (bad : List LaneBad) (r : RateOut) (s : State) : List (List Nat) × State :=
  let keep (outs : List (List Nat)) (y : RateInst) : RateInst :=
    { y with lastOut := (outs.zipIdx).foldl (fun t e => tset 0 t e.2 (BitVec.ofNat 32 ((e.1.getLast?).getD 0))) y.lastOut }
  match badOf bad i with
  | none => (r.outs, noteSat i n r.sats (s.setRate i (keep r.outs r.inst)))
  | some twice =>
    let s := (laneMismatch 9 (raLane b) twice s).bump (baseRC + 0x208)
    if twice then
      (holdOuts b (s.rate i), ((s.setRate i r.inst).bump (baseRC + 0x20C)).raise 9 0x905 [i, d])
    else (r.outs, noteSat i n r.sats (s.setRate i (keep r.outs r.inst)))

/-- A synchronous instance in window B of Ell `n`. -/
def rateSync (n : Nat) (bad : List LaneBad) (s : State) (e : Nat × List Byte) : State :=
  let (i, b) := e
  if raKind b ≠ 0 then s
  else
    let s := applyReset i b s n
    let ins := (List.range (raCh b)).map fun c => chanRead s n (raInFirst b) c (raIn b)
    let (outs, s) := finishInst i n n b bad (syncEll b (s.rate i) ins) s
    (outs.zipIdx).foldl (fun s e => chanWrite n (raOutFirst b) e.2 (raOut b) e.1 s) s

/-! ## Asynchronous instances (R147, R148) -/

/-- Input samples per output, units of 2^-32: the measured ratio and what holds the FIFO at its target (R147). For a source the ratio
multiplies, for a sink it divides. -/
def asyncStep (b : List Byte) (ratio : Int) (fill : Nat) : Nat :=
  let den : Nat := 256000000
  let r := ((den : Int) + ratio + Config.fifoTrim fill (raTarget b)).toNat
  if raKind b = 1 then kRate (raIn b) * r * 2 ^ 32 / (kRate (raOut b) * den) else kRate (raIn b) * den * 2 ^ 32 / (kRate (raOut b) * r)

/-- Moving whole input samples from the FIFO into the history. -/
def asyncTake (w : Nat) : Nat → RateInst → RateInst
  | 0, x => x
  | k + 1, x =>
    if x.pos < 2 ^ 32 then x
    else
      match x.fifo with
      | [] => { x with pos := x.pos % 2 ^ 32 }
      | f :: r =>
        asyncTake w k { x with
          fifo := r
          pos := x.pos - 2 ^ 32
          hist := (f.zipIdx).foldl (fun t e => tset [] t e.2 ((e.1 :: tget [] t e.2).take w)) x.hist }

/-- `k` converted output frames, and whether each sample saturated. -/
def asyncConvert (b : List Byte) : Nat → RateInst → List (List (Nat × Bool)) × RateInst
  | 0, x => ([], x)
  | k + 1, x =>
    let w := ratW b
    let frame := (List.range (raCh b)).map fun c =>
      polyOut (convOf b) (x.pos / 2 ^ 22) (x.pos % 2 ^ 22) (((tget [] x.hist c).map BitVec.toNat ++ List.replicate w 0).take w)
    let x := asyncTake w 8 { x with pos := x.pos + asyncStep b x.ratio x.fifo.length }
    let x := { x with tLeft := x.tLeft - 1 }
    let (fs, x) := asyncConvert b k x
    (frame :: fs, x)

/-- An asynchronous instance's Ell of `k` outputs. -/
def asyncEll (b : List Byte) (k : Nat) (x : RateInst) : RateOut :=
  let zeros : List (List Nat) := List.replicate (raCh b) (List.replicate k (flagC ||| flagT))
  let x :=
    if x.st = 3 ∧ ¬ x.primed ∧ raTarget b ≤ x.fifo.length then
      { x with primed := true, fifo := x.fifo.drop (x.fifo.length - raTarget b) }
    else x
  if x.st = 5 ∨ x.st = 6 then
    let len := 8 * kRate (raOut b)
    let outs := (List.range (raCh b)).map fun (c : Nat) => (List.range k).map fun (i : Nat) =>
      concealed (tget 0 x.lastOut c).toNat len (x.fade + 1 + i) ||| flagT
    { outs := outs, inst := { x with fade := x.fade + k }, sats := [] }
  else if ¬ x.primed then { outs := zeros, inst := x, sats := [] }
  else
    let t := x.tLeft
    let locked := x.st == 4
    let (fs, x) := asyncConvert b k x
    let chan (c : Nat) : List (Nat × Bool) := fs.map fun f => f.getD c (0, false)
    { outs := (List.range (raCh b)).map fun c =>
        let ws := (chan c).map (·.1)
        if locked then markT t ws else ws.map (· ||| flagT)
      inst := x
      sats := (List.range (raCh b)).filterMap fun c =>
        let m := ((chan c).filter (·.2)).length
        if m = 0 then none else some (c, m) }

/-- RC_UNLOCK (R148). -/
def rcUnlock (i cause : Nat) (s : State) : State := (s.bump (baseRC + 0x210)).raise 9 0x904 [i, cause]

/-- A LOCKED instance whose fill has left its window slips (R148). -/
def slipCheck (i : Nat) (b : List Byte) (s : State) : State :=
  let x := s.rate i
  let f := x.fifo.length
  if x.st = 4 ∧ (f + 8 < raTarget b ∨ raTarget b + 8 < f) then
    rcUnlock i 0 (s.setRate i { x with st := 3, primed := false, ratios := [], pend := some 3 })
  else s

/-- An asynchronous input in window A, for data Ell `n`. -/
def rateAsyncIn (n : Nat) (bad : List LaneBad) (s : State) (e : Nat × List Byte) : State :=
  let (i, b) := e
  if raKind b ≠ 1 then s
  else
    let s := applyReset i b s n
    let x := s.rate i
    let x0 := if x.st = 5 ∨ x.st = 6 then x.lastOut else []
    let (outs, s) := finishInst i n n b bad (asyncEll b (kRate (raOut b)) x) s
    let s := if x.st = 5 ∨ x.st = 6 then s.setRate i { s.rate i with lastOut := x0 } else s
    let s := (outs.zipIdx).foldl (fun s e => chanWrite n (raOutFirst b) e.2 (raOut b) e.1 s) s
    slipCheck i b s

/-- An asynchronous output in window B of Ell `n`: it takes data Ell n − 2 and fills the sink. -/
def rateAsyncOut (n : Nat) (bad : List LaneBad) (s : State) (e : Nat × List Byte) : State :=
  let (i, b) := e
  if raKind b ≠ 2 then s
  else
    let s := applyReset i b s (n - 2)
    let x := s.rate i
    let ins := (List.range (raCh b)).map fun c => chanRead s (n - 2) (raInFirst b) c (raIn b)
    let frames := (List.range (kRate (raIn b))).map fun (j : Nat) => ins.map fun ws => BitVec.ofNat 32 (ws.getD j 0)
    let x := { x with fifo := (x.fifo ++ frames).drop ((x.fifo ++ frames).length - 64) }
    let x0 := if x.st = 5 ∨ x.st = 6 then x.lastOut else []
    let (outs, s) := finishInst i n (n - 2) b bad (asyncEll b x.owed x) s
    let y := s.rate i
    let y := if x.st = 5 ∨ x.st = 6 then { y with lastOut := x0 } else y
    let sink := (outs.zipIdx).foldl (fun t e => tset [] t e.2 (e.1.map (BitVec.ofNat 32))) []
    slipCheck i b (s.setRate i { y with sink := sink })

/-- Samples per Ell at the local side of an asynchronous instance. -/
def localRate (b : List Byte) : Nat := kRate (if raKind b = 1 then raIn b else raOut b)

/-- The offset of a local clock from the media clock in 1/256 ppm, from the GTS at which samples arrived or departed, newest first
(R147). The tracker measures over the samples of 8 Ells (DESIGN CHOICE, log 33). -/
def measuredRatio (b : List Byte) (stamps : List Nat) : Option Int :=
  match stamps, stamps.getLast? with
  | g :: _, some g0 =>
    if g ≤ g0 then none
    else some ((((stamps.length - 1) * 500000 * 256000000 / (localRate b * (g - g0)) : Nat) : Int) - 256000000)
  | _, _ => none

/-- A sample arrived or departed at GTS `g`. -/
def noteStamp (b : List Byte) (g : Nat) (x : RateInst) : RateInst := { x with stamps := (g :: x.stamps).take (8 * localRate b + 1) }

/-- The tracker of an asynchronous instance at a tick (R147, R148): the samples that its sink took, range, loss of samples, lock. -/
def rateTrack (sinks : List (Nat × List Gts)) (s : State) (e : Nat × List Byte) : State :=
  let (i, b) := e
  if raKind b = 0 then s
  else
    let x := s.rate i
    let took := if raKind b = 2 then (sinks.filter fun r => r.1 == i).flatMap (·.2) else []
    let x := took.foldl (fun x g => noteStamp b g.toNat x) { x with owed := took.length }
    let s := s.setRate i x
    let ratio := (measuredRatio b x.stamps).getD x.ratio
    let out := decide (256000 < ratio.natAbs)
    let lost := raKind b == 1 && !x.got
    let x := { x with ratio := ratio, ratios := (ratio :: x.ratios).take 9, got := false }
    let s1 := s.setRate i x
    if x.st = 6 then s1
    else if lost then rcUnlock i 2 (s.setRate i { x with st := 6, fade := 0, primed := false, ratios := [], stamps := [] })
    else if x.st = 5 then
      if out then s1 else s.setRate i { x with st := 3, fade := 0, primed := false, ratios := [ratio] }
    else if out ∧ x.stamps.length = 8 * localRate b + 1 then rcUnlock i 1 (s.setRate i { x with st := 5, fade := 0, primed := false, ratios := [] })
    else if x.st = 3 then
      let hi := x.ratios.foldl max ratio
      let lo := x.ratios.foldl min ratio
      let f := x.fifo.length
      if x.primed ∧ x.ratios.length = 9 ∧ hi - lo < 256 ∧ raTarget b ≤ f + 1 ∧ f ≤ raTarget b + 1 then
        (s.setRate i { x with st := 4 }).raise 9 0x903 [i, wrap 32 ratio]
      else s1
    else s1

/-- Frames of a local source reach the instances that name it in the structure of the data Ell that they will serve (R140, R147,
R59). -/
def ratePush (code : Nat) (frame : List Word) (s : State) : State :=
  (recsOf (s.recsAt (s.ell + 1)) tyRATE).foldl (fun s e =>
    let (i, b) := e
    if raKind b = 1 ∧ raInFirst b / 256 = code then
      let x := s.rate i
      let f := (frame.drop (raInFirst b % 256)).take (raCh b)
      let x := noteStamp b s.now { x with fifo := (x.fifo ++ [f]).drop (x.fifo.length + 1 - 64), got := true }
      let x := if x.st = 6 then { x with st := 3, fade := 0, primed := false, ratios := [], fifo := [f] } else x
      s.setRate i x
    else s) s

/-- A local port reports loss of lock to the instances that name it (R148). -/
def rateLost (code : Nat) (s : State) : State :=
  (recsOf s.cfg.recs tyRATE).foldl (fun s e =>
    let (i, b) := e
    let x := s.rate i
    let mine := (raKind b == 1 && raInFirst b / 256 == code) || (raKind b == 2 && raOutFirst b / 256 == code)
    if mine ∧ x.st ≠ 6 then rcUnlock i 2 (s.setRate i { x with st := 6, fade := 0, primed := false, ratios := [] }) else s) s

/-- A sink whose port runs again leaves SOURCE_LOST (R148). -/
def rateSinkBack (code : Nat) (s : State) : State :=
  (recsOf s.cfg.recs tyRATE).foldl (fun s e =>
    let (i, b) := e
    let x := s.rate i
    if raKind b = 2 ∧ raOutFirst b / 256 = code ∧ x.st = 6 then
      s.setRate i { x with st := 3, fade := 0, primed := false, ratios := [] }
    else s) s

/-- RC_RESET through RC_CTRL (R149). -/
def opRcReset (m : Master) (i : Nat) : State → State :=
  guardWrite m baseRC fun s =>
    if (s.recNow tyRATE i).isSome then s.setRate i { s.rate i with pend := some 2 } else s

def execRcReset (t : Gts) (m : Master) (i : BitVec 8) : State → Host.Outcome State Fault Refusal := act t (opRcReset m i.toNat)

/-- Window A of data Ell `n`. -/
def rcPlayout (n : Nat) (bad : List LaneBad) (s : State) : State := (recsOf (s.recsAt n) tyRATE).foldl (rateAsyncIn n bad) s

/-- Window B of Ell `n`: an asynchronous output works on data Ell n − 2 (R147), and under the structure that handles it (R59). -/
def rcTick (n : Nat) (bad : List LaneBad) (sinks : List (Nat × List Gts)) (s : State) : State :=
  let r := recsOf (s.recsAt n) tyRATE
  let r2 := recsOf (s.recsAt (n - 2)) tyRATE
  let s := (r.filter fun e => raKind e.2 == 1).foldl (rateTrack sinks) s
  let s := (r2.filter fun e => raKind e.2 == 2).foldl (rateTrack sinks) s
  let s := r.foldl (rateSync n bad) s
  r2.foldl (rateAsyncOut n bad) s

/-- An asynchronous output that a delta adds or replaces at data Ell k first handles it at the delta's commit (R149). -/
def deltaRate (s : State) (e : Nat × Option (List Byte) × Option (List Byte)) : State :=
  match e.2.2 with
  | some b => if raKind b = 2 then s.setRate e.1 { s.rate e.1 with pend := some 1 } else s
  | none => s

/-- RATE_CHAIN_COMPLETE (R152): the report of window B. -/
def execRateChainComplete (t : Gts) (hc : BitVec 32) : State → Host.Outcome State Fault Refusal :=
  act t fun s =>
    if ¬ s.audioOn ∨ s.rc.doneEll = s.ell + 1 then s
    else
      let n := hc.toNat
      let s := { s with rc := { s.rc with doneEll := s.ell + 1, hcLast := satN 16 n, late := decide (12500 < n) } }
      let s := s.updSup fun u => { u with rcExcess := n - 12500 }
      if 12500 < n then (s.bump (baseRC + 0x214)).raise 9 0x906 [n] else s

/-! ## Scan sets (R158, R159) -/

def scBlock (b : List Byte) : Nat := u16 b 0
def scOn (b : List Byte) : Nat := byteAt b 2
def scOff (b : List Byte) : Nat := byteAt b 3
def scBins (b : List Byte) : Nat := byteAt b 4
def scShare (b : List Byte) : Nat := byteAt b 5
def scFreq (b : List Byte) (k : Nat) : Nat := u16 b (0x40 + 16 * k)
def scRole (b : List Byte) (k : Nat) : Nat := byteAt b (0x42 + 16 * k)
def scIndex (b : List Byte) (k : Nat) : Nat := byteAt b (0x43 + 16 * k)
def scAmp (b : List Byte) (k : Nat) : Nat := u32 b (0x44 + 16 * k)
def scBinShare (b : List Byte) (k : Nat) : Nat := byteAt b (0x48 + 16 * k)
def scHas (b : List Byte) (ch : Nat) : Bool := bit (byteAt b (0x1C0 + ch / 8)) (ch % 8)

/-- Bins of a role, with its index. -/
def scOf (b : List Byte) (role : Nat) : List (Nat × Nat) :=
  (List.range (scBins b)).filterMap fun k => if scRole b k = role then some (scIndex b k, k) else none

/-- Layout of a SCANSET body (R158, R461). -/
def formSCANSET (b : List Byte) : Bool :=
  b.length == 960 && decide (u32 b 8 < 2 ^ 24) && decide (u32 b 0xC < 2 ^ 24) && decide (u32 b 0x14 < 2 ^ 24) &&
    decide (u32 b 0x18 < 2 ^ 24) && allZero (slice b 0x1C 36) &&
    (List.range 24).all fun k => decide (scRole b k < 7) && decide (scAmp b k < 2 ^ 24) &&
      allZero (slice b (0x49 + 16 * k) 7)

/-- The rules of R158 and R159 that concern one set. -/
def limitSCANSET (b : List Byte) : Bool :=
  let full (role : Nat) : Bool := (List.range 4).all fun i => ((scOf b role).filter fun e => e.1 == i).length == 1
  let none' (role : Nat) : Bool := (scOf b role).isEmpty
  decide (32 ≤ scBlock b) && decide (scBlock b ≤ 1024) && decide (1 ≤ scOn b) && decide (scOn b ≤ 15) && decide (1 ≤ scOff b) &&
    decide (scOff b ≤ 15) && decide (scBins b ≤ 24) && decide (1 ≤ u16 b 0x10) &&
    ((List.range (scBins b)).all fun k =>
      decide (scFreq b k < 16000) && (scRole b k == 0 || decide (4 < scRole b k) || decide (scIndex b k < 4))) &&
    ((none' 1 && none' 2) || (full 1 && full 2)) && ((none' 3 && none' 4) || (full 3 && full 4)) &&
    decide ((scOf b 5).length ≤ 1)

/-- The set of a channel in a structure. -/
def setOf (sets : List (Nat × List Byte)) (ch : Nat) : Option (Nat × List Byte) := sets.find? fun e => scHas e.2 ch

/-! ## Tones (R157, R160, R161) -/

/-- π in units of 2^-96. -/
def piQ : Int := 248902613312231085230521944622

/-- Terms of the cosine series: `t` is the last term, units of 2^-96. -/
def cosTerms (x2 : Int) : Nat → Nat → Int → Int
  | 0, _, _ => 0
  | k + 1, i, t => t + cosTerms x2 k (i + 2) (-(t * x2 / 2 ^ 96) / ((i + 1) * (i + 2) : Nat))

/-- c of a bin: 2 cos(2π f / 8,000) rounded to Q2.22. -/
def binCoef (freq : Nat) : Int :=
  let x := 2 * piQ * freq / 32000
  rneDiv (2 * cosTerms (x * x / 2 ^ 96) 40 0 (2 ^ 96)) (2 ^ 74)

/-- One Ell of a bin, exactly: `acc` is (s1, s2) at the scale 2^(22 j). -/
def binStep (c x : Int) (j : Nat) (acc : Int × Int) : Int × Int :=
  (x * 2 ^ (22 * (j + 1)) + c * acc.1 - acc.2 * 2 ^ 22, acc.1 * 2 ^ 22)

/-- P of a bin at the end of a block of `j` Ells, at the scale 2^(44 j + 22). -/
def binPower (c : Int) (acc : Int × Int) : Nat := ((acc.1 * acc.1 + acc.2 * acc.2) * 2 ^ 22 - c * acc.1 * acc.2).toNat

/-- A block at its end: the powers of its bins, the scale of 4 P to a², and its mean square. -/
structure Block where
  pow : List Nat
  scale : Nat
  sq : Nat
  cnt : Nat

/-- Amplitude at least `a`. -/
def ampGe (k : Block) (p a : Nat) : Bool := decide (a * a * k.scale ≤ 4 * p)

/-- Share of some tones at least `m` / 256. -/
def shareGe (k : Block) (ps : List Nat) (m : Nat) : Bool :=
  if k.sq = 0 then m == 0 else decide (m * k.sq * k.scale ≤ 512 * ps.sum * k.cnt)

/-- The digit for which a block qualifies (R160). -/
def digitOf (b : List Byte) (k : Block) : Option Nat :=
  let best (role : Nat) : Option (Nat × Nat) :=
    (scOf b role).foldl (fun m e =>
      let p := k.pow.getD e.2 0
      match m with
      | none => some (e.1, p)
      | some (_, q) => if q < p then some (e.1, p) else m) none
  let harmOk (role i p : Nat) : Bool :=
    match (scOf b role).find? fun e => e.1 == i with
    | none => true
    | some e => decide (k.pow.getD e.2 0 ^ 10 * 10 ^ byteAt b 0x12 ≤ p ^ 10)
  match best 1, best 2 with
  | some (r, pr), some (c, pc) =>
    if ampGe k pr (u32 b 8) && ampGe k pc (u32 b 8) && shareGe k [pr, pc] (scShare b) &&
        decide (pc ^ 20 ≤ pr ^ 20 * 10 ^ byteAt b 6) && decide (pr ^ 20 ≤ pc ^ 20 * 10 ^ byteAt b 7) &&
        harmOk 3 r pr && harmOk 4 c pc then some (4 * r + c) else none
  | _, _ => none

/-- Whether a line-up bin qualifies (R161). -/
def lineupOk (b : List Byte) (k : Block) (p : Nat) : Bool :=
  let r := u32 b 0x18 * u32 b 0x18 * k.scale
  let tol := 10 ^ byteAt b 0x13
  shareGe k [p] (scShare b) && decide ((4 * p) ^ 200 ≤ r ^ 200 * tol) && decide (r ^ 200 ≤ (4 * p) ^ 200 * tol)

/-- An on/off decision (R160): whether it is on, and the runs of qualifying and failing blocks. -/
def onOff (on off : Nat) (q isOn : Bool) (onN offN : Nat) : Bool × Nat × Nat :=
  let onN := if q then onN + 1 else 0
  let offN := if q then 0 else offN + 1
  (if isOn then !decide (off ≤ offN) else decide (on ≤ onN), onN, offN)

/-- What the end of a block changes, and its events. -/
def blockEnd (ch set : Nat) (b : List Byte) (t : ToneState) : ToneState × List (Nat × List Nat) :=
  let k : Block :=
    { pow := (List.range (scBins b)).map fun i => binPower (binCoef (scFreq b i)) (t.acc.getD i (0, 0)),
      scale := t.j * t.j * 2 ^ (44 * t.j + 22), sq := t.sq, cnt := t.cnt }
  let dig := if t.fail then none else digitOf b k
  let onN := if dig.isNone then 0 else if dig = t.cand then t.onN + 1 else 1
  let offN := if t.digOn.isNone ∨ dig = t.digOn then 0 else t.offN + 1
  let (digOn, e1) :=
    match t.digOn with
    | some d => if scOff b ≤ offN then (none, [(0xA05, [ch, d])]) else (some d, [])
    | none => (none, [])
  let (digOn, e2) :=
    match digOn, dig with
    | none, some d => if scOn b ≤ onN then (some d, [(0xA04, [ch, d, set])]) else (none, [])
    | d, _ => (d, [])
  let lu : Bool := !t.fail && (scOf b 5).any fun e => lineupOk b k (k.pow.getD e.2 0)
  let (luOn, luOnN, luOffN) := onOff (scOn b) (scOff b) lu t.luOn t.luOnN t.luOffN
  let e3 := if luOn = t.luOn then [] else [(if luOn then 0xA06 else 0xA07, [ch])]
  let custom := (scOf b 6).map (·.2)
  let qual (i : Nat) : Bool := !t.fail && ampGe k (k.pow.getD i 0) (scAmp b i) && shareGe k [k.pow.getD i 0] (scBinShare b i)
  let res := custom.map fun i => (i, onOff (scOn b) (scOff b) (qual i) (bit t.tones i) (tget 0 t.tOnN i) (tget 0 t.tOffN i))
  let e4 := res.filterMap fun r =>
    if r.2.1 = bit t.tones r.1 then none else some (if r.2.1 then 0xA08 else 0xA09, [ch, r.1])
  let digBins := match dig with
    | some d => ((scOf b 1).filter fun e => e.1 == d / 4).map (·.2) ++ ((scOf b 2).filter fun e => e.1 == d % 4).map (·.2)
    | none => []
  let bins := digBins ++ (if lu then (scOf b 5).map (·.2) else []) ++ custom.filter qual
  ({ t with
      act := false, j := 0, acc := [], sq := 0, cnt := 0, fail := false, digOn := digOn, cand := dig, onN := onN, offN := offN,
      luOn := luOn, luOnN := luOnN, luOffN := luOffN
      tones := (res.map fun r => b2n r.2.1 * 2 ^ r.1).sum
      tOnN := res.foldl (fun m r => tset 0 m r.1 r.2.2.1) []
      tOffN := res.foldl (fun m r => tset 0 m r.1 r.2.2.2) []
      bins := bins.foldl (fun m i => m ||| 2 ^ i) 0 },
   e1 ++ e2 ++ e3 ++ e4)

/-- One Ell of tone detection. -/
def toneStep (n ch set : Nat) (b : List Byte) (hi : Bool) (ws : List Nat) (bad : Bool) (t : ToneState) :
    ToneState × List (Nat × List Nat) :=
  let t := if n % scBlock b = 0 then { t with act := true, j := 0, acc := [], sq := 0, cnt := 0, fail := false } else t
  if ¬ t.act then (t, [])
  else
    let x := cVal (settle hi ws).1
    let t := { t with
      acc := (List.range (scBins b)).map fun i => binStep (binCoef (scFreq b i)) x t.j (t.acc.getD i (0, 0))
      j := t.j + 1
      sq := t.sq + (ws.map fun w => (cVal w).natAbs ^ 2).sum
      cnt := t.cnt + ws.length
      fail := t.fail || bad }
    if (n + 1) % scBlock b = 0 then blockEnd ch set b t else (t, [])

/-! ## Measurements (R153-R156) -/

/-- Magnitudes of the interpolated points of an Ell, from the samples of data Ells n − 1 and n (R154): each interval from sample k to
k + 1 has three at 48 kHz and one, its middle, at 96 kHz, from samples k − 2 to k + 3. -/
def peakPoints (hi : Bool) (prev cur : List Nat) : List Nat :=
  let xs := (prev ++ cur).map cVal
  (List.range (if hi then 12 else 6)).flatMap fun (i : Nat) =>
    let win := (xs.drop (i + if hi then 7 else 1)).take 6
    (if hi then [2] else [1, 2, 3]).map fun (p : Nat) =>
      (rneDiv ((win.zipIdx).map fun e => Config.truePeakCoef p e.2 * e.1).sum (2 ^ 30)).natAbs

/-- The K-weighting of an Ell's samples: the state of the pre-filter and the sum of the squares, in units of 2^-78 (R154). -/
def kWeigh (hi : Bool) : List Nat → List Int → Nat → List Int × Nat
  | [], st, acc => (st, acc)
  | w :: r, st, acc =>
    let (y, st) := Config.kFilter hi st (cVal w)
    kWeigh hi r st (acc + y.natAbs ^ 2)

/-- z of R155 as a fraction: the mean of the mean squares of the last four blocks of 800 Ells. -/
def kMean (blocks : List (Nat × Nat)) : Nat × Nat :=
  blocks.foldl (fun a e => if e.2 = 0 then a else (a.1 * e.2 + e.1 * a.2, a.2 * e.2)) (0, 4 * 2 ^ 78)

/-- The exponent of `levelGe`. -/
def levelExp : Nat := 320000

/-- Whether −0.691 + 10 log10(z) LUFS is at least `m` / 256 (R155), that is 10^(1000 m + 176,896) ≤ z^2,560,000; exactly, with every
exponent divided by 8. -/
def levelGe (num den : Nat) (m : Int) : Bool :=
  let e := 125 * m + 22112
  decide (10 ^ e.toNat * den ^ levelExp ≤ num ^ levelExp * 10 ^ (-e).toNat)

/-- The greatest number in [lo, lo + 2^k) that satisfies a falling predicate, by halving. -/
def greatest (p : Int → Bool) : Nat → Int → Int
  | 0, lo => lo
  | k + 1, lo => greatest p k (if p (lo + 2 ^ k) then lo + 2 ^ k else lo)

/-- The momentary level in units of 1/256 LU and whether it lies below −70 LUFS (R155). Which neighbour a level between two units is
reported as is open (DESIGN CHOICE, log 33). -/
def momentary (blocks : List (Nat × Nat)) : Int × Bool :=
  let (num, den) := kMean blocks
  if num = 0 then (-32768, true)
  else
    let m := greatest (levelGe num den) 16 (-32768)
    (m + b2n (Config.levelUp num den), !levelGe num den (-17920))

/-- What a channel's tone detection depends on: its set, the header and the bins (R159). -/
def toneSetup (sets : List (Nat × List Byte)) (ch : Nat) : Option (Nat × List Byte) :=
  (setOf sets ch).map fun e => (e.1, e.2.take 0x1C0)

/-- One Ell of one channel: the channel after it, and its events. -/
def scanChan (s : State) (n ch : Nat) (hi : Bool) (set : Option (Nat × List Byte)) (bad : Bool) (x : ScanChan) :
    ScanChan × List (Nat × List Nat) :=
  let read (m : Nat) : List Nat :=
    (List.range 6).map (fun j => s.ellGet m ch j) ++ if hi then (List.range 6).map (fun j => s.ellGet m (ch + 1) j) else []
  let ws := read n
  let t0 : ToneState :=
    if s.cfg.deltaK = some n ∧ toneSetup (recsOf s.cfg.recs tySCANSET) ch ≠ toneSetup (recsOf s.cfg.next tySCANSET) ch then {} else x.tone
  let (tone, et) := match set with
    | some (k, b) => toneStep n ch k b hi ws bad t0
    | none => ({}, [])
  if bad then ({ x with skip := true, tone := tone }, et)
  else
    let peak := min (2 ^ 24 - 1) ((ws.map fun w => (cVal w).natAbs).foldl max 0)
    let tp := min (2 ^ 24 - 1) ((peakPoints hi (read (n - 1)) ws).foldl max peak)
    let (kst, ksq) := kWeigh hi ws x.kst x.ksq
    let lvl := match set with
      | some (_, b) => u32 b 0xC
      | none => s.rfld (baseRC + 0x10) 23 0
    let ells := match set with
      | some (_, b) => u16 b 0x10
      | none => s.rfld (baseRC + 0x14) 15 0
    let run := if peak < lvl then x.silRun + 1 else 0
    let silent := if peak < lvl then x.silent || decide (ells ≤ run) else false
    let es :=
      if silent ∧ ¬ x.silent then [(0xA01, [ch])]
      else if x.silent ∧ ¬ silent then [(0xA02, [ch, x.silRun])]
      else []
    let overNow := match set with
      | some (_, b) => u32 b 0x14 != 0 && decide (u32 b 0x14 < tp)
      | none => false
    let eo := if overNow ∧ ¬ x.overOn then [(0xA03, [ch, tp])] else []
    ({ x with
        peak := max x.peak peak, truePeak := max x.truePeak tp
        sq := x.sq + (ws.map fun w => (cVal w).natAbs ^ 2).sum
        cnt := x.cnt + ws.length, kst := kst, ksq := ksq, flags := x.flags ||| orFlags ws
        conc := x.conc + (ws.filter fun w => bit w 6).length
        overOn := x.overOn || overNow, silRun := run, silent := silent, tone := tone },
     es ++ eo ++ et)

/-- The period that ends closes a block of the K-weighting; the last four count (R155). -/
def closeBlock (x : ScanChan) : ScanChan := { x with kBlocks := ((x.ksq, x.cnt) :: x.kBlocks).take 4 }

/-- The result entry of a channel for the period that ends at Ell `n` (R155, R162). -/
def resultOf (n : Nat) (hi : Bool) (x : ScanChan) : List Nat :=
  let (mom, low) := momentary x.kBlocks
  let t := x.tone
  [x.peak * 256 + b2n (bit x.flags 6) * 128 + b2n (bit x.flags 5) * 64 + b2n (bit x.flags 4) * 32 + b2n x.silent * 16 +
     b2n hi * 8 + b2n low * 4 + b2n x.overOn * 2 + b2n x.skip,
   x.truePeak * 256,
   satN 32 (if x.cnt = 0 then 0 else x.sq / (x.cnt * 2 ^ 14)),
   wrap 16 mom * 65536 + satN 16 x.conc,
   satN 16 x.silRun * 65536 + t.digOn.getD 0 * 16 + b2n t.digOn.isSome * 8 + b2n t.luOn * 4,
   t.bins, t.tones, (n / 800 - 1) % 2 ^ 32]

/-- First slots of the 96 kHz pairs among the inputs of a structure. -/
def pairSlots (r : Recs) : List Nat :=
  let run (first ch : Nat) : List Nat := (List.range ch).map fun i => first + 2 * i
  (recsOf r tyRX).flatMap (fun e => if rxPlay e.2 && rate96 (rxCtl e.2) then run (rxFirst e.2) (chOf (rxCtl e.2)) else []) ++
    (recsOf r tyRATE).flatMap (fun e => if raKind e.2 = 1 ∧ raOut e.2 = 4 then run (raOutFirst e.2) (raCh e.2) else []) ++
    (recsOf r tyLOCAL).flatMap fun e =>
      if e.2.length = 48 ∧ byteAt e.2 0 = 1 ∧ byteAt e.2 1 = 4 ∧ u16 e.2 4 ≠ 0xFFFF then run (u16 e.2 4) (byteAt e.2 2) else []

/-- Logging the Scanner's events of one Ell under `ev_limit` (R163). -/
def scanLog (evs : List (Nat × List Nat)) (s : State) : State :=
  let lim := s.rfld (baseRC + 0x10) 31 24
  let s := (evs.take lim).foldl (fun s e => (s.bump (baseRC + 0x218)).raise 10 e.1 e.2) s
  s.bumpBy (baseRC + 0x21C) (evs.length - lim)

/-- The Scanner in window B of Ell `n`, over the channels listed. -/
def scanTick (n : Nat) (bad : List LaneBad) (s : State) : State :=
  let r := s.recsAt n
  let pairs := pairSlots r
  let sets := recsOf r tySCANSET
  let chans := (List.range 4096).filter fun c => !(c % 2 == 1 && pairs.contains (c - 1))
  let s :=
    if n % 800 = 0 then
      let at' (c : Nat) : ScanChan := closeBlock (tget {} s.rc.scan c)
      { s with rc := { s.rc with
          results := chans.foldl (fun t c => tset [] t c (resultOf n (pairs.contains c) (at' c))) []
          scan := chans.foldl (fun t c =>
            tset {} t c { at' c with
              peak := 0, truePeak := 0, sq := 0, ksq := 0, cnt := 0, flags := 0, conc := 0, skip := false, overOn := false }) s.rc.scan } }
    else s
  let s := bad.foldl (fun s e => laneMismatch 10 (e.unit / 128) e.twice s) s
  let (scan, evs) := chans.foldl (fun (a : Tbl ScanChan × List (Nat × List Nat)) c =>
      let twice := (badOf bad c).getD false
      let (x, es) := scanChan s n c (pairs.contains c) (setOf sets c) twice (tget {} a.1 c)
      (tset {} a.1 c x, a.2 ++ (if twice then [(0xA0A, [c, n])] else []) ++ es)) (s.rc.scan, [])
  let s := { s with rc := { s.rc with scan := scan } }
  scanLog evs (s.bumpBy (baseRC + 0x220) ((bad.filter fun e => e.twice && chans.contains e.unit).length))

/-! ## What the windows show (R164, R165) -/

/-- RC_STATUS. -/
def rcStatus (s : State) : Nat :=
  let rs := recsOf s.cfg.recs tyRATE
  b2n s.rc.late * 2 ^ 31 + (rs.filter fun e => raKind e.2 != 0 && (s.rate e.1).st == 4).length * 65536 + rs.length

/-- Word `w` of RC_ISTAT. -/
def rcStat (s : State) (i w : Nat) : Nat :=
  match s.recNow tyRATE i with
  | none => 0
  | some b =>
    let x := s.rate i
    match w with
    | 0 => (if raKind b = 0 then (if x.tLeft = 0 then 1 else 2) else x.st) * 2 ^ 29 + satN 16 x.tLeft
    | 1 => if raKind b = 0 then 0 else wrap 32 x.ratio
    | 2 => if raKind b = 0 then 0 else x.fifo.length
    | _ => if x.satEll = 0 then 0 else (x.satEll - 1) % 2 ^ 32

end Sys2Proof.Machine
end

