-- ==== Sys2Proof/Machine/Holm.lean ====
section
/-! DEFINITION. The holm array, [07]: instances, dispatch, failure and re-run, commit, concealment. -/

namespace Sys2Proof.Machine

/-! ## TASK (R43) -/

def tkHolm (b : List Byte) : Nat := byteAt b 0
def tkCore (b : List Byte) : Nat := byteAt b 1
def tkStage (b : List Byte) : Nat := byteAt b 2
def tkClass (b : List Byte) : Nat := byteAt b 3
def tkEntry (b : List Byte) : Nat := u32 b 4
def tkWcet (b : List Byte) : Nat := u32 b 8
def tkFoot (b : List Byte) : Nat := u32 b 0xC
def tkBase (b : List Byte) : Nat := u32 b 0x10
def tkLen (b : List Byte) : Nat := u32 b 0x14
def tkFlags (b : List Byte) : Nat := u32 b 0x18

/-- Number of the in-service core that owns a task: 5 x holm + core. -/
def tkOwner (b : List Byte) : Nat := 5 * tkHolm b + tkCore b

/-- Run charge of a task (R174). -/
def runCharge (b : List Byte) : Nat := tkWcet b + 256 + cdiv (tkFoot b) 32

/-- The tasks of an in-service core in the dispatch order of R53. -/
def tasksOn (r : Recs) (core : Nat) : List (Nat × List Byte) :=
  let mine := (recsOf r tyTASK).filter fun e => tkOwner e.2 == core
  mine.filter (fun e => tkClass e.2 == 0) ++ mine.filter (fun e => tkClass e.2 == 1) ++ mine.filter (fun e => tkClass e.2 == 2)

/-- `rnd` of an in-service core (R191, R462). -/
def rndOf (r : Recs) (core : Nat) : Bool := bit (byteAt ((recGet r tyDEVICE 0).getD []) (core / 8)) (core % 8)

/-- Stage of in-service core 4 x holm + core (R462). -/
def stageOf (r : Recs) (holm core : Nat) : Nat :=
  let j := 4 * holm + core
  byteAt ((recGet r tyDEVICE 0).getD []) (0xC + j / 4) / 4 ^ (j % 4) % 4

/-- Producers named in a DEPEND record. -/
def depsOf (r : Recs) (task : Nat) : List Nat :=
  let b := (recGet r tyDEPEND task).getD []
  (List.range (b.length / 2)).map fun i => u16 b (2 * i)

namespace State
def core (s : State) (i : Nat) : Core := tget {} s.ha.cores i
def setCore (s : State) (i : Nat) (x : Core) : State := { s with ha := { s.ha with cores := tset {} s.ha.cores i x } }
def task (s : State) (k : Nat) : Inst := tget {} s.ha.insts k
def setTask (s : State) (k : Nat) (x : Inst) : State := { s with ha := { s.ha with insts := tset {} s.ha.insts k x } }
def tstat (s : State) (t : Nat) : TaskStat := tget {} s.ha.stat t
def setTstat (s : State) (t : Nat) (x : TaskStat) : State := { s with ha := { s.ha with stat := tset {} s.ha.stat t x } }
end State

/-- The body of the task of an instance, in the structure of its data Ell. -/
def instBody (s : State) (k : Nat) : List Byte := (s.recAt (s.task k).data tyTASK (k % 4096)).getD []

/-- Whether a holm is power-gated (R168). -/
def gated (s : State) (h : Nat) : Bool := bit (p1Mask s) h && pstate s == 1

/-- Counter `o` of a holm (R189). -/
def haCtr (h o : Nat) : Nat := baseHA h + o

/-- An event of a holm (R187). -/
def haEvent (h src v : Nat) (d : List Nat) (s : State) : State := s.raise src ((0x70 + h) * 256 + v) d

/-! ## Standby cores (R182, R185) -/

/-- The core taken over by a standby core, if any. -/
def takenBy (s : State) (sb : Nat) : Option Nat := (s.ha.take.find? fun e => e.2 == sb).map (·.1)

/-- The instance that a granted standby core serves until it is final (R182). -/
def servedBy (s : State) (i : Nat) : Option Nat :=
  (s.ha.insts.find? fun e => e.2.live && !e.2.fin && e.2.granted.contains i).map (·.1)

/-- Whether holm `h`'s standby core is FREE. -/
def standbyFree (s : State) (h : Nat) : Bool :=
  let i := 5 * h + 4
  !gated s h && !s.isFrozen (32 + i) && (s.core i).st == 0 && (servedBy s i).isNone && (takenBy s i).isNone

/-- The instance that was granted standby core `i` in this grain for a request of a source above `src`; its attempt has not been
dispatched (R27). -/
def outranked (s : State) (src i : Nat) : Option Nat :=
  (s.ha.insts.find? fun e =>
    e.2.live && !e.2.fin && e.2.next.map (·.2) == some i && e.2.req.1 == s.now && decide (src < e.2.req.2)).map (·.1)

/-- Whether a request of source `src` is granted standby core `i`. -/
def canServe (s : State) (src i : Nat) : Bool := standbyFree s (i / 5) || (outranked s src i).isSome

/-- The standby core of the nearest powered holm above, or else below, when it is FREE (R182). -/
def remoteStandby (s : State) (src h : Nat) : Option Nat :=
  let near (f : Nat → Nat) : Option Nat := ((List.range 15).map fun k => f (k + 1)).find? fun g => !gated s g
  let free (g : Option Nat) : Option Nat := g.bind fun g => if canServe s src (5 * g + 4) then some (5 * g + 4) else none
  (free (near fun k => (h + k) % 16)).or (free (near fun k => (h + 16 - k) % 16))

/-! ## Final instances (R176, R183, R186) -/

/-- An instance becomes final, and its status entry follows (R186). -/
def finish (k svc : Nat) (s : State) : State :=
  let x := s.task k
  let t := k % 4096
  (s.setTask k { x with fin := true, next := none, run := none }).setTstat t
    { s.tstat t with
      svc := svc, cause := x.cause, attempt := x.attempt, core := x.lastCore, faults := satN 16 ((s.tstat t).faults + x.faults) }

/-- The data Ell under which an instance's slots stand: a delayed instance's wait apart (R34). -/
def slotsEll (k n : Nat) : Nat := if 4096 ≤ k then lateEll n else n

/-- An instance is abandoned: its slots are concealed (R182, R183). -/
def abandon (k cause : Nat) (s : State) : State :=
  let x := s.task k
  if ¬ x.live ∨ x.fin then s
  else
    let t := k % 4096
    let h := tkHolm (instBody s k)
    let s := s.setTask k { x with cause := if x.cause = 0 then cause else x.cause }
    let s := (writeSlots (s.recsAt x.data) t).foldl (fun s e => ellConceal (slotsEll k x.data) e s) s
    let s := s.setTstat t { s.tstat t with concealed := satN 16 ((s.tstat t).concealed + 1) }
    let s := haEvent h (112 + h) 3 [t, x.data % 2 ^ 32] (s.bump (haCtr h 0x218))
    finish k 2 s

/-- The standby core, and the number of the attempt on it, that follow a failed attempt `a`, on a request of source `src` (R182). -/
def nextPlace (s : State) (src h a : Nat) : Option (Nat × Nat) :=
  if a = 0 ∧ canServe s src (5 * h + 4) then some (1, 5 * h + 4)
  else if a ≤ 1 then (remoteStandby s src h).map fun i => (2, i)
  else none

/-- The next step of R182 after attempt `a` has failed or could not be made. An instance that was granted the core in the same grain
for a later source requests again (R27). -/
def rerunIn : Nat → Nat → Nat → Nat → State → State
  | 0, k, _, _, s => abandon k 9 s
  | fuel + 1, k, a, src, s =>
    let x := s.task k
    let y := { x with run := none, passed := true }
    if x.fin then s
    else
      match nextPlace s src (tkHolm (instBody s k)) a with
      | none => abandon k 9 (s.setTask k y)
      | some (a', i) =>
        let late := outranked s src i
        let s := s.setTask k { y with next := some (a', i), granted := i :: x.granted, req := (s.now, src) }
        match late with
        | none => s
        | some k2 =>
          let z := s.task k2
          rerunIn fuel k2 (if z.next.map (·.1) = some 1 then 0 else 1) z.req.2
            (s.setTask k2 { z with next := none, granted := z.granted.erase i })

/-- The next step of R182; no more than 80 cores request. -/
def rerun (k a src : Nat) (s : State) : State := rerunIn 80 k a src s

/-- A core is left without an attempt; its instruction buffer stays. -/
def clearCore (i : Nat) (s : State) : State := s.setCore i { ibuf := (s.core i).ibuf, trace := (s.core i).trace }

/-- A failed attempt's instance passes on (R182). STATE_LOST and PROG_LOST abandon it. -/
def passOn (i cause : Nat) (s : State) : State :=
  let c := s.core i
  let x := s.task c.inst
  let s := (clearCore i s).setTask c.inst { x with cause := if x.cause = 0 then cause else x.cause, run := none, passed := true }
  if cause = 3 ∨ cause = 10 ∨ cause = 11 then abandon c.inst cause s else rerun c.inst c.attempt (32 + i) s

/-- TASK_FAULT: an attempt of an instance has failed on a core (R182, R187, R189). -/
def noteFault (k i cause a : Nat) (s : State) : State :=
  let t := k % 4096
  let h := tkHolm (instBody s k)
  let s := (haEvent h (32 + i) 1 [t, 32 + i, cause, a] s).bump (haCtr h 0x208)
  s.setTask k { s.task k with faults := (s.task k).faults + 1 }

/-- A core is frozen (R355): its attempt fails with cause FREEZE (R185). -/
def freezeCore (i cause : Nat) (s : State) : State :=
  if s.isFrozen (32 + i) then s
  else
    let s := freeze (32 + i) cause s
    let c := s.core i
    if c.st = 0 then s else passOn i 8 (noteFault c.inst i 8 c.attempt s)

/-- A recurring fault of a core: the third within 8,000 Ells freezes it (R355). -/
def recurring (i : Nat) (s : State) : State :=
  let l := s.ell :: (tget [] s.sup.faultElls (32 + i)).filter fun e => decide (s.ell < e + 8000)
  let s := s.updSup fun u => { u with faultElls := tset [] u.faultElls (32 + i) l }
  if 3 ≤ l.length then freezeCore i 1 s else s

/-- A violation by a core (R360). -/
def violateCore (i addr : Nat) (write : Bool) (s : State) : State :=
  let s := (s.raiseSv 0x40 [32 + i, addr, b2n write, 0x100]).bump (baseSV + 0x700)
  s.updSup fun u =>
    if bit u.violInfo 22 then u
    else { u with violAddr := addr, violInfo := (32 + i) * 2 ^ 24 + b2n write * 2 ^ 23 + 2 ^ 22 + 2 ^ 8 }

/-- The freeze or the quarantine that follows a violation (R360, R361). -/
def afterViolation (i t attempt pc : Nat) (s : State) : State :=
  match s.sup.frozePc.find? fun e => e.2 == (t, pc) with
  | some (src, _) =>
    if attempt = 0 then freezeCore i 0 (s.updSup fun u => { u with frozePc := (32 + i, t, pc) :: u.frozePc })
    else
      let s := s.updSup fun u => { u with release := insertN u.release src, quarantined := insertN u.quarantined t }
      (s.raiseSv 0x43 [t, pc]).bump (baseSV + 0x728)
  | none =>
    let s := if attempt = 0 then s.updSup fun u => { u with frozePc := (32 + i, t, pc) :: u.frozePc } else s
    freezeCore i 0 s

/-- An attempt fails (R181, R182). `addr` and `write` describe a refused access. -/
def failAttempt (i cause addr : Nat) (write recur : Bool) (s : State) : State :=
  let c := s.core i
  if c.st = 0 then s
  else
    let t := c.inst % 4096
    let pc := c.regs.pc.toNat
    let s := if cause = 4 then violateCore i addr write s else s
    let s := noteFault c.inst i cause c.attempt s
    let s := if cause = 5 ∧ c.hc ≤ tkWcet (instBody s c.inst) then s.updSup fun u => { u with shortNow := true } else s
    let s := passOn i cause s
    let s := if cause = 4 then afterViolation i t c.attempt pc s else s
    if recur then recurring i s else s

/-! ## Dispatch (R169, R170, R173, R174) -/

/-- TK_ENTRY of an attempt (R170). -/
def entryWord (s : State) (k a : Nat) : Nat :=
  let t := s.tstat (k % 4096)
  b2n (t.last == 0 && !t.lost) + b2n t.lost * 2 + a * 4 + b2n (decide (4096 ≤ k)) * 16

/-- TK_GAP (R170). -/
def gapOf (s : State) (k : Nat) : Nat :=
  let t := s.tstat (k % 4096)
  if t.last = 0 ∨ t.lost then 0 else satN 24 ((s.task k).data + 1 - t.last)

/-- Slot deadline of an attempt dispatched now (R174). -/
def slotDeadline (s : State) (b : List Byte) : Nat :=
  let g := tget 0 s.ha.pace (tkHolm b)
  let c := 4 * runCharge b
  s.now + if g = 0 ∨ 4096 ≤ g then c else cdiv (c * 4096) g

/-- The registers at dispatch (R169): P0 and B0 at the state region, the rest zero, with matching residues and parity. -/
def startRegs (base : BitVec 22) (rnd : Bool) (entry : BitVec 17) : Regs :=
  let zero : Vector (BitVec 22) 8 := Vector.replicate 8 0
  let res : Vector (BitVec 3) 8 := Vector.replicate 8 0
  { p := zero.set 0 base, b := zero.set 0 base, pRes := res.set 0 (res7 base.toNat), bRes := res.set 0 (res7 base.toNat), rnd := rnd,
    swPar := rnd, pc := entry, pcPar := ((List.range 17).filter fun i => entry.getLsbD i).length % 2 == 1 }

/-- An attempt starts on a core, in the state of R169. -/
def startAttempt (k a i : Nat) (takeover : Bool) (s : State) : State :=
  let x := s.task k
  let b := instBody s k
  let r := s.recsAt x.data
  let h := tkHolm b
  let regs := startRegs (BitVec.ofNat 22 (tkBase b)) (rndOf r (tkOwner b)) (BitVec.ofNat 17 (tkEntry b))
  let old := s.core i
  let c : Core :=
    { st := 1, inst := k, attempt := a, data := x.data, strait := i / 5 != h, disp := s.now
      slotDl := if a = 2 then x.stageEnd else slotDeadline s b
      stageDl := x.stageEnd, entryW := entryWord s k a, gap := gapOf s k, regs := regs, ibuf := old.ibuf, trace := old.trace }
  let s := (s.setCore i c).setTask k { x with attempt := a, lastCore := i, next := none, run := some i }
  let s := s.bump (haCtr (i / 5) 0x200)
  if takeover then s
  else if a = 1 then s.bump (haCtr h 0x20C)
  else if a = 2 then haEvent h (112 + h) 2 [k % 4096, i / 5] ((s.bump (haCtr h 0x210)).bump (haCtr (i / 5) 0x214))
  else s

/-- The core on which attempt 0 of a task is made: its own, or the standby core that has taken its schedule over, whose
attempts count as 1, or as 2 over the Strait. -/
def placeOf (s : State) (owner : Nat) : Option (Nat × Nat) :=
  match s.ha.take.find? fun e => e.1 == owner with
  | some (_, sb) => if s.isFrozen (32 + sb) then none else some (if sb / 5 = owner / 5 then 1 else 2, sb)
  | none => if s.isFrozen (32 + owner) then none else some (0, owner)

/-- The conditions of R173 but for the core itself. On a frozen core that no standby core has taken over, the task before must be
final (R355). -/
def mayDispatch (s : State) (t : Nat) : Bool :=
  let x := s.task t
  let r := s.recsAt x.data
  let b := (recGet r tyTASK t).getD []
  let before := (tasksOn r (tkOwner b)).takeWhile fun e => e.1 != t
  let fin (u : Nat) : Bool := !(s.task u).live || (s.task u).fin
  (before.all fun e => fin e.1 || ((s.task e.1).passed && (placeOf s (tkOwner b)).isSome)) && (depsOf r t).all fin &&
    (!bit (tkFlags b) 0 || decide (x.data < s.rc.doneEll)) && (!bit (tkFlags b) 1 || s.mf.doneEll == x.inEll + 1)

/-- Dispatching an attempt that has been granted a core. -/
def startNext (k : Nat) (s : State) : State :=
  match (s.task k).next with
  | some (a, i) => if (s.core i).st = 0 then startAttempt k a i false s else s
  | none => s

/-- TASK_DISPATCH (R173, R182, R355). -/
def execTaskDispatch (t : Gts) (task : BitVec 12) : State → Host.Outcome State Fault Refusal :=
  act t fun s =>
    let k := task.toNat
    let x := s.task k
    if ¬ s.audioOn ∨ ¬ x.live ∨ x.fin ∨ x.run.isSome then s
    else if x.next.isSome then startNext k s
    else if ¬ mayDispatch s k then s
    else
      match placeOf s (tkOwner (instBody s k)) with
      | some (a, i) => if (s.core i).st = 0 ∧ (servedBy s i).isNone then startAttempt k a i (a != 0) s else s
      | none =>
        let i := tkOwner (instBody s k)
        startNext k (rerun k 0 (32 + i) (noteFault k i 8 0 (s.setTask k { x with cause := if x.cause = 0 then 8 else x.cause })))

/-- DELAYED_DISPATCH (R376): a delayed instance, on its holm's standby core or over the Strait. -/
def execDelayedDispatch (t : Gts) (task : BitVec 12) : State → Host.Outcome State Fault Refusal :=
  act t fun s =>
    let k := 4096 + task.toNat
    let x := s.task k
    let h := tkHolm (instBody s k)
    let i := 5 * h + 4
    if ¬ s.audioOn ∨ ¬ x.live ∨ x.fin ∨ x.run.isSome ∨ s.ell ≠ x.inEll then s
    else if x.next.isSome then startNext k s
    else if (takenBy s i).isSome ∨ s.isFrozen (32 + i) then startNext k (rerun k 1 (32 + i) s)
    else if s.startOf x.inEll + 250000 ≤ s.now ∧ standbyFree s h then
      startAttempt k 1 i false (s.setTask k { x with granted := i :: x.granted })
    else s

/-! ## Deadlines (R175) -/

/-- SLOT_DEADLINE. -/
def execSlotDeadline (t : Gts) (core : CoreId) : State → Host.Outcome State Fault Refusal :=
  act t fun s =>
    let c := s.core core.val
    if c.st ≠ 0 ∧ c.slotDl < c.stageDl ∧ c.slotDl ≤ s.now then failAttempt core.val 5 0 false false s else s

/-- Every attempt and instance whose stage deadline has come. -/
def settleStage (s : State) : State :=
  let s := s.ha.cores.foldl (fun s e =>
    if e.2.st ≠ 0 ∧ e.2.stageDl ≤ s.now then failAttempt e.1 10 0 false false s else s) s
  s.ha.insts.foldl (fun s e => if e.2.live ∧ (s.task e.1).stageEnd ≤ s.now then abandon e.1 10 s else s) s

/-- STAGE_DEADLINE. -/
def execStageDeadline (t : Gts) : State → Host.Outcome State Fault Refusal := act t settleStage

/-! ## Holm data memory and the Ell memory window (R171, R192) -/

/-- Key of a word of holm data memory. -/
def memKey (h addr : Nat) : Nat := h * 2 ^ 21 + addr

/-- A word of holm data memory. -/
def memWord (s : State) (h addr : Nat) : Nat := (tget 0 s.ha.mem (memKey h addr)).toNat

/-- Writing a word of holm data memory. -/
def setMem (h addr : Nat) (w : Word) (s : State) : State := { s with ha := { s.ha with mem := tset 0 s.ha.mem (memKey h addr) w } }

/-- Word address of container `j` of a slot in the Ell memory window (R171). -/
def slotAddr (slot j : Nat) : Nat := 0x200000 + 8 * slot + j

/-! ## Lost state (R184) -/

/-- The task whose state region holds a word of a holm's data memory, in the structure of the Ell that runs or of the one before. -/
def regionOf (s : State) (h addr : Nat) : Option Nat :=
  ((recsOf (s.recsAt s.ell) tyTASK ++ recsOf (s.recsAt (s.ell - 1)) tyTASK).find? fun e =>
    tkHolm e.2 == h && decide (tkBase e.2 ≤ addr) && decide (addr < tkBase e.2 + tkLen e.2)).map (·.1)

/-- STATE_LOST: logged, counted, and the zeroing of the region falls due at the next boundary. -/
def loseState (h task addr : Nat) (s : State) : State :=
  let s := haEvent h (112 + h) 4 [task, addr] (s.bump (haCtr h 0x21C))
  s.setTstat task { s.tstat task with zero := s.ell + 2 }

/-- An uncorrectable word of Ell memory: the slot copy is concealed from the copy of the data Ell before (R352). -/
def eccConceal (n slot : Nat) (s : State) : State :=
  let l := if isBus slot then (tget 0 s.mf.lastClean (slot - 8192)).toNat else s.ellGet (n - 1) slot 5
  ((putSlotWords n slot (fade183 l) s).setMark n slot 1).setHold slot 0

/-- ECC_RETRY (R184, R352): the re-read of a load's word, 8 hc later. -/
def execEccRetry (t : Gts) (core : CoreId) (clean : Bool) : State → Host.Outcome State Fault Refusal :=
  act t fun s =>
    let i := core.val
    let c := s.core i
    match c.ecc with
    | none => s
    | some a =>
      let h := tkHolm (instBody s c.inst)
      let s := s.setCore i { c with ecc := none }
      if 0x200000 ≤ a then
        if clean then s.bump (baseSV + 0x710)
        else
          let s := eccUncorr 3 (ellKey c.data ((a - 0x200000) / 8) (a % 8)) s
          eccConceal c.data ((a - 0x200000) / 8 % 16384) s
      else if clean then failAttempt i 2 0 false true (s.bump (haCtr h 0x224))
      else
        let s := eccUncorr (0x10 + h) a s
        match regionOf s h a with
        | some t => loseState h t a (failAttempt i 3 0 false false s)
        | none => failAttempt i 2 0 false false s

/-- STATE_ZEROING_DONE (R184): the state region has been zeroed. -/
def execStateZeroingDone (t : Gts) (task : BitVec 12) : State → Host.Outcome State Fault Refusal :=
  act t fun s =>
    let k := task.toNat
    let x := s.tstat k
    match s.recAt s.ell tyTASK k with
    | none => s
    | some b =>
      if x.zero = 0 ∨ s.ell + 1 < x.zero then s
      else
        let s := { s with ha := { s.ha with
          mem := tdrop s.ha.mem fun a =>
            decide (memKey (tkHolm b) (tkBase b) ≤ a) && decide (a < memKey (tkHolm b) (tkBase b + tkLen b)) } }
        s.setTstat k { x with zero := 0, lost := true }

/-! ## What the windows show (R186, R188) -/

/-- HA_CFG. -/
def haCfg (s : State) (h : Nat) : Nat :=
  let r := s.cfg.recs
  b2n (gated s h) * 2 ^ 31 + ((List.range 4).map fun c => stageOf r h c * 4 ^ c).sum * 65536 +
    ((recsOf r tyTASK).filter fun e => tkHolm e.2 == h).length

/-- HA_STATUS. -/
def haStatus (s : State) (h : Nat) : Nat :=
  let i := 5 * h + 4
  let c := s.core i
  let k := servedBy s i
  let home := tkHolm (instBody s (k.getD c.inst))
  let (st, core, holm) :=
    if s.isFrozen (32 + i) then (4, 0, 0)
    else match takenBy s i with
      | some o => if o / 5 = h then (3, o % 5, 0) else (2, 0, o / 5)
      | none => if c.st = 0 ∧ k.isNone then (0, 0, 0) else if home = h then (1, 0, 0) else (2, 0, home)
  st * 2 ^ 29 + core * 2 ^ 27 + holm * 2 ^ 23 + ((List.range 5).map fun k => b2n (s.isFrozen (32 + 5 * h + k)) * 2 ^ k).sum

/-- HA_CORE0-4. -/
def haCore (s : State) (i : Nat) : Nat :=
  let c := s.core i
  if s.isFrozen (32 + i) then 3 * 2 ^ 29 else if gated s (i / 5) then 4 * 2 ^ 29 else c.st * 2 ^ 29 + if c.st = 0 then 0 else c.inst % 4096

/-- Word `w` of HA_TSTAT. -/
def taskStat (s : State) (t w : Nat) : Nat :=
  match s.recNow tyTASK t with
  | none => 0
  | some _ =>
    let x := s.tstat t
    match w with
    | 0 => x.svc * 2 ^ 30 + x.cause * 2 ^ 26 + x.attempt * 2 ^ 24 + x.core / 5 * 2 ^ 20 + x.core % 5 * 2 ^ 17 + t
    | 1 => x.ell
    | 2 => x.commit
    | _ => x.faults * 65536 + x.concealed

end Sys2Proof.Machine
end

