-- ==== Sys2Proof/Machine/Mix.lean ====
section
/-! DEFINITION. The Mix Fabric, [11]: buses, gains, ramps, bank swaps. -/

namespace Sys2Proof.Machine

/-! ## BUS (R273) -/

def buMinus (b : List Byte) : Bool := byteAt b 0 == 1
def buN (b : List Byte) : Nat := byteAt b 1
def buOut (b : List Byte) : Nat := u16 b 2
def buFirst (b : List Byte) : Nat := u32 b 4
def buBase (b : List Byte) : Nat := u16 b 8
def buOmit (b : List Byte) : Nat := byteAt b 0xA

/-- Own source slots of a bus. -/
def buSlots (b : List Byte) : List Nat := (wordsOf (b.drop 16)).map (· % 16384)

/-- Own sources of a bus with their crosspoints: slot, crosspoint. -/
def buRoutes (b : List Byte) : List (Nat × Nat) := (buSlots b).zipIdx.map fun e => (e.1, buFirst b + e.2)

/-- Layout of a BUS body (R273, R461). -/
def formBUS (b : List Byte) : Bool :=
  decide (byteAt b 0 < 2) && b.length == 16 + 4 * buN b && allZero (slice b 0xB 5) &&
    (wordsOf (b.drop 16)).all (· < 16384)

/-- The rules of R273 and R274 that concern one bus. -/
def limitBUS (bus : Nat) (b : List Byte) : Bool :=
  let slots := buSlots b
  decide (buN b ≤ if buMinus b then 63 else 64) && decide (buFirst b + buN b ≤ 131072) &&
    (buOut b == 0xFFFF || (decide (4096 ≤ buOut b) && decide (buOut b < 8192))) && (if buMinus b then decide (buBase b < bus) else buBase b == 0xFFFF && buOmit b == 0) &&
    slots.all (fun v => decide (v < 4096) || decide (12288 ≤ v) || (decide (8192 ≤ v) && decide (v < 8192 + bus))) &&
    decide slots.Nodup

/-- Lane cost of a bus (R275). -/
def buCost (b : List Byte) : Nat := 6 * (buN b + b2n (buMinus b)) + 4

/-- Level of a bus (R274); no structure that passes verification nests deeper than the fuel. -/
def buLevel (r : Recs) : Nat → Nat → Nat
  | 0, _ => 0
  | k + 1, bus =>
    match recGet r tyBUS bus with
    | none => 0
    | some b =>
      let under := ((buSlots b).filter isBus).map (· - 8192) ++ (if buMinus b then [buBase b] else [])
      under.foldl (fun m u => max m (1 + buLevel r k u)) 0

/-- Layout of a COEF body (R280, R461). -/
def formCOEF (b : List Byte) : Bool :=
  b.length % 8 == 0 && decide (b.length ≤ 1048576) &&
    ((wordsOf b).zipIdx).all fun e => if e.2 % 2 = 0 then e.1 % 256 == 0 else fld e.1 30 12 == 0

/-! ## Coefficients (R276, R280) -/

/-- Key of a word of a bank. -/
def coefKey (bank x w : Nat) : Nat := bank * 2 ^ 18 + 2 * x + w

/-- A word of a bank. -/
def coefWord (s : State) (bank x w : Nat) : Nat := (tget 0 s.mf.coef (coefKey bank x w)).toNat

/-- Gain, ramp length in Ells and law of an entry. -/
def coefGain (s : State) (bank x : Nat) : Int := sgn 24 (coefWord s bank x 0 / 256)
def coefLen (s : State) (bank x : Nat) : Nat := coefWord s bank x 1 % 4096 + 1
def coefEqual (s : State) (bank x : Nat) : Bool := bit (coefWord s bank x 1) 31

namespace State
def xp (s : State) (x : Nat) : Xp := tget {} s.mf.xp x
def updMf (s : State) (f : MixF → MixF) : State := { s with mf := f s.mf }
def setXp (s : State) (x : Nat) (v : Xp) : State := s.updMf fun m => { m with xp := tset {} m.xp x v }
def busStat (s : State) (b : Nat) : BusStat := tget {} s.mf.stat b
def setBus (s : State) (b : Nat) (v : BusStat) : State := s.updMf fun m => { m with stat := tset {} m.stat b v }
end State

/-- Target of a crosspoint under a bank; a lost entry keeps the instantaneous gain (R352). -/
def targetOf (s : State) (bank x : Nat) : Int := if s.mf.lost.contains (bank * 2 ^ 17 + x) then (s.xp x).g else coefGain s bank x

/-- A full bitstream commits: bank A is active and its gains apply at once (R281). -/
def mfCommit (s : State) : State :=
  let s := s.updMf fun m => { m with active := 0, xp := [], gone := [], pend := none, deferred := false }
  (recsOf s.cfg.recs tyBUS).foldl (fun s e =>
    (buRoutes e.2).foldl (fun s r => s.setXp r.2 { g := coefGain s 0 r.2, g1 := coefGain s 0 r.2 }) s) s

/-! ## Ramps (R282) -/

/-- sinq(U), correctly rounded. -/
def sinq (u : Nat) : Int :=
  let x := piQ * u / 2 ^ 24
  rneDiv (cosTerms (x * x / 2 ^ 96) 40 1 x) (2 ^ 73)

/-- The gain of a crosspoint for sample `j` of data Ell `d`. -/
def gainAt (x : Xp) (d j : Nat) : Int :=
  match x.ramp with
  | none => x.g1
  | some r =>
    let u := (6 * (d - r.s) + j + 1) * 2 ^ 23 / (6 * r.d)
    if r.equal then clamp24 (rneDiv (r.g0 * sinq (2 ^ 23 - u) + r.g1 * sinq u) (2 ^ 23))
    else clamp24 (r.g0 + rneDiv ((r.g1 - r.g0) * u) (2 ^ 23))

/-- A crosspoint after data Ell `d` has been formed. -/
def xpAfter (x : Xp) (d : Nat) : Xp :=
  { x with
    g := gainAt x d 5
    ramp := match x.ramp with
      | some r => if d - r.s = r.d - 1 then none else some r
      | none => none }

/-- A ramp from the instantaneous gain; none when the target is already reached (R283). -/
def startRamp (d len : Nat) (equal : Bool) (g1 : Int) (x : Xp) : Xp :=
  { x with g1 := g1, ramp := if x.g = g1 then none else some { s := d, d := len, equal := equal, g0 := x.g, g1 := g1 } }

/-! ## Deltas (R63) and swaps (R284-R286) -/

/-- All routes of a structure: bus, slot, crosspoint. -/
def routesOf (r : Recs) : List (Nat × Nat × Nat) :=
  (recsOf r tyBUS).flatMap fun e => (buRoutes e.2).map fun x => (e.1, x.1, x.2)

/-- COEF images that a delta replaces take effect (R281). -/
def deltaCoef (s : State) : State :=
  [0, 1].foldl (fun s bank =>
    if recGet s.cfg.recs tyCOEF bank = recGet s.cfg.next tyCOEF bank then s
    else
      match recGet s.cfg.next tyCOEF bank with
      | none => s
      | some b =>
        s.updMf fun m => { m with
          coef := tsets 0 (tdrop m.coef fun k => k / 2 ^ 18 == bank) (bank * 2 ^ 18) ((wordsOf b).map (BitVec.ofNat 32))
          lost := m.lost.filter fun k => k / 2 ^ 17 != bank }) s

/-- The delta for data Ell `d` reaches the Mix Fabric: added, removed and changed crosspoints ramp (R63). -/
def deltaMix (d : Nat) (s : State) : State :=
  if s.cfg.deltaK ≠ some d then s
  else
    let old := routesOf s.cfg.recs
    let new := routesOf s.cfg.next
    let len := max 1 s.cfg.hdr.xfLen
    let eq := s.cfg.hdr.xfLaw == 1
    let s := deltaCoef s
    let s := old.foldl (fun s r =>
      if new.contains r then s
      else if (s.xp r.2.2).g = 0 ∨ (recGet s.cfg.next tyBUS r.1).isNone then s.setXp r.2.2 {}
      else (s.setXp r.2.2 (startRamp d len eq 0 (s.xp r.2.2))).updMf fun m => { m with gone := m.gone ++ [r] }) s
    new.foldl (fun s r =>
      let t := targetOf s s.mf.active r.2.2
      let x := s.xp r.2.2
      if old.contains r ∧ x.g1 = t then s else s.setXp r.2.2 (startRamp d len eq t x)) s

/-- Whether a bus has a crosspoint whose entries differ between the banks (R285). -/
def affected (s : State) (b : List Byte) : Bool :=
  (buRoutes b).any fun r => coefWord s 0 r.2 0 != coefWord s 1 r.2 0 || coefWord s 0 r.2 1 != coefWord s 1 r.2 1

/-- Crosspoints of a bus with a ramp in flight, removed ones included. -/
def rampsOf (s : State) (bus : Nat) (b : List Byte) : Nat :=
  ((buRoutes b).filter fun r => (s.xp r.2).ramp.isSome).length + (s.mf.gone.filter fun g => g.1 == bus).length

/-- The banks are exchanged at data Ell `d`. -/
def doSwap (d : Nat) (forced : Bool) (buses : List (Nat × List Byte)) (s : State) : State :=
  let bank := 1 - s.mf.active
  let s := s.updMf fun m => { m with active := bank, pend := none, deferred := false, swapEll := d % 2 ^ 32 }
  let s := buses.foldl (fun s e => s.setBus e.1 { s.busStat e.1 with blocking := false }) s
  let s := buses.foldl (fun s e => (buRoutes e.2).foldl (fun s r =>
    let x := s.xp r.2
    let t := targetOf s bank r.2
    if x.ramp.isSome ∧ ¬ forced then s
    else s.setXp r.2 (startRamp d (coefLen s bank r.2) (coefEqual s bank r.2) t x)) s) s
  let s := s.bump (baseMF + 0x204)
  let s := if forced then s.bump (baseMF + 0x208) else s
  s.raise 11 0xB02 [bank, d % 2 ^ 32, b2n forced]

/-- The swap decision of a formation (R284-R286). -/
def swapCheck (d : Nat) (s : State) : State :=
  let buses := recsOf (s.recsAt d) tyBUS
  match s.mf.pend with
  | none => s
  | some (forced, a) =>
    if d < a then s
    else if forced then doSwap d true buses s
    else
      let block := buses.filter fun e => affected s e.2 && rampsOf s e.1 e.2 != 0
      match block with
      | [] => doSwap d false buses s
      | (lo, _) :: _ =>
        let s := buses.foldl (fun s e => s.setBus e.1 { s.busStat e.1 with blocking := block.any fun x => x.1 == e.1 }) s
        if s.mf.deferred then s
        else ((s.updMf fun m => { m with deferred := true }).bump (baseMF + 0x20C)).raise 11 0xB03 [lo]

/-! ## Formation (R272, R277-R279) -/

/-- One term: a source's containers under a crosspoint's gains. -/
def termOf (s : State) (d slot : Nat) (x : Xp) : List (Int × Nat) :=
  let ws := slotRead s d slot
  (List.range 6).map fun j =>
    let w := ws.getD j 0
    let g := gainAt x d j
    (cVal w * g, if g = 0 then 0 else cFlags w)

/-- Adding terms, sample by sample. -/
def addTerms (a : List (Int × Nat)) (b : List (Int × Nat)) : List (Int × Nat) :=
  (a.zip b).map fun e => (e.1.1 + e.2.1, e.1.2 ||| e.2.2)

/-- The terms of a bus: its own sources but for the ordinal `skip`, and its removal ramps. -/
def ownTerms (s : State) (d bus : Nat) (b : List Byte) (skip : Option Nat) : List (List (Int × Nat)) :=
  (((buRoutes b).zipIdx).filter fun e => some e.2 != skip).map (fun e => termOf s d e.1.1 (s.xp e.1.2)) ++
    (s.mf.gone.filter fun g => g.1 == bus).map fun g => termOf s d g.2.1 (s.xp g.2.2)

/-- The exact sums and flags of a bus without its source `skip` (R277, R278). The containers of a held base bus stand for
its sum (R279). -/
def busTerms (s : State) (r : Recs) (d : Nat) (held : List Nat) : Nat → Nat → Option Nat → List (Int × Nat)
  | 0, _, _ => List.replicate 6 (0, 0)
  | k + 1, bus, skip =>
    match recGet r tyBUS bus with
    | none => List.replicate 6 (0, 0)
    | some b =>
      let own := ownTerms s d bus b skip
      if ¬ buMinus b then own.foldl addTerms (List.replicate 6 (0, 0))
      else if held.contains (buBase b) then
        let hold := (List.range 6).map fun j =>
          let w := s.ellGet d (8192 + buBase b) j
          (cVal w * 2 ^ 21, cFlags w)
        let routes := ((recGet r tyBUS (buBase b)).map buRoutes).getD []
        let om := (routes[buOmit b]?).map fun o => (termOf s d o.1 (s.xp o.2)).map fun t => (-t.1, 0)
        (own ++ om.toList).foldl addTerms hold
      else own.foldl addTerms (busTerms s r d held k (buBase b) (some (buOmit b)))

/-- Rounding, saturation and flags of a bus sample (R277). -/
def busSample (t : Int × Nat) : Nat × Bool := filterOut t.1 (2 ^ 21) t.2

/-- Writing a bus's containers, and its output route (R272). -/
def writeBus (d bus : Nat) (b : List Byte) (ws : List Nat) (s : State) : State :=
  let s := (putSlotWords d (8192 + bus) ws s).setMark d (8192 + bus) 0
  if buOut b = 0xFFFF then s else (putSlotWords d (buOut b) ws s).setMark d (buOut b) 0

/-- One bus of data Ell `d`. -/
def formBus (d : Nat) (r : Recs) (bad : List LaneBad) (a : State × List Nat) (e : Nat × List Byte) : State × List Nat :=
  let (s, held) := a
  let (bus, b) := e
  let out := (busTerms s r d held 4 bus none).map busSample
  let st := s.busStat bus
  let clean (s : State) : State :=
    let ws := out.map (·.1)
    let nsat := (out.filter (·.2)).length
    let s := writeBus d bus b ws s
    let s := s.updMf fun m => { m with lastClean := tset 0 m.lastClean bus (BitVec.ofNat 32 (ws.getD 5 0)) }
    let s := s.setBus bus { st with
      sat := decide (nsat ≠ 0), c := ws.any fun w => bit w 6, held := false, satEll := if nsat = 0 then st.satEll else d + 1 }
    let s := s.bumpBy (baseMF + 0x200) nsat
    if nsat ≠ 0 ∧ ¬ st.sat then s.raise 11 0xB01 [bus, (out.findIdx (·.2))] else s
  match badOf bad bus with
  | none => (clean s, held)
  | some twice =>
    let s := (laneMismatch 11 (bus % 64) twice s).bump (baseMF + 0x210)
    if ¬ twice then (clean s, held)
    else
      let s := writeBus d bus b (fade183 (tget 0 s.mf.lastClean bus).toNat) s
      let s := s.updMf fun m => { m with lastClean := tset 0 m.lastClean bus 0 }
      let s := s.setBus bus { st with sat := false, c := true, held := true }
      ((s.bump (baseMF + 0x214)).raise 11 0xB04 [bus, d % 2 ^ 32], bus :: held)

/-- The formation of data Ell `d`: delta, swap, buses in ascending number, and the ramps after it. -/
def formMix (d : Nat) (bad : List LaneBad) (s : State) : State :=
  let s := swapCheck d (deltaMix d s)
  let r := s.recsAt d
  let (s, _) := (recsOf r tyBUS).foldl (formBus d r bad) (s, [])
  let live := (routesOf r).map (·.2.2)
  let s := live.foldl (fun s x => s.setXp x (xpAfter (s.xp x) d)) s
  let s := s.mf.gone.foldl (fun s g => s.setXp g.2.2 (xpAfter (s.xp g.2.2) d)) s
  let overOn := s.mf.gone.filter fun g => (s.xp g.2.2).ramp.isNone
  let s := overOn.foldl (fun s g => s.setXp g.2.2 {}) s
  s.updMf fun m => { m with gone := m.gone.filter fun g => !overOn.contains g }

/-! ## Commands -/

/-- MIX_COMPLETE (R275): the report of a formation. -/
def execMixComplete (t : Gts) (hc : BitVec 32) : State → Host.Outcome State Fault Refusal :=
  act t fun s =>
    if ¬ s.audioOn ∨ s.mf.doneEll = s.ell + 1 then s
    else
      let n := hc.toNat
      let s := s.updMf fun m => { m with doneEll := s.ell + 1, hcLast := satN 16 n, late := decide (15000 < n) }
      let s := s.updSup fun u => { u with mfExcess := n - 15000 }
      if 15000 < n then (s.bump (baseMF + 0x218)).raise 11 0xB05 [n] else s

/-- The result of an MF_CTRL operation. -/
def mfResult (r : Nat) (s : State) : State := s.updMf fun m => { m with result := r }

/-- SWAP (R284, R287). -/
def opSwap (m : Master) : State → State :=
  guardWrite m baseMF fun s =>
    if s.mf.pend.isSome then mfResult 1 s else s.updMf fun m => { m with pend := some (false, s.ell), deferred := false, result := 0 }

/-- No bus blocks a swap any more. -/
def unblock (s : State) : State := s.updMf fun m => { m with stat := tmap {} m.stat fun x => { x with blocking := false } }

/-- FORCE (R286, R287). -/
def opForce (m : Master) : State → State :=
  guardWrite m baseMF fun s =>
    match s.mf.pend with
    | some (true, _) => mfResult 1 s
    | _ => unblock (s.updMf fun m => { m with pend := some (true, s.ell), deferred := false, result := 0 })

/-- CANCEL (R287). -/
def opCancel (m : Master) : State → State :=
  guardWrite m baseMF fun s =>
    match s.mf.pend with
    | none => mfResult 2 s
    | some (_, a) =>
      (unblock (s.updMf fun m => { m with pend := none, deferred := false, result := 0 })).raise 11 0xB06 [a % 2 ^ 32]

def execSwap (t : Gts) (m : Master) : State → Host.Outcome State Fault Refusal := act t (opSwap m)
def execForce (t : Gts) (m : Master) : State → Host.Outcome State Fault Refusal := act t (opForce m)
def execCancel (t : Gts) (m : Master) : State → Host.Outcome State Fault Refusal := act t (opCancel m)

/-- One word written into a coefficient window (R281). -/
def coefStore (off : Nat) (w : Word) (s : State) : State :=
  let bank := (off - 0x600000) / 0x100000
  let k := (off - 0x600000) % 0x100000 / 4
  if bank = s.mf.active ∨ s.mf.pend.isSome then s.bump (baseMF + 0x21C)
  else
    let v := if k % 2 = 0 then w &&& 0xFFFFFF00 else w &&& 0x80000FFF
    s.updMf fun m => { m with
      coef := tset 0 m.coef (bank * 2 ^ 18 + k) v, lost := m.lost.filter fun x => x != bank * 2 ^ 17 + k / 2 }

/-- COEF_WRITE: the words of one request, in one grain (R425). Offsets outside the banks change nothing. -/
def opCoefWrite (m : Master) (off : Nat) (data : List Word) : State → State :=
  let ws := (data.zipIdx).map fun e => (off + 4 * e.2, e.1)
  let ws := ws.filter fun e => decide (0x600000 ≤ e.1) && decide (e.1 < 0x800000)
  guardAll m (ws.map (·.1)) fun s => ws.foldl (fun s e => coefStore e.1 e.2 s) s

def execCoefWrite (t : Gts) (m : Master) (off : Off) (data : List Word) : State → Host.Outcome State Fault Refusal :=
  act t (opCoefWrite m off.toNat data)

/-! ## What the windows show (R289, R290) -/

/-- MF_BANK. -/
def mfBank (s : State) : Nat :=
  let (p, f) := match s.mf.pend with
    | some (f, _) => (true, f)
    | none => (false, false)
  s.mf.result * 2 ^ 28 + b2n s.mf.deferred * 32 + b2n f * 16 + b2n p * 8 + s.mf.active

/-- MF_STATUS. -/
def mfStatus (s : State) : Nat :=
  let bs := recsOf s.cfg.recs tyBUS
  b2n s.mf.late * 2 ^ 31 + bs.length * 2 ^ 18 + (bs.map fun e => buN e.2 + b2n (buMinus e.2)).sum + s.mf.gone.length

/-- Word `w` of MF_BSTAT. -/
def busStatWord (s : State) (bus w : Nat) : Nat :=
  match s.recNow tyBUS bus with
  | none => 0
  | some b =>
    let x := s.busStat bus
    if w = 0 then
      b2n x.sat * 2 ^ 31 + b2n x.c * 2 ^ 30 + b2n x.held * 2 ^ 29 + b2n x.blocking * 2 ^ 28 + min 64 (rampsOf s bus b) * 2 ^ 16 +
        buLevel s.cfg.recs 4 bus
    else if x.satEll = 0 then 0 else (x.satEll - 1) % 2 ^ 32

/-- MF_GAIN. -/
def mfGain (s : State) (x : Nat) : Nat :=
  if (routesOf s.cfg.recs).any (fun r => r.2.2 == x) ∨ s.mf.gone.any fun g => g.2.2 == x then wrap 24 (s.xp x).g * 256 else 0

/-! ## What feeds a slot (R34) -/

/-- Slots from which a slot is made: by a Rate Chain instance, a task or a bus. -/
def sourcesOf (r : Recs) (slot : Nat) : List Nat :=
  let rate := (recsOf r tyRATE).flatMap fun e => if (raWrites e.2).contains slot then raReads e.2 else []
  let task := (recsOf r tyTASK).flatMap fun e => if (writeSlots r e.1).contains slot then readSlots r e.1 else []
  let bus :=
    if isBus slot then
      match recGet r tyBUS (slot - 8192) with
      | some b => buSlots b ++ if buMinus b then [8192 + buBase b] else []
      | none => []
    else []
  rate ++ task ++ bus

/-- Every slot from which some slots are made, and they themselves; each round adds what the newest are made from. -/
def fedFrom (r : Recs) : Nat → List Nat → List Nat → List Nat
  | 0, seen, _ => seen
  | k + 1, seen, new =>
    let more := (new.flatMap (sourcesOf r)).foldl (fun l x => if seen.contains x || l.contains x then l else x :: l) []
    if more.isEmpty then seen else fedFrom r k (seen ++ more) more

/-- The closure over a whole structure: there are 16,384 slots. -/
def chainOf (r : Recs) (slots : List Nat) : List Nat := fedFrom r 16384 slots slots

/-- The slots that a stream fills. -/
def streamSlots (b : List Byte) : List Nat :=
  (List.range (chOf (rxCtl b))).flatMap fun ch => chanSlots (rxFirst b) (rate96 (rxCtl b)) ch

/-- Whether a slot is fed, directly or through a chain, by a stream whose playout is held one Ell longer (R34). -/
def slotHeld (s : State) (n slot : Nat) : Bool :=
  let r := s.recsAt n
  let chain := chainOf r [slot]
  (recsOf r tyRX).any fun e => (s.rx e.1).heldElls != 0 && (streamSlots e.2).any fun k => chain.contains k

end Sys2Proof.Machine
end

