-- ==== Sys2Proof/Machine/Containment.lean ====
section
/-! DEFINITION. Failure containment, [15]: memory errors, program repair, handshake timeouts, releases. -/

namespace Sys2Proof.Machine

/-! ## Program memory (R353) -/

/-- Whether a word of program memory can be repaired: a full bitstream read from flash wrote it last. -/
def repairable (s : State) (h a : Nat) : Bool :=
  match s.cfg.images.find? fun i => i.holm == h && decide (i.lo ≤ a) && decide (a < i.hi) with
  | some i => i.flash
  | none => false

/-- PROG_LOST; Recovery follows where `prog_recover` is set. -/
def progLost (h a : Nat) (s : State) : State :=
  let s := s.raiseSv 0x45 [h, a]
  if bit (s.reg (baseSV + 0x600)) 15 then askRecovery s else s

/-- An uncorrectable word of program memory is found. -/
def badProgWord (h a : Nat) (s : State) : State :=
  if s.sup.badProg.contains (h, a) then s
  else
    let s := eccUncorr (0x30 + h) a (s.updSup fun u => { u with badProg := (h, a) :: u.badProg })
    if repairable s h a then s else progLost h a s

/-- PROG_REPAIR: the record is read again from flash, and its line rewritten when it matches the digest kept. -/
def execProgRepair (t : Gts) (holm : Fin 16) (addr : BitVec 17) (digestOk : Bool) : State → Host.Outcome State Fault Refusal :=
  act t fun s =>
    let h := holm.val
    let a := addr.toNat
    if ¬ s.sup.badProg.contains (h, a) ∨ ¬ repairable s h a then s
    else if digestOk then
      let s := s.updSup fun u => { u with badProg := u.badProg.filter fun e => !(e.1 == h && e.2 / 64 == a / 64) }
      (s.raiseSv 0x46 [h, a / 64 * 64]).bump (baseSV + 0x714)
    else progLost h a s

/-! ## The scrubber (R351, R352) -/

/-- Code of an array in the detail of ECC_UNCORR: the model's numbering. -/
def arrayCode : MemArray → Nat
  | .holmData h => 0x10 + h.val
  | .commitBuf _ => 1
  | .ibuf _ => 2
  | .program h => 0x30 + h.val
  | .ell => 3
  | .stream => 4
  | .queueData => 5
  | .queueHeader => 6
  | .coef => 7
  | .keySlot => 8
  | .ctxField => 9
  | .saveSlot => 10
  | .rateState => 11
  | .scanner => 12
  | .czWindow => 13
  | .other => 14

/-- A single-bit error is corrected and counted. -/
def eccSingle (a : MemArray) (s : State) : State :=
  match a with
  | .holmData h => s.bump (haCtr h.val 0x220)
  | .program h => s.bump (haCtr h.val 0x220)
  | .commitBuf c => s.bump (haCtr (c.val / 5) 0x220)
  | _ => s.bump (baseSV + 0x708)

/-- An uncorrectable word of holm data memory found outside a load (R184). -/
def badHolmData (h addr : Nat) (s : State) : State :=
  match regionOf s h addr with
  | none => s
  | some t =>
    let stop (k : Nat) (s : State) : State :=
      let x := s.task k
      match x.run with
      | some i => failAttempt i 3 0 false false s
      | none => if x.live ∧ ¬ x.fin then abandon k 3 s else s
    loseState h t addr (stop (4096 + t) (stop t s))

/-- An uncorrectable word of Ell memory found by the scrubber; its address is the key of the container. -/
def badEllWord (addr : Nat) (s : State) : State :=
  let copy := addr / 2 ^ 17
  let slot := addr / 8 % 16384
  if copy = copyOf s.ell slot then eccConceal s.ell slot s else eccConceal (s.ell - 1) slot s

/-- A container of Stream memory is void (R103): address [31:22] stream, [21:16] channel, [15:0] position in its ring. -/
def voidHeld (addr : Nat) (s : State) : State :=
  let i := addr / 2 ^ 22
  let r := s.rx i
  s.setRx i { r with ring := tset {} r.ring (addr / 2 ^ 16 % 64 * 2 ^ 20 + addr % 2 ^ 16) {} }

/-- An item's data is bad: address [31:16] queue, [15:0] slot. -/
def badItemData (addr : Nat) (s : State) : State :=
  s.updQueue (addr / 65536) fun x => { x with slots := tupd {} x.slots (addr % 65536) fun it => { it with err := true } }

/-- An item's header is bad: the item is discarded and counted, and the next one delivered carries `drp`. -/
def badItemHeader (addr : Nat) (s : State) : State :=
  let q := addr / 65536
  match qDesc s q with
  | none => s
  | some d =>
    let x := s.queue q
    let n := qSlots d
    let base := if x.mark then x.mkp else x.rd
    let have' := (x.w + qMod d - base) % qMod d
    match (List.range have').find? fun k => (base + k) % n == addr % 65536 with
    | none => s
    | some k =>
      let item (j : Nat) : Item := tget {} x.slots ((base + j) % n)
      let slots := (List.range (have' - 1)).foldl (fun t j => if k ≤ j then tset {} t ((base + j) % n) (item (j + 1)) else t) x.slots
      let before := decide (k < (x.rd + qMod d - base) % qMod d)
      (s.setQueue q { x with
        slots := tset {} slots ((base + have' - 1) % n) {}
        w := (x.w + qMod d - 1) % qMod d
        rd := if before then (x.rd + qMod d - 1) % qMod d else x.rd
        drpNext := true }).bump (qCtr q 3)

/-- An entry of coefficient memory is lost: address [17] bank, [16:0] crosspoint. -/
def badCoef (addr : Nat) (s : State) : State :=
  let bank := addr / 2 ^ 17
  let x := addr % 2 ^ 17
  let s := s.updMf fun m => { m with lost := insertN m.lost addr }
  if bank = s.mf.active then s.setXp x { s.xp x with g1 := (s.xp x).g, ramp := none } else s

/-- A key slot becomes SPENT: address 2 x context + slot, or 0x10000 + association (R301, R305). -/
def badKey (addr : Nat) (s : State) : State :=
  if addr < 0x10000 then
    let c := addr / 2
    let x := s.ctx c
    let k := slotOf x (addr % 2)
    if usable k then s.setCtx c (putSlot x (addr % 2) { k with st := 4 }) else s
  else
    let i := addr - 0x10000
    let x := s.sa i
    if x.st = 0 then s else s.setSa i { x with st := 4 }

/-- A field of a cipher context is lost: both slots become SPENT, and the index starts afresh. -/
def badCtx (c : Nat) (s : State) : State :=
  let s := badKey (2 * c + 1) (badKey (2 * c) s)
  s.setCtx c { s.ctx c with index := none, chg := none }

/-- What an uncorrectable word of an array does (R352). -/
def eccDouble (a : MemArray) (addr : Nat) (s : State) : State :=
  match a with
  | .holmData h => badHolmData h.val addr s
  | .commitBuf c => failAttempt c.val 2 0 false false s
  | .ibuf c =>
    let s := failAttempt c.val 2 0 false false s
    s.setCore c.val { s.core c.val with ibuf := (0, [], 0) }
  | .program h => badProgWord h.val addr s
  | .ell => badEllWord addr s
  | .stream => voidHeld addr s
  | .queueData => badItemData addr s
  | .queueHeader => badItemHeader addr s
  | .coef => badCoef addr s
  | .keySlot => badKey addr s
  | .ctxField => badCtx addr s
  | .saveSlot => s.updCe fun e => { e with saves := tset {} e.saves addr {} }
  | .rateState => s.setRate addr { s.rate addr with pend := some 4 }
  | .scanner => { s with rc := { s.rc with scan := tupd {} s.rc.scan addr fun x => { x with skip := true } } }
  | .czWindow => s
  | .other => s

/-- SCRUB: a visit of the scrubber, or a read, that finds a word clean, corrected or uncorrectable. -/
def execScrub (t : Gts) (array : MemArray) (addr : BitVec 32) (find : EccFind) : State → Host.Outcome State Fault Refusal :=
  act t fun s =>
    match find with
    | .clean => s
    | .single => eccSingle array s
    | .double => eccDouble array addr.toNat (eccUncorr (arrayCode array) addr.toNat s)

/-! ## Handshake timeouts (R356, R357) -/

/-- The slot whose playout transfer times out: the row does not name it, so it is a free value. It is concealed as a bad word of Ell
memory is. -/
def concealFree (s : State) : State :=
  let (v, s) := s.draw
  eccConceal (s.aheadEll 40000) (v.toNat % 4096) s

/-- A lane mismatch of the Rate Chain or the Mix Fabric after a timeout, in a lane that the row does not name. -/
def mismatchFree (block lanes : Nat) (s : State) : State :=
  let (v, s) := s.draw
  laneMismatch block (v.toNat % lanes) false s

/-- The items that a block is pushing or popping end with `err`. -/
def errItems (src : Nat) (s : State) : State :=
  (recsOf s.cfg.recs tyQUEUE).foldl (fun s e =>
    let bad (it : Item) : Item := { it with err := true }
    let s := if qProd e.2 = src then s.updQueue e.1 fun x => { x with push := x.push.map bad } else s
    if qCons e.2 = src then
      s.updQueue e.1 fun x => if x.popBusy then { x with slots := tupd {} x.slots (x.rd % qSlots e.2) bad } else x
    else s) s

/-- What the requester does (R356). -/
def timeoutAt (req dest : Nat) (s : State) : State :=
  if 32 ≤ req ∧ req < 112 then failAttempt (req - 32) 7 0 false true s
  else if dest = 6 then errItems req s
  else
    match req with
    | 4 => concealFree s
    | 9 => mismatchFree 9 16 s
    | 11 => mismatchFree 11 64 s
    | 13 => abortHost s
    | _ => s

/-- A destination is hung: two sources in one Ell, or four transfers within 8,000 Ells (R357). -/
def hung (s : State) (req dest : Nat) : Bool :=
  let mine := s.sup.hsLog.filter fun e => e.2.1 == dest
  (mine.any fun e => e.1 == s.ell && e.2.2 != req) || decide (4 ≤ mine.length)

/-- HS_TIMEOUT. -/
def execHsTimeout (t : Gts) (requester dest : BitVec 8) : State → Host.Outcome State Fault Refusal :=
  act t fun s =>
    let r := requester.toNat
    let d := dest.toNat
    let s := s.bump (baseSV + 0x718)
    let logged := s.sup.hsLog.any fun e => e.1 == s.ell && e.2.1 == d
    let s := if logged then s else s.raiseSv 0x48 [r, d]
    let s := s.updSup fun u => { u with hsLog := (s.ell, d, r) :: u.hsLog.filter fun e => decide (s.ell < e.1 + 8000) }
    let s := if hung s r d then s.updSup fun u => { u with hsDue := insertN u.hsDue d } else s
    timeoutAt r d s

/-- The resets of hung destinations at an Ell boundary; a second one within 8,000 Ells is a cause of Recovery. -/
def tickDest (s : State) : State :=
  let s' := s.sup.hsDue.foldl (fun s d =>
    let again := s.sup.hsResets.any fun e => e.1 == d && decide (s.ell < e.2 + 8000)
    let s := s.updSup fun u =>
      { u with hsResets := (d, s.ell) :: u.hsResets, hsBusy := insertN u.hsBusy d, hsLog := u.hsLog.filter fun e => e.2.1 != d }
    let s := (s.raiseSv 0x49 [d]).bump (baseSV + 0x71C)
    if again then askRecovery s else s) s
  s'.updSup fun u => { u with hsDue := [] }

/-- DEST_RESET_DONE: within 20,000 hc of the boundary. -/
def execDestResetDone (t : Gts) (dest : BitVec 8) : State → Host.Outcome State Fault Refusal :=
  act t fun s => s.updSup fun u => { u with hsBusy := u.hsBusy.filter (· != dest.toNat) }

/-! ## Releases (R360-R362) -/

/-- The result of an SV_FW_CTRL operation. -/
def fwResult (r src : Nat) (s : State) : State := s.updSup fun u => { u with fwResult := r, fwSource := src }

/-- A freeze ends. -/
def unfreezeNow (src : Nat) (s : State) : State :=
  s.updSup fun u => { u with frozen := u.frozen.filter (· != src), faultElls := tset [] u.faultElls src [] }

/-- UNFREEZE (R362): a core runs its BIST in the next Ell, the other masters are released at once. -/
def opUnfreeze (m : Master) (src : Nat) : State → State :=
  guardWrite m (baseSV + 0x604) fun s =>
    if ¬ s.isFrozen src then fwResult 1 src s
    else
      let s := (fwResult 0 src s).raiseSv 0x42 [src]
      if 32 ≤ src ∧ src < 112 then
        s.updSup fun u => { u with bist := (src, s.ell + 1) :: u.bist.filter fun e => e.1 != src }
      else unfreezeNow src s

/-- UNFREEZE. -/
def execUnfreeze (t : Gts) (m : Master) (source : BitVec 8) : State → Host.Outcome State Fault Refusal :=
  act t (opUnfreeze m source.toNat)

/-- CLEAR_VIOL (R360). -/
def opClearViol (m : Master) (src : Nat) : State → State :=
  guardWrite m (baseSV + 0x604) fun s => fwResult 0 src (s.updSup fun u => { u with violAddr := 0, violInfo := 0 })

/-- CLEAR_VIOL. -/
def execClearViol (t : Gts) (m : Master) : State → Host.Outcome State Fault Refusal := act t (opClearViol m 0)

/-- CORE_BIST_DONE (R362): a core that passes resumes at the next boundary. -/
def execCoreBistDone (t : Gts) (core : CoreId) (pass : Bool) : State → Host.Outcome State Fault Refusal :=
  act t fun s =>
    let src := 32 + core.val
    if ¬ (s.sup.bist.any fun e => e.1 == src && decide (e.2 ≤ s.ell)) then s
    else if pass then fwResult 0 src (s.updSup fun u => { u with release := insertN u.release src })
    else fwResult 2 src (s.updSup fun u => { u with bist := u.bist.filter fun e => e.1 != src })

/-- HOST_THAW (R362): `host_thaw` ms after its freeze the host port is released. -/
def execHostThaw (t : Gts) : State → Host.Outcome State Fault Refusal :=
  act t fun s =>
    let ms := s.rfld (baseSV + 0x600) 31 16
    if s.isFrozen 13 ∧ ms ≠ 0 ∧ s.sup.hostFrozenAt + ms * 4000000 ≤ s.now then (unfreezeNow 13 s).raiseSv 0x42 [13] else s

/-- The releases of an Ell boundary: automatic ones (R361) log UNFREEZE, those after a BIST have logged it. -/
def tickRelease (s : State) : State :=
  let s' := s.sup.release.foldl (fun s src =>
    let s := if s.sup.bist.any fun e => e.1 == src then s else s.raiseSv 0x42 [src]
    unfreezeNow src s) s
  let s' := s'.updSup fun u => { u with release := [], bist := u.bist.filter fun e => !s.sup.release.contains e.1, frozePc := [] }
  match s'.sup.bist.find? fun e => e.2 == s'.ell with
  | some (src, _) => if s'.sup.fwSource = src then fwResult 3 src s' else s'
  | none => s'

/-! ## The event log (R383) -/

/-- Unread entries. -/
def logUnread (l : EventLog) : Nat := (l.wr + 1024 - l.rd) % 1024

/-- `wm` of SV_LOG_RD. -/
def logWm (s : State) : Nat := max 1 (s.rfld (baseSV + 0x894) 25 16)

/-- Writing one entry: an overflow discards the oldest unread one, and the watermark is judged. -/
def logWrite (s : State) (e : Ev) : State :=
  let l := s.log
  let full := logUnread l == 1023
  let l := { l with
    entries := tset {} l.entries l.wr { ev := e, seq := l.seq }
    wr := (l.wr + 1) % 1024, seq := (l.seq + 1) % 2 ^ 32
    rd := if full then (l.rd + 1) % 1024 else l.rd }
  let s' := { s with log := l }
  let s' := if full then (s'.bump (baseSV + 0x740)).setEvBit (baseSV + 0x104) 7 else s'
  if logUnread l = logWm s' then s'.setEvBit (baseSV + 0x104) 6 else s'

/-- Inserting an event after those of its order (R26). -/
def evInsert (e : Ev) : List Ev → List Ev
  | [] => [e]
  | x :: r => if x.gts < e.gts ∨ (x.gts = e.gts ∧ x.source ≤ e.source) then x :: evInsert e r else e :: x :: r

/-- LOG_WRITE: the events of Ells that have ended are written in the order of R26. -/
def tickLog (s : State) : State :=
  let start := s.startOf s.ell
  let old := s.log.fresh.filter fun e => decide (e.gts < start)
  let keep := s.log.fresh.filter fun e => decide (start ≤ e.gts)
  (old.foldl (fun l e => evInsert e l) []).foldl logWrite { s with log := { s.log with fresh := keep } }

/-- LOG_RD_WRITE: `rd` moves unless it would raise the unread count. -/
def opLogRd (m : Master) (v : Nat) : State → State :=
  guardWrite m (baseSV + 0x894) fun s =>
    let s := s.setReg (baseSV + 0x894) (v &&& 0x03FF0000)
    let l := { s.log with rd := v % 1024 }
    if logUnread l ≤ logUnread s.log then { s with log := l } else s

/-- LOG_RD_WRITE. -/
def execLogRdWrite (t : Gts) (m : Master) (v : Word) : State → Host.Outcome State Fault Refusal := act t (opLogRd m v.toNat)

end Sys2Proof.Machine
end

