-- ==== Sys2Proof/Machine/Trust.lean ====
section
/-! DEFINITION. The Trust Block, [18]: fuses, owner keys, anti-rollback, certificates, lifecycle, debug sessions,
zeroization, Lockdown and attestation. ML-DSA-65 is named and not restated: whether a signature verifies is an open
function of Config, and the bytes of a signature are an operand (log 5). -/

namespace Sys2Proof.Machine

/-- GL_ID (R426). -/
def glId : Nat := 0x4096C412

/-- The fuses of an owner key slot, KEK or lifecycle change. -/
def State.updFuses (s : State) (f : Fuses → Fuses) : State := { s with fuses := f s.fuses }

/-- An operation ends with a result (R421). -/
def trResult (r : Nat) (s : State) : State := s.updTrust fun t => { t with result := r }

/-- TR_XFER is cleared after every `op` (R412). -/
def trClear (s : State) : State := s.updTrust fun t => { t with xfer := [] }

/-- The identity public key (R411). -/
def idKey : List Byte := (List.range 1952).map Config.identityKey

/-- `device` of R409. -/
def deviceId : List Byte := shake256 idKey

/-- The Casholt service public key of the boot ROM (R410). -/
def serviceKey : List Byte := (List.range 1952).map Config.serviceKey

/-- TR_NONCE now (R410). -/
def nonceNow (s : State) : List Byte := (List.range 32).map (Config.nonce s.trust.nonceN)

/-- TR_NONCE takes a new random value. -/
def newNonce (s : State) : State := s.updTrust fun t => { t with nonceN := t.nonceN + 1 }

/-- The hash of an owner slot; none when it is empty (R404, R407). -/
def slotHash (s : State) (i : Nat) : List Byte := tget [] s.fuses.slots i

/-- A slot that is programmed and not revoked (R407). -/
def slotLive (s : State) (i : Nat) : Bool := slotHash s i != [] && !s.fuses.revoked.getLsbD i

/-! ## Zeroization and Lockdown (R417, R418) -/

/-- Key zeroization begins: cause 0 Invasive, 1 Lockdown, 2 Returned (R417, R420). -/
def zeroize (cause : Nat) (s : State) : State :=
  let s := ceZeroize s
  let s := s.updTrust fun t => { t with xfer := [], kekDown := true, zeroizing := true, zeroized := true }
  s.raise 16 0x1005 [cause]

/-- The count at which an advance stops after its current bit (R418). -/
def stopCount (s : State) : Nat :=
  if s.trust.busyOp = 7 then max s.fuses.rollback (min s.trust.advTo (s.fuses.rollback + 1)) else s.fuses.rollback

/-- Lockdown (R401, R418): trigger 0 operation, 1 fuse integrity, 2 refusals, 3 glitch detector. -/
def doLockdown (trigger : Nat) (s : State) : State :=
  match s.sup.mode with
  | .off => s
  | .standby => s
  | .lockdown => s
  | m =>
    let n := stopCount s
    let opened := s.trust.level ≠ 0
    let r := resetBlocks s
    let r := { r with
      fuses := { s.fuses with rollback := n }
      trust := { s.trust with
        level := 0, sessEnd := none, busyOp := 0, idErased := true, idReady := false, snap := [], report := []
        cert := [], pendInv := none, flashPass := false } }
    let r := r.raise 16 0x1008 [trigger]
    let r := zeroize 1 r
    let r := if opened then r.raise 16 0x1004 [4] else r
    let r := r.updSup fun u => { u with mode := .lockdown, prev := m }
    r.raiseSv 0x80 [m.code, Mode.lockdown.code, 10]

/-! ## Debug sessions (R414-R416) -/

/-- Whether a session may open in a mode (R416). -/
def mayOpen (s : State) (level : Nat) : Bool :=
  match s.sup.mode with
  | .configure => true | .calibrate => true | .service => true | .sheltered => true | .reconfigure => true
  | .test => level == 1
  | .recovery => level == 1
  | .debug => level == 2 && s.trust.level == 0
  | _ => false

/-- A session opens; an Invasive one asks for Debug (R400, R416). -/
def openLevel (level : Nat) (until' : Option Nat) (s : State) : State :=
  let s := s.updTrust fun t =>
    { t with level := level, sessEnd := until', obsSince := t.obsSince || level == 1, invSince := t.invSince || level == 2 }
  let s := s.raise 16 0x1003 [level]
  if level = 2 ∧ s.sup.mode ≠ .debug then askMode 70 .debug false s else s

/-- OPEN (R415): Invasive where Blank and the mode allow it, else Observe in Blank and Provisioned. -/
def opOpen (s : State) : State :=
  if s.fuses.lifecycle = 0 ∧ mayOpen s 2 then trResult 0 (openLevel 2 none s)
  else if s.fuses.lifecycle ≤ 1 ∧ mayOpen s 1 then trResult 0 (openLevel 1 none s)
  else trResult 7 s

/-- CLOSE (R414). -/
def opClose (s : State) : State := if s.trust.level = 0 then trResult 7 s else trResult 0 (closeDebug 1 s)

/-! ## Fuse operations (R407, R408, R412, R413) -/

/-- Programming an owner key slot; bytes of zero blow nothing. -/
def programSlot (i : Nat) (h : List Byte) (s : State) : State :=
  if allZero h then s
  else (s.updFuses fun f => { f with slots := tset [] f.slots i h }).raise 16 0x1009 [i, 0]

/-- PROG_SLOT (R407). -/
def opProgSlot (arg : Nat) (s : State) : State :=
  if 1 < s.fuses.lifecycle then trResult 7 s
  else if 3 < arg then trResult 8 s
  else if slotHash s arg ≠ [] then trResult 7 s
  else trResult 0 (programSlot arg (tgets 0 s.trust.xfer 0 64) s)

/-- PROG_KEK (R412). -/
def opProgKek (arg : Nat) (s : State) : State :=
  if 1 < s.fuses.lifecycle then trResult 7 s
  else if arg = 0 ∨ 3 < arg then trResult 8 s
  else if tget [] s.fuses.keks arg ≠ [] then trResult 7 s
  else
    let k := tgets 0 s.trust.xfer 0 32
    trResult 0 (if allZero k then s else s.updFuses fun f => { f with keks := tset [] f.keks arg k })

/-- Modes in which the counter advances (R408). -/
def mayAdvance (s : State) : Bool := s.sup.mode == .configure || s.sup.mode == .service || s.sup.mode == .sheltered

/-- Whether a new count is in range (R408); without a running bitstream the firmware alone bounds it. -/
def advanceOk (s : State) (v : Nat) : Bool :=
  decide (s.fuses.rollback < v) && decide (v ≤ 64) && decide (v ≤ s.trust.fwSec) &&
    (!s.cfg.built || decide (v ≤ s.cfg.hdr.secVersion))

/-- The blowing begins (R408). -/
def startAdvance (v : Nat) (s : State) : State :=
  s.updTrust fun t => { t with busyOp := 7, advTo := v, advFrom := s.now, advOld := s.fuses.rollback }

/-- ADVANCE in Blank (R408). -/
def opAdvance (arg : Nat) (s : State) : State :=
  if s.fuses.lifecycle ≠ 0 ∨ ¬ mayAdvance s then trResult 7 s
  else if ¬ advanceOk s arg then trResult 8 s
  else trResult 0 (startAdvance arg s)

/-- A lifecycle transition, with its event (R413, R420). -/
def setLifecycle (n : Nat) (s : State) : State :=
  (s.updFuses fun f => { f with lifecycle := n }).raise 16 0x1006 [s.fuses.lifecycle, n]

/-- PROVISION and DEPLOY (R413). -/
def opLifecycle (from' : Nat) (confirm : Nat) (s : State) : State :=
  if confirm ≠ 0x5A then trResult 9 s
  else if s.fuses.lifecycle ≠ from' ∨ (from' = 0 ∧ slotHash s 0 = []) then trResult 7 s
  else trResult 0 (setLifecycle (from' + 1) s)

/-- LOCKDOWN (R418): from the host or the management SPI. -/
def opLockdown (m : Master) (confirm : Nat) (s : State) : State :=
  if confirm ≠ 0x5A then trResult 9 s
  else if m = .host ∨ m = .spi then trResult 0 (doLockdown 0 s)
  else trResult 7 s

/-- FLASH_PASS (R406). -/
def opFlashPass (m : Master) (s : State) : State :=
  if m = .spi ∧ s.sup.mode = .boot ∧ s.sup.bootErr ≠ 0 then trResult 0 (s.updTrust fun t => { t with flashPass := true })
  else trResult 7 s

/-! ## Certificates (R409, R410) -/

def certKind (c : List Byte) : Nat := byteAt c 6
def certSigner (c : List Byte) : Nat := byteAt c 7
def certArg (c : List Byte) : Nat := u64 c 0x68
def certPub (c : List Byte) : List Byte := slice c 0xC0 1952

/-- Check 1: `magic`, `format`, `kind` and zero fields. -/
def certForm (c : List Byte) : Bool :=
  slice c 0 4 == [0x54, 0x43, 0x45, 0x52] && u16 c 4 == 1 && decide (1 ≤ certKind c) && decide (certKind c ≤ 6)
    && (certKind c == 3 || allZero (slice c 0x70 64)) && allZero (slice c 0xB0 16)

/-- Check 4: the signer and its public key (R407, R410, R413). -/
def certKey (s : State) (c : List Byte) : Bool :=
  let k := certSigner c
  match s.fuses.lifecycle with
  | 0 => false
  | 3 => k == 0xFF && certPub c == serviceKey
  | _ => decide (k < 4) && slotLive s k && !(certKind c == 4 && certArg c == k) && shake256 (certPub c) == slotHash s k

/-- Checks 1 to 4, in order: 0 when they pass. -/
def certEarly (s : State) (c : List Byte) : Nat :=
  if ¬ certForm c then 2
  else if slice c 0x48 32 ≠ nonceNow s then 3
  else if slice c 8 64 ≠ deviceId then 4
  else if ¬ certKey s c then 5
  else 0

/-- Check 6: the request in its state, mode and range. -/
def certLate (s : State) (c : List Byte) : Nat :=
  let life := s.fuses.lifecycle
  let a := certArg c
  let owned := life == 1 || life == 2
  match certKind c with
  | 1 => if life < 2 ∨ ¬ mayOpen s 1 then 7 else if a = 0 ∨ 86400 < a then 8 else 0
  | 2 => if life = 0 ∨ ¬ mayOpen s 2 then 7 else if a = 0 ∨ 86400 < a then 8 else 0
  | 3 => if ¬ owned then 7 else if 3 < a then 8 else if slotHash s a ≠ [] then 7 else 0
  | 4 =>
    if ¬ owned then 7
    else if 3 < a then 8
    else if ¬ slotLive s a then 7
    else if [0, 1, 2, 3].all (fun i => i == a || !slotLive s i) then 10
    else 0
  | 5 => if ¬ owned ∨ ¬ mayAdvance s then 7 else if ¬ advanceOk s a then 8 else 0
  | _ => if ¬ owned then 7 else 0

/-- A refusal of a certificate; the sixteenth triggers Lockdown (R410, R418). -/
def certReject (r : Nat) (src : Master) (s : State) : State :=
  let n := s.trust.rejects + 1
  let s := s.updTrust fun t => { t with result := r, rejects := min 16 n, busyOp := 0, cert := [] }
  let s := s.raise 16 0x1002 [r, srcOf src]
  if n = 16 then doLockdown 2 s else s

/-- PRESENT (R409, R410): checks 1 to 4; TR_NONCE is renewed whatever they find. One that passes them while another
operation runs is answered BUSY. -/
def opPresent (m : Master) (s : State) : State :=
  let c := tgets 0 s.trust.xfer 0 5472
  let r := certEarly s c
  let running := s.trust.busyOp
  let s := newNonce s
  if r ≠ 0 then
    let s := certReject r m s
    if s.sup.mode = .lockdown then s else s.updTrust fun t => { t with busyOp := running }
  else if running ≠ 0 then trResult 1 s
  else s.updTrust fun t => { t with busyOp := 2, cert := c, certSrc := m, result := 0 }

/-- A request whose certificate passed every check (R407, R408, R413, R415). -/
def certCarry (c : List Byte) (s : State) : State :=
  let a := certArg c
  let s := s.raise 16 0x1001 [certKind c, certSigner c]
  let s := trResult 0 (s.updTrust fun t => { t with busyOp := 0, cert := [] })
  match certKind c with
  | 1 => openLevel 1 (some (s.now + a * sec)) s
  | 2 =>
    if s.fuses.lifecycle = 2 then zeroize 0 (s.updTrust fun t => { t with busyOp := 2, pendInv := some a })
    else openLevel 2 (some (s.now + a * sec)) s
  | 3 => programSlot a (slice c 0x70 64) s
  | 4 => (s.updFuses fun f => { f with revoked := f.revoked ||| BitVec.ofNat 4 (2 ^ a) }).raise 16 0x1009 [a, 1]
  | 5 => startAdvance a s
  | _ =>
    let s := setLifecycle 3 s
    let s := s.updFuses fun f => { f with kekOff := 7, revoked := 15 }
    zeroize 2 s

/-- The verdict on a certificate's signature block, with context "TDCERT" (R409). -/
def certVerdict (c : List Byte) : Bool :=
  sigVerifies (slice c 0xC0 1952) (slice c 0 0x860) [0x54, 0x44, 0x43, 0x45, 0x52, 0x54] (slice c 0x860 3328)

/-- CERT_ACCEPT (R410): the verification of the signature ends; checks 5 and 6, then the request. It reports the verdict on the
signature; a report of any other verdict is no event of the device and changes nothing (DESIGN CHOICE, log 5). -/
def execCertAccept (t : Gts) (sigOk : Bool) : State → Host.Outcome State Fault Refusal :=
  actTrust t fun s =>
    if s.trust.busyOp = 2 ∧ s.trust.cert ≠ [] ∧ sigOk = certVerdict s.trust.cert then
      let c := s.trust.cert
      if ¬ certVerdict c then certReject 6 s.trust.certSrc s
      else
        let r := certLate s c
        if r ≠ 0 then certReject r s.trust.certSrc s else certCarry c s
    else s

/-! ## Attestation (R419) -/

/-- `debug` of a report. -/
def debugByte (t : Trust) : Nat := t.level + b2n t.obsSince * 4 + b2n t.invSince * 8 + b2n t.zeroized * 16

/-- The usable KEKs as bits. -/
def kekBits (s : State) : Nat := ([0, 1, 2, 3].map fun j => b2n (kekUsable s j) * 2 ^ j).sum

/-- Offsets 0x000 to 0x13F of a report. -/
def reportBody (s : State) : List Byte :=
  [0x54, 0x41, 0x54, 0x54] ++ toLe 2 1 ++ toLe 2 3648 ++ toLe 4 glId ++
    [BitVec.ofNat 8 s.fuses.lifecycle, BitVec.ofNat 8 (debugByte s.trust), BitVec.ofNat 8 s.sup.mode.code,
     BitVec.ofNat 8 (pstate s)] ++
    toLe 8 s.fuses.rollback ++
    [BitVec.ofNat 8 (if s.cfg.built then s.cfg.hdr.keySlot else 0xFF), BitVec.ofNat 8 s.fuses.revoked.toNat,
     BitVec.ofNat 8 (kekBits s)] ++
    List.replicate 5 0 ++ toLe 8 s.trust.fwVer ++ toLe 8 (if s.cfg.built then s.cfg.hdr.configId else 0) ++
    toLe 8 s.now ++ toLe 8 (s.ell % 2 ^ 48) ++ padTo 64 s.trust.fwMeas ++
    padTo 64 (if s.cfg.built then s.cfg.measurement else []) ++ deviceId ++
    (List.range 8).flatMap (fun j => toLe 4 (s.reg (baseTR + 0x220 + 4 * j))) ++ List.replicate 32 0

/-- ATTEST (R419): the values are those of the grain of acceptance. -/
def opAttest (s : State) : State :=
  if s.trust.idErased then trResult 7 s
  else trResult 0 (s.updTrust fun t => { t with busyOp := 1, snap := reportBody s })

/-- REPORT_READY (R419): the report is signed, once the identity is ready. -/
def execReportReady (t : Gts) (signature : List Byte) : State → Host.Outcome State Fault Refusal :=
  actTrust t fun s =>
    if s.trust.busyOp = 1 ∧ s.trust.idReady then
      s.updTrust fun t => { t with busyOp := 0, report := t.snap ++ sigBlockOf signature, snap := [] }
    else s

/-! ## TR_CTRL (R421) -/

/-- A write of TR_CTRL. The debug port may submit certificates and open and close sessions at every level (log 21); any
other operation needs Invasive. LOCKDOWN acts whatever runs; any other operation is answered BUSY. -/
def trOp (m : Master) (op arg confirm : Nat) : State → State :=
  guardWrite m baseTR fun s =>
    if m = .debug ∧ s.trust.level < 2 ∧ ¬ (2 ≤ op ∧ op ≤ 4) then s
    else if op = 0 ∨ 11 < op then s
    else
      trClear
        (if op = 10 then opLockdown m confirm s
         else if op = 2 then opPresent m s
         else if s.trust.busyOp ≠ 0 then trResult 1 s
         else
           match op with
           | 1 => opAttest s
           | 3 => opOpen s
           | 4 => opClose s
           | 5 => opProgSlot arg s
           | 6 => opProgKek arg s
           | 7 => opAdvance arg s
           | 8 => opLifecycle 0 confirm s
           | 9 => opLifecycle 1 confirm s
           | _ => opFlashPass m s)

def execAttest (t : Gts) (m : Master) : State → Host.Outcome State Fault Refusal := actTrust t (trOp m 1 0 0)
def execPresent (t : Gts) (m : Master) : State → Host.Outcome State Fault Refusal := actTrust t (trOp m 2 0 0)
def execOpenSession (t : Gts) (m : Master) : State → Host.Outcome State Fault Refusal := actTrust t (trOp m 3 0 0)
def execCloseSession (t : Gts) (m : Master) : State → Host.Outcome State Fault Refusal := actTrust t (trOp m 4 0 0)
def execProgSlot (t : Gts) (m : Master) (arg : Byte) : State → Host.Outcome State Fault Refusal :=
  actTrust t (trOp m 5 arg.toNat 0)
def execProgKek (t : Gts) (m : Master) (arg : Byte) : State → Host.Outcome State Fault Refusal :=
  actTrust t (trOp m 6 arg.toNat 0)
def execAdvance (t : Gts) (m : Master) (arg : Byte) : State → Host.Outcome State Fault Refusal :=
  actTrust t (trOp m 7 arg.toNat 0)
def execProvision (t : Gts) (m : Master) (c : Byte) : State → Host.Outcome State Fault Refusal :=
  actTrust t (trOp m 8 0 c.toNat)
def execDeploy (t : Gts) (m : Master) (c : Byte) : State → Host.Outcome State Fault Refusal :=
  actTrust t (trOp m 9 0 c.toNat)
def execLockdown (t : Gts) (m : Master) (c : Byte) : State → Host.Outcome State Fault Refusal :=
  actTrust t (trOp m 10 0 c.toNat)
def execFlashPass (t : Gts) (m : Master) : State → Host.Outcome State Fault Refusal := actTrust t (trOp m 11 0 0)

/-! ## Events -/

/-- FUSE_CHECK (R404, R418). -/
def execFuseCheck (t : Gts) (differs : Bool) : State → Host.Outcome State Fault Refusal :=
  actTrust t fun s => if differs then doLockdown 1 s else s

/-- GLITCH_DETECT (R418). -/
def execGlitchDetect (t : Gts) : State → Host.Outcome State Fault Refusal := actTrust t (doLockdown 3)

/-- ID_READY (R411). -/
def execIdReady (t : Gts) : State → Host.Outcome State Fault Refusal :=
  actTrust t fun s => if s.trust.idErased then s else s.updTrust fun t => { t with idReady := true }

/-- DEBUG_CLOSE (R414): the session of a certificate expires. -/
def execDebugClose (t : Gts) : State → Host.Outcome State Fault Refusal :=
  actTrust t fun s =>
    match s.trust.sessEnd with
    | some e => if e ≤ s.now then closeDebug 0 s else s
    | none => s

/-- FUSE_OPERATION_DONE (R408): every bit of the advance is blown. -/
def execFuseOperationDone (t : Gts) : State → Host.Outcome State Fault Refusal :=
  actTrust t fun s =>
    if s.trust.busyOp = 7 ∧ s.trust.advTo ≤ s.fuses.rollback then
      (trResult 0 (s.updTrust fun t => { t with busyOp := 0 })).raise 16 0x1007 [s.trust.advOld, s.fuses.rollback]
    else s

/-- ZEROIZE_COMPLETE (R417): the memories are overwritten; a waiting Invasive session opens. -/
def execZeroizeComplete (t : Gts) : State → Host.Outcome State Fault Refusal :=
  actTrust t fun s =>
    if s.trust.zeroizing then
      let p := s.trust.pendInv
      let s := s.updTrust fun t => { t with zeroizing := false, pendInv := none, busyOp := if p.isSome then 0 else t.busyOp }
      match p with
      | some a => if mayOpen s 2 then openLevel 2 (some (s.now + a * sec)) s else trResult 7 s
      | none => s
    else s

/-- TR_RESULT and TR_STATE (R421). -/
def trResultWord (s : State) : Nat := s.trust.result * 2 ^ 28 + b2n (s.trust.busyOp ≠ 0) * 2 ^ 27 + s.trust.rejects
def trStateWord (s : State) : Nat :=
  s.fuses.lifecycle * 2 ^ 30 + s.trust.level * 2 ^ 28 + b2n s.trust.zeroized * 2 ^ 27 + b2n s.trust.idReady * 2 ^ 26
    + s.fuses.revoked.toNat * 2 ^ 20 + ([0, 1, 2, 3].map fun i => b2n (slotHash s i ≠ []) * 2 ^ (16 + i)).sum
    + kekBits s * 2 ^ 12 + s.fuses.rollback

/-- TR_DBG_LEFT (R421): seconds left, rounded up. -/
def trLeft (s : State) : Nat := match s.trust.sessEnd with | some e => cdiv (e - s.now) sec | none => 0

end Sys2Proof.Machine
end

