-- ==== Sys2Proof/Machine/Admission.lean ====
section
/-! DEFINITION. Admission at floor pace, R53: charges, and the planned finish of every task. -/

namespace Sys2Proof.Machine

/-- Charge of a task (R53). -/
def chargeOf (b : List Byte) : Nat :=
  runCharge b + (if bit (tkFlags b) 0 then 12500 else 0) + (if bit (tkFlags b) 1 then 15000 else 0)

/-- A core's schedule while it is planned: the tasks left, and the finish of the last one planned. -/
structure PlanCore where
  left : List (Nat × List Byte)
  time : Nat

/-- Planning tasks of one core until one waits for a producer that is not planned yet. -/
def planRun (r : Recs) : List (Nat × List Byte) → Nat → Tbl (Option Nat) → PlanCore × Tbl (Option Nat)
  | [], time, done => ({ left := [], time := time }, done)
  | (t, b) :: rest, time, done =>
    let deps := (depsOf r t).map fun u => tget none done u
    if deps.all Option.isSome then
      let f := (deps.filterMap id).foldl max time + chargeOf b
      planRun r rest f (tset none done t (some f))
    else ({ left := (t, b) :: rest, time := time }, done)

/-- Rounds over all cores until no task is left or none moves. -/
def planRounds (r : Recs) : Nat → List PlanCore → Tbl (Option Nat) → Tbl (Option Nat)
  | 0, _, done => done
  | k + 1, cores, done =>
    let (cs, d) := cores.foldl (fun a c =>
      let (c', d) := planRun r c.left c.time a.2
      (a.1 ++ [c'], d)) (([], done) : List PlanCore × Tbl (Option Nat))
    if cs.all fun c => c.left.isEmpty then d
    else if d.length = done.length then d
    else planRounds r k cs d

/-- In-service cores that carry tasks, by core number. -/
def busyCores (r : Recs) : List Nat :=
  ((recsOf r tyTASK).map fun e => tkOwner e.2).foldl (fun l c => insertN l c) []

/-- Planned finish of every task; a task that waits on its own finish has none (R53). -/
def planOf (r : Recs) : Tbl (Option Nat) :=
  let tasks := recsOf r tyTASK
  planRounds r (tasks.length + 1) ((busyCores r).map fun c => { left := tasksOn r c, time := 0 }) []

/-- The last planned finish among some tasks. -/
def lastFinish (plan : Tbl (Option Nat)) (ts : List Nat) : Nat :=
  ts.foldl (fun m t => max m ((tget none plan t).getD 0)) 0

/-- Sum of all charges (R38, R46). -/
def ledgerOf (r : Recs) : Nat := ((recsOf r tyTASK).map fun e => chargeOf e.2).sum

/-- The ADMIT entry of in-service core 4 x holm + core (R46). -/
def admitEntry (r : Recs) (plan : Tbl (Option Nat)) (j : Nat) : List Byte :=
  let h := j / 4
  let c := j % 4
  let ts := tasksOn r (5 * h + c)
  let g := lastFinish plan ((ts.filter fun e => tkClass e.2 == 0).map (·.1))
  toLe 1 h ++ toLe 1 c ++ toLe 1 (stageOf r h c) ++ toLe 1 0 ++ toLe 4 g ++ toLe 4 (lastFinish plan (ts.map (·.1))) ++ toLe 4 0

/-- The ADMIT body of a structure (R46). -/
def admitBody (r : Recs) : List Byte :=
  let plan := planOf r
  (List.range 64).flatMap (admitEntry r plan)

/-- What a task waits for (R53): the task before it on its core, and the producers of its DEPEND record. -/
def waitsFor (r : Recs) (t : Nat) : List Nat :=
  match recGet r tyTASK t with
  | none => []
  | some b => (((tasksOn r (tkOwner b)).takeWhile fun e => e.1 != t).getLast?.map (·.1)).toList ++ depsOf r t

/-- Rounds of `waitsFor` over the tasks that have no planned finish. -/
def waitClosure (r : Recs) (plan : Tbl (Option Nat)) : Nat → List Nat → List Nat
  | 0, l => l
  | k + 1, l =>
    let m := (l.flatMap fun t => (waitsFor r t).filter fun u => (tget none plan u).isNone).foldl insertN l
    if m.length = l.length then l else waitClosure r plan k m

/-- Tasks that wait, directly or through other tasks, on their own finish (R53): such a task has no planned finish and is
among those it waits for. -/
def stuckTasks (r : Recs) : List Nat :=
  let plan := planOf r
  let none' := ((recsOf r tyTASK).map (·.1)).filter fun t => (tget none plan t).isNone
  none'.filter fun t => (waitClosure r plan none'.length ((waitsFor r t).filter fun u => none'.contains u)).contains t

/-- Tasks that finish too late (R53). -/
def lateTasks (r : Recs) : List Nat :=
  let plan := planOf r
  ((recsOf r tyTASK).filter fun e => decide ((if tkClass e.2 = 0 then 62500 else 125000) < (tget none plan e.1).getD 0)).map (·.1)

end Sys2Proof.Machine
end

