-- ==== Sys2Proof/Machine/Compress.lean ====
section
/-! DEFINITION. The Compression Engine and the Dalow format, [13]: the decoder of R322, the raw image, the units, and
host contexts. What the match search finds (R325) arrives with BLOCK_VERIFY as the bits of the block. -/

namespace Sys2Proof.Machine

/-! ## CZCTX (R312) -/

def czKind (b : List Byte) : Nat := byteAt b 0
def czMode (b : List Byte) : Nat := byteAt b 1
def czClass (b : List Byte) : Nat := byteAt b 2
def czDelta (b : List Byte) : Bool := bit (byteAt b 3) 0
def czFplane (b : List Byte) : Nat := fld (byteAt b 3) 2 1
def czW16 (b : List Byte) : Bool := bit (byteAt b 3) 3
def czStream (b : List Byte) : Nat := u16 b 4
def czQin (b : List Byte) : Nat := byteAt b 6
def czQout (b : List Byte) : Nat := byteAt b 7
def czMax (b : List Byte) : Nat := u16 b 8

/-- Layout of a CZCTX body (R312, R461). -/
def formCZCTX (b : List Byte) : Bool :=
  let k := czKind b
  b.length == 16 && decide (k < 4) && decide (czMode b < 3) && decide (czClass b < 3) && byteAt b 3 / 16 == 0 &&
    decide (czFplane b < 2) && (k == 1 || k == 2 || czMode b == 0) && (decide (k < 2) || byteAt b 3 == 0) && allZero (slice b 0xA 6)

/-- Ranges of R312 and R313 that concern one body. -/
def limitCZCTX (b : List Byte) : Bool :=
  let k := czKind b
  (if k < 2 then decide (czStream b < 1024) && czQin b == 0x7F && czQout b == 0x7F
   else czStream b == 0xFFFF && decide (czQin b < 96) && decide (czQout b < 96)) &&
    (if k = 1 ∨ k = 2 then decide (64 ≤ czMax b) && decide (czMax b ≤ if czMode b = 0 then 1024 else 8192) else czMax b == 0) &&
    (czClass b != 0 || czMode b == 0)

/-- The context that handles what arrives now. -/
def czRec (s : State) (c : Nat) : Option (List Byte) := s.recAt s.soon tyCZCTX c

namespace State
def unit (s : State) (u : Nat) : CzUnit := tget {} s.cz.units u
def setUnit (s : State) (u : Nat) (x : CzUnit) : State := { s with cz := { s.cz with units := tset {} s.cz.units u x } }
def czStat (s : State) (c : Nat) : CzStat := tget {} s.cz.stat c
def setCzStat (s : State) (c : Nat) (x : CzStat) : State := { s with cz := { s.cz with stat := tset {} s.cz.stat c x } }
end State

/-! ## Bits and codes (R316, R319) -/

/-- The bits of a byte from the least significant on. -/
def bitsOf (b : Byte) : List Bool := (List.range 8).map fun i => b.getLsbD i

/-- A bit stream that is being read, and how many bits of it have been. -/
structure Bits where
  rest : List Bool
  used : Nat

/-- Why a decode fails (R331): 1 format, 2 check, 3 length. -/
abbrev Dec (α : Type) := Except Nat α

/-- A field of `n` bits, least significant first. -/
def getBits : Nat → Bits → Dec (Nat × Bits)
  | 0, s => .ok (0, s)
  | n + 1, s =>
    match s.rest with
    | [] => .error 3
    | b :: r => do
      let (v, s) ← getBits n { rest := r, used := s.used + 1 }
      return (b2n b + 2 * v, s)

/-- The bits up to the next byte boundary are skipped; R321 rejects no stream for their values (DEDUCED, log 20). -/
def alignBits (s : Bits) : Dec Bits :=
  let n := (8 - s.used % 8) % 8
  if s.rest.length < n then .error 3 else .ok { rest := s.rest.drop n, used := s.used + n }

/-- A code table: the length of each symbol. -/
abbrev Codes := List Nat

/-- Symbols of one length, ascending. -/
def symsOf (t : Codes) (l : Nat) : List Nat := (t.zipIdx).filterMap fun e => if e.1 = l then some e.2 else none

/-- Decoding one symbol, most significant code bit first; `code` and `first` are those of the length before. -/
def decodeSym (t : Codes) : Nat → Nat → Nat → Nat → Bits → Dec (Nat × Bits)
  | 0, _, _, _, _ => .error 1
  | k + 1, l, code, first, s =>
    match s.rest with
    | [] => .error 3
    | b :: r =>
      let s : Bits := { rest := r, used := s.used + 1 }
      let code := 2 * code + b2n b
      let first := 2 * first
      let syms := symsOf t l
      if first ≤ code ∧ code < first + syms.length then .ok (syms.getD (code - first) 0, s)
      else decodeSym t k (l + 1) code (first + syms.length) s

/-- A symbol of a table. -/
def getSym (t : Codes) (s : Bits) : Dec (Nat × Bits) := decodeSym t 12 1 0 0 s

/-- Used symbols of a table. -/
def usedSyms (t : Codes) : Nat := (t.filter (· ≠ 0)).length

/-- The completeness check of R321; a table with one used symbol takes the code 0. -/
def checkTable (t : Codes) (emptyOk : Bool) : Dec Codes :=
  if usedSyms t = 0 then (if emptyOk then .ok t else .error 1)
  else if usedSyms t = 1 then .ok (t.map fun l => if l = 0 then 0 else 1)
  else if (t.map fun l => if l = 0 then 0 else 2 ^ (12 - l)).sum = 4096 then .ok t
  else .error 1

/-- Static tables (R319). -/
def staticLit : Codes :=
  List.replicate 16 7 ++ List.replicate 22 8 ++ List.replicate 180 9 ++ List.replicate 22 8 ++ List.replicate 45 7
def staticDist : Codes := List.replicate 6 4 ++ List.replicate 20 5

/-- The order of the code-length lengths (R320). -/
def clOrder : List Nat := [13, 14, 15, 0, 12, 1, 11, 2, 10, 3, 9, 4, 8, 5, 7, 6]

/-- Reading `n` fields of three bits. -/
def getLens : Nat → Bits → Dec (List Nat × Bits)
  | 0, s => .ok ([], s)
  | n + 1, s => do
    let (v, s) ← getBits 3 s
    let (vs, s) ← getLens n s
    return (v :: vs, s)

/-- The code lengths of both tables, newest first (R320); `fuel` bounds the symbols read. -/
def getCodeLens (t : Codes) (total : Nat) : Nat → List Nat → Bits → Dec (List Nat × Bits)
  | 0, _, _ => .error 1
  | fuel + 1, acc, s =>
    if acc.length = total then .ok (acc, s)
    else do
      let (y, s) ← getSym t s
      let (run, s) ←
        if y < 13 then pure ([y], s)
        else if y = 13 then
          match acc with
          | [] => .error 1
          | p :: _ => do
            let (e, s) ← getBits 2 s
            pure (List.replicate (3 + e) p, s)
        else if y = 14 then do
          let (e, s) ← getBits 3 s
          pure (List.replicate (3 + e) 0, s)
        else do
          let (e, s) ← getBits 6 s
          pure (List.replicate (11 + e) 0, s)
      if total < acc.length + run.length then .error 1 else getCodeLens t total fuel (run ++ acc) s

/-- The tables of a dynamic block (R320, R321). -/
def getTables (s : Bits) : Dec (Codes × Codes × Bits) := do
  let (nlit, s) ← getBits 5 s
  let (ndist, s) ← getBits 5 s
  let (ncl, s) ← getBits 4 s
  if 28 < nlit ∨ 25 < ndist ∨ 12 < ncl then .error 1
  else
    let (cls, s) ← getLens (4 + ncl) s
    let cl := (List.range 16).map fun y => ((clOrder.zip cls).find? fun e => e.1 == y).map (·.2) |>.getD 0
    let cl ← checkTable cl false
    let total := 258 + nlit + ndist
    let (rev, s) ← getCodeLens cl total (total + 1) [] s
    let lens := rev.reverse
    let lit := lens.take (257 + nlit)
    if lit.getD 256 0 = 0 then .error 1
    else
      let lit ← checkTable lit false
      let dist ← checkTable (lens.drop (257 + nlit)) true
      return (lit, dist, s)

/-! ## Lengths and distances (R318) -/

/-- Base and extra bits of a length symbol. -/
def lenCode (y : Nat) : Nat × Nat :=
  let k := y - 257
  if k < 8 then (4 + k, 0)
  else
    let g := (k - 8) / 4 + 1
    (12 + 4 * (2 ^ g - 2) + (k - 8) % 4 * 2 ^ g, g)

/-- Base and extra bits of a distance symbol. -/
def distCode (k : Nat) : Nat × Nat :=
  if k < 4 then (k + 1, 0)
  else
    let g := (k - 4) / 2 + 1
    (2 ^ (g + 1) + 1 + (k - 4) % 2 * 2 ^ g, g)

/-- Copying `n` bytes from distance `d`; the output is held newest first. -/
def copyBack : Nat → Nat → List Byte → List Byte
  | 0, _, out => out
  | n + 1, d, out => copyBack n d (out.getD (d - 1) 0 :: out)

/-! ## The decoder (R322) -/

/-- What has been decoded: the output, newest first, and its length. -/
structure Out where
  rev : List Byte
  size : Nat

/-- The symbols of a coded block. -/
def decSyms (z : Nat) (lit dist : Codes) : Nat → Out → Bits → Out × Dec Bits
  | 0, o, _ => (o, .error 3)
  | fuel + 1, o, s =>
    if z < o.size then (o, .error 3)
    else
      match getSym lit s with
      | .error e => (o, .error e)
      | .ok (y, s) =>
        if y < 256 then decSyms z lit dist fuel { rev := BitVec.ofNat 8 y :: o.rev, size := o.size + 1 } s
        else if y = 256 then (o, .ok s)
        else if 284 < y then (o, .error 1)
        else
          let go : Dec (Nat × Nat × Bits) := do
            let (nb, ne) := lenCode y
            let (e, s) ← getBits ne s
            let (k, s) ← getSym dist s
            if 25 < k then .error 1
            else
              let (db, de) := distCode k
              let (f, s) ← getBits de s
              return (nb + e, db + f, s)
          match go with
          | .error e => (o, .error e)
          | .ok (n, d, s) =>
            if o.size < d then (o, .error 1)
            else decSyms z lit dist fuel { rev := copyBack n d o.rev, size := o.size + n } s

/-- One block: the output and, when it ends well, whether it is the last one and the bits after it. -/
def decBlock (z : Nat) (o : Out) (s : Bits) : Out × Dec (Bool × Bits) :=
  let head : Dec (Nat × Nat × Bits) := do
    let (l, s) ← getBits 1 s
    let (b, s) ← getBits 2 s
    return (l, b, s)
  match head with
  | .error e => (o, .error e)
  | .ok (l, bt, s) =>
    if bt = 0 then
      let go : Dec (List Byte × Bits) := do
        let s ← alignBits s
        let (n, s) ← getBits 16 s
        if n = 0 then .error 1
        else if s.rest.length < 8 * n then .error 3
        else
          let bytes := (List.range n).map fun i =>
            BitVec.ofNat 8 (((s.rest.drop (8 * i)).take 8).zipIdx.map fun e => b2n e.1 * 2 ^ e.2).sum
          return (bytes, { rest := s.rest.drop (8 * n), used := s.used + 8 * n })
      match go with
      | .error e => (o, .error e)
      | .ok (bytes, s) =>
        let o : Out := { rev := bytes.reverse ++ o.rev, size := o.size + bytes.length }
        (o, if z < o.size then .error 3 else .ok (l == 1, s))
    else if bt = 3 then (o, .error 1)
    else
      let tabs : Dec (Codes × Codes × Bits) := if bt = 1 then .ok (staticLit, staticDist, s) else getTables s
      match tabs with
      | .error e => (o, .error e)
      | .ok (lit, dist, s) =>
        match decSyms z lit dist (s.rest.length + 1) o s with
        | (o, .error e) => (o, .error e)
        | (o, .ok s) => (o, if z < o.size then .error 3 else .ok (l == 1, s))

/-- The blocks of a stream. -/
def decBlocks (z : Nat) : Nat → Out → Bits → Out × Dec Bits
  | 0, o, _ => (o, .error 3)
  | fuel + 1, o, s =>
    match decBlock z o s with
    | (o, .error e) => (o, .error e)
    | (o, .ok (true, s)) => (o, .ok s)
    | (o, .ok (false, s)) => decBlocks z fuel o s

/-- Decoding a Dalow stream against the raw length `z`: the bytes produced, and the cause of a failure (R322). -/
def dalow (z : Nat) (stream : List Byte) : List Byte × Option Nat :=
  let bits := stream.flatMap bitsOf
  let (o, r) := decBlocks z (bits.length + 1) { rev := [], size := 0 } { rest := bits, used := 0 }
  let out := o.rev.reverse
  match r with
  | .error e => (out, some e)
  | .ok s =>
    match alignBits s with
    | .error e => (out, some e)
    | .ok s =>
      if o.size ≠ z then (out, some 3)
      else
        match getBits 32 s with
        | .error e => (out, some e)
        | .ok (c, s) =>
          if c ≠ (crc32c out).toNat then (out, some 2) else if s.rest ≠ [] then (out, some 3) else (out, none)

/-! ## The raw image (R314, R315) -/

/-- A list cut into pieces of `n`. -/
def pieces {α : Type} (n : Nat) : Nat → List α → List (List α)
  | 0, _ => []
  | k + 1, l => l.take n :: pieces n k (l.drop n)

/-- The values of a raw image in the order of their bytes, from samples in the interleaved order. -/
def imageOrder (c n : Nat) (delta : Bool) (m : Nat) (xs : List Nat) : List Nat :=
  if ¬ delta then xs
  else (List.range c).flatMap fun (i : Nat) => (List.range n).map fun (j : Nat) =>
    let x := xs.getD (j * c + i) 0
    if j = 0 then x else (x + m - xs.getD ((j - 1) * c + i) 0) % m

/-- The flag plane: one nibble per sample, the high nibble first. -/
def flagPlane : List Nat → List Byte
  | a :: b :: r => BitVec.ofNat 8 (a * 16 + b) :: flagPlane r
  | [a] => [BitVec.ofNat 8 (a * 16)]
  | [] => []

/-- Nibble of a container: `c`, `s`, `t`. -/
def flagNibble (w : Nat) : Nat := fld w 6 4

/-- The header and raw image of a transmit packet. -/
def buildImage (b : List Byte) (hi : Bool) (c n : Nat) (conts : List Word) : List Byte × List Byte :=
  let w := if czW16 b then 2 else 3
  let m := 2 ^ (8 * w)
  let xs := conts.map fun x => if czW16 b then wrap 16 (round16 x.toNat) else x.toNat / 256
  let f := czFplane b == 1 && conts.any fun x => flagNibble x.toNat != 0
  let order (ys : List Nat) : List Nat :=
    if czDelta b then (List.range c).flatMap fun (i : Nat) => (List.range n).map fun (j : Nat) => ys.getD (j * c + i) 0 else ys
  let hdr := BitVec.ofNat 8 (64 + 32 * b2n (czDelta b) + 16 * b2n f + 8 * b2n (czW16 b) + 4 * b2n hi) ::
    BitVec.ofNat 8 (c - 1) :: toBe 2 n
  let body := (imageOrder c n (czDelta b) m xs).flatMap (toBe w)
  (hdr, body ++ (if f then flagPlane (order (conts.map fun x => flagNibble x.toNat)) else []))

/-- Whether a payload's header passes R315 for a stream. -/
def headerOk (ctl : Nat) (h : List Byte) : Bool :=
  decide (4 ≤ h.length) && fld (byteAt h 0) 7 6 == 1 && byteAt h 0 % 4 == 0 && byteAt h 1 / 64 == 0 &&
    byteAt h 1 == chOf ctl - 1 && bit (byteAt h 0) 2 == rate96 ctl && n16 h 2 == pktSamples ctl

/-- Length of the raw image that a header announces. -/
def imageLen (ctl : Nat) (h : List Byte) : Nat :=
  let n := pktSamples ctl * chOf ctl
  n * (if bit (byteAt h 0) 3 then 2 else 3) + (if bit (byteAt h 0) 4 then (n + 1) / 2 else 0)

/-- Undoing the sample-delta transform of one channel. -/
def undelta (m : Nat) : Nat → List Nat → List Nat
  | _, [] => []
  | p, d :: r => (p + d) % m :: undelta m ((p + d) % m) r

/-- The samples of a decoded image as 3 bytes each in the interleaved order, and the count of `c` bits of the plane. -/
def readImage (ctl : Nat) (h img : List Byte) : List Byte × Nat :=
  let c := chOf ctl
  let n := pktSamples ctl
  let w := if bit (byteAt h 0) 3 then 2 else 3
  let m := 2 ^ (8 * w)
  let vals := (pieces w (n * c) img).map beNat
  let vals :=
    if bit (byteAt h 0) 5 then
      let chans := (pieces n c vals).map (undelta m 0)
      (List.range n).flatMap fun (j : Nat) => chans.map fun ys => ys.getD j 0
    else vals
  let plane := if bit (byteAt h 0) 4 then img.drop (n * c * w) else []
  let cs := (plane.map fun x => b2n (bit x.toNat 6) + b2n (bit x.toNat 2)).sum
  (vals.flatMap fun v => toBe 3 (if w = 2 then v * 256 else v), cs)

/-! ## Units (R326, R327) -/

/-- The lower-numbered free unit of a kind that is not retired (R354). -/
def pickUnit (s : State) (kinds : List Nat) : Option Nat :=
  kinds.find? fun u => !(s.unit u).busy && !bit s.sup.czRetired u

/-- The unit of a kind that works for a context. -/
def unitOf (s : State) (kinds : List Nat) (c : Nat) : Option Nat :=
  kinds.find? fun u => (s.unit u).busy && (s.unit u).ctx == c

/-- Bits into bytes, the last one padded with zeros. -/
def packBits (l : List Bool) : List Byte :=
  (pieces 8 ((l.length + 7) / 8) l).map fun p => BitVec.ofNat 8 ((p.zipIdx).map fun e => b2n e.1 * 2 ^ e.2).sum

/-- The bytes that a unit has for its output: for a host compressor Z and the complete bytes of the stream. -/
def unitBytes (b : List Byte) (x : CzUnit) (done : Bool) : List Byte :=
  if czKind b = 3 then x.raw
  else
    let bytes := if done then packBits x.bits ++ toLe 4 (crc32c x.raw).toNat else packBits (x.bits.take (x.bits.length / 8 * 8))
    x.hdr ++ bytes

/-- Pushing output items of a host context while the output queue has room: every item but the last is full, and
carries `aux`[0]. The last item is pushed when `done`. -/
def pushOut (u : Nat) (b : List Byte) (done : Bool) : Nat → State → State
  | 0, s => s
  | fuel + 1, s =>
    let x := s.unit u
    match qDesc s (czQout b) with
    | none => s
    | some d =>
      let left := (unitBytes b x done).drop x.pushed
      let full := decide (qCap d < left.length)
      let room := decide (qOcc d (s.queue (czQout b)) < qSlots d) && (s.queue (czQout b)).pushWait.isNone
      if ¬ room ∨ ¬ (full ∨ (done ∧ x.busy)) then s
      else
        let it : Item :=
          { src := 8, aux := b2n full, gts := s.now, data := left.take (qCap d), err := !full && x.lost }
        let s := qPushNow (czQout b) it s
        if full then pushOut u b done fuel (s.setUnit u { x with pushed := x.pushed + qCap d, stalled := false })
        else s.setUnit u {}

/-- Bytes held in a unit's staging. -/
def staged (b : List Byte) (x : CzUnit) : Nat := if czKind b = 2 then (x.hdr.length + (x.bits.length + 7) / 8) - x.pushed else 0

/-- The status entry follows a stream that a context handled (R333). -/
def czNote (c svc coded : Nat) (s : State) : State :=
  let x := s.czStat c
  s.setCzStat c { x with svc := svc, codedLast := satN 16 coded, streams := satN 32 (x.streams + 1) }

/-- DECODE_FAIL (R323, R330): counted, and logged once per context per Ell. -/
def decodeFail (c cause : Nat) (s : State) : State :=
  let x := s.czStat c
  let s' := (s.setCzStat c { x with decodeFail := satN 16 (x.decodeFail + 1), failEll := s.ell + 1 }).bump (baseCZ + 0x218)
  if x.failEll = s.ell + 1 then s' else s'.raise 8 0x802 [c, cause]

/-! ## Encoding -/

/-- The engine marks its input and takes an item. An item is read at once and whole, so the mark set before its first block is the one
that stands before each later block of it: a rewind re-reads the item (R133; DESIGN CHOICE, log 20). -/
def takeMarked (b : List Byte) (s : State) : Option Item × State := qPopNow 8 (czQin b) (opMark (.block 8) (czQin b) s)

/-- The engine reads the item of its mark again (R133, R325). -/
def reread (b : List Byte) (s : State) : State := (qPopNow 8 (czQin b) (opRewind (.block 8) (czQin b) s)).2

/-- The engine needs its item no longer. -/
def dropMark (b : List Byte) (s : State) : State := opRelease (.block 8) (czQin b) s

/-- A compressor unit takes a transmit packet or a host item. -/
def startEncode (c : Nat) (s : State) : State :=
  match czRec s c, pickUnit s [0, 1] with
  | some b, some u =>
    if czKind b = 1 then
      match takeFirst (fun p => p.stream == czStream b && (!s.cz.delayed.contains c || decide (p.ell < s.ell))) s.cz.txq, s.recNow tyTX (czStream b) with
      | some (p, rest), some tb =>
        let n := pktSamples (rxCtl tb)
        let (hdr, raw) := buildImage b (rate96 (rxCtl tb)) (chOf (rxCtl tb)) n p.conts
        ({ s with cz := { s.cz with txq := rest } }).setUnit u { busy := true, ctx := c, pkt := some p, hdr := hdr, raw := raw }
      | _, _ => s
    else if czKind b = 2 then
      if (unitOf s [0, 1] c).isSome then s
      else if s.cz.refused.contains c then czRefuse c s
      else
        match takeMarked b s with
        | (some it, s) =>
          let x : CzUnit := { busy := true, ctx := c, item := some it, hdr := toLe 4 it.data.length, raw := it.data }
          if 65535 < it.data.length then
            decodeFail c 3 (pushOut u b true 1 ((dropMark b s).setUnit u { x with hdr := [], raw := [], lost := true, bits := [] }))
          else s.setUnit u x
        | (none, s) => s
    else s
  | _, _ => s

/-- ENCODE (R324, R330): a request of context `c` starts. -/
def execEncode (t : Gts) (c : BitVec 11) : State → Host.Outcome State Fault Refusal := act t (startEncode c.toNat)

/-- The bits of a stored block that begins at bit position `pos` (R317). -/
def storedBits (pos : Nat) (last : Bool) (blk : List Byte) : List Bool :=
  let pad := (8 - (pos + 3) % 8) % 8
  [last, false, false] ++ List.replicate pad false ++ (toLe 2 blk.length ++ blk).flatMap bitsOf

/-- Whether the verify decoder rebuilds a block from its bits (R326). -/
def verifies (x : CzUnit) (bits : List Bool) (last : Bool) (blk : List Byte) : Bool :=
  let o : Out := { rev := (x.raw.take x.pos).reverse, size := x.pos }
  match decBlock x.raw.length o { rest := bits, used := x.bits.length } with
  | (o, .ok (l, s)) => l == last && s.rest.isEmpty && o.rev.reverse.drop x.pos == blk
  | (_, .error _) => false

/-- Whether a mode writes a block of this type. -/
def modeWrites (mode : Nat) (bits : List Bool) : Bool := mode != 0 || !(bits.getD 2 false)

/-- A block is released to the output. -/
def emitBlock (u : Nat) (b : List Byte) (bits : List Bool) (n : Nat) (stored : Bool) (s : State) : State :=
  let x := s.unit u
  let s := s.setUnit u { x with bits := x.bits ++ bits, pos := x.pos + n, blocks := x.blocks + 1, waiting := false, stalled := false }
  let s := (s.bump (baseCZ + 0x208)).bumpBy (baseCZ + 0x200) n
  let s := if stored then s.bump (baseCZ + 0x20C) else s
  if czKind b = 2 then pushOut u b false 256 s else s

/-- CZ_LOST (R326): the payload ends. -/
def loseBlock (u : Nat) (b : List Byte) (s : State) : State :=
  let x := s.unit u
  let s := (czNote x.ctx 2 0 (s.bump (baseCZ + 0x214))).raise 8 0x803 [x.ctx]
  match x.pkt with
  | some p => (s.setTx p.stream { s.tx p.stream with svc := 2 }).setUnit u {}
  | none =>
    let s := dropMark b s
    pushOut u b true 256 (s.setUnit u { x with lost := true, pos := x.raw.length, blocks := x.blocks + 1 })

/-- BLOCK_VERIFY: the next block of a unit, as the encoder wrote it (R325-R327). -/
def execBlockVerify (t : Gts) (c : BitVec 11) (bits : List Bool) (decodedOk storedOk : Bool) :
    State → Host.Outcome State Fault Refusal :=
  act t fun s =>
    match unitOf s [0, 1] c.toNat, czRec s c.toNat with
    | some u, some b =>
      let s := if czKind b = 2 then pushOut u b false 256 s else s
      let x := s.unit u
      let blk := (x.raw.drop x.pos).take (czMax b)
      let last := decide (x.raw.length ≤ x.pos + blk.length)
      let free := 16384 - staged b x
      if x.lost ∨ (x.raw.length ≤ x.pos ∧ x.blocks ≠ 0) then s
      else if czMode b = 0 ∧ free < blk.length + 8 then
        if x.waiting then s else (s.setUnit u { x with waiting := true, stalled := true }).bump (baseCZ + 0x220)
      else if czMode b ≠ 0 ∧ free < (bits.length + 7) / 8 then
        if x.stalled then s else (s.setUnit u { x with stalled := true }).bump (baseCZ + 0x21C)
      else
        let tooLong := decide (8 * (blk.length + 3) < bits.length) || !modeWrites (czMode b) bits
        let good := decodedOk && verifies x bits last blk
        let stored := storedBits x.bits.length last blk
        if good ∧ ¬ tooLong then emitBlock u b bits blk.length (!bits.getD 1 false && !bits.getD 2 false) s
        else
          let s :=
            if tooLong then s
            else
              let st := s.czStat c.toNat
              let s := s.setCzStat c.toNat { st with verifyFail := satN 16 (st.verifyFail + 1) }
              let s := (s.bump (baseCZ + 0x210)).raise 8 0x801 [c.toNat, x.pos]
              if czKind b = 2 then reread b s else s
          if storedOk && verifies x stored last blk then emitBlock u b stored blk.length true s else loseBlock u b s
    | _, _ => s

/-- STAGING_RESUME: staging buffers are freed as the output queue drains (R327). -/
def execStagingResume (t : Gts) (u : Fin 4) : State → Host.Outcome State Fault Refusal :=
  act t fun s =>
    let x := s.unit u.val
    match czRec s x.ctx with
    | some b =>
      if ¬ x.stalled then s
      else
        let s' := pushOut u.val b (decide (czKind b = 3)) 256 s
        if (s'.unit u.val).pushed = x.pushed then s'
        else s'.setUnit u.val { s'.unit u.val with stalled := false, waiting := false }
    | none => s

/-- ENCODE_DONE (R324, R330): every block has been released; the payload goes on. -/
def execEncodeDone (t : Gts) (c : BitVec 11) : State → Host.Outcome State Fault Refusal :=
  act t fun s =>
    match unitOf s [0, 1] c.toNat, czRec s c.toNat with
    | some u, some b =>
      let x := s.unit u
      if x.pos < x.raw.length ∨ x.blocks = 0 then s
      else
        let bytes := x.hdr ++ packBits x.bits ++ toLe 4 (crc32c x.raw).toNat
        let svc := if s.cz.delayed.contains c.toNat then 1 else 0
        match x.pkt with
        | some p =>
          let s := czNote c.toNat svc (bytes.length - 4) ((s.setUnit u {}).bumpBy (baseCZ + 0x204) bytes.length)
          match s.recNow tyTX p.stream with
          | none => s
          | some tb =>
            let p := { p with payload := bytes, conts := [] }
            if txCeCtx tb ≠ 0xFFFF then s.updSe fun e => { e with txWait := e.txWait ++ [p] }
            else sendTx p.stream (rtpHeader tb p ++ p.payload) s
        | none =>
          let s' := pushOut u b true 256 s
          if (s'.unit u).busy then s'.setUnit u { s'.unit u with stalled := true }
          else if x.lost then s'
          else
            dropMark b
              (czNote c.toNat svc (bytes.length - 4) (s'.bumpBy (baseCZ + 0x204) (bytes.length - 4)))
    | _, _ => s

/-! ## Decoding -/

/-- A decoder unit takes a receive copy or a host item. -/
def startDecode (c leg seq : Nat) (s : State) : State :=
  match czRec s c, pickUnit s [2, 3] with
  | some b, some u =>
    if czKind b = 0 then
      match takeFirst (fun (cp : Copy) => cp.stream == czStream b && cp.leg == leg && cp.seq == seq &&
          (!s.cz.delayed.contains c || decide (s.ellOf cp.gts < s.ell))) s.cz.inq,
          rxEntry s (czStream b) with
      | some (cp, rest), some rb =>
        let s := { s with cz := { s.cz with inq := rest } }
        if s.cz.refused.contains c then applyVerdict { cp with ok := false } true (czRefuse c s)
        else if ¬ headerOk (rxCtl rb) cp.payload then
          applyVerdict { cp with ok := false } true (decodeFail c 0 (czNote c 2 (cp.payload.length - 4) s))
        else s.setUnit u { busy := true, ctx := c, copy := some cp }
      | _, _ => s
    else if czKind b = 3 then
      if (unitOf s [2, 3] c).isSome then s
      else if s.cz.refused.contains c then czRefuse c s
      else
        match takeMarked b s with
        | (some it, s) =>
          let x : CzUnit := { busy := true, ctx := c, item := some it }
          if 65535 < it.data.length then decodeFail c 3 (pushOut u b true 1 ((dropMark b s).setUnit u { x with lost := true }))
          else s.setUnit u x
        | (none, s) => s
    else s
  | _, _ => s

/-- DECODE (R323, R330): a request of context `c` starts. -/
def execDecode (t : Gts) (c : BitVec 11) (leg : Leg) (seq : BitVec 16) : State → Host.Outcome State Fault Refusal :=
  act t (startDecode c.toNat (if leg = .red then 0 else 1) seq.toNat)

/-- An uncorrectable read of a window: the address of the word is not given, a free value (R351). -/
def badWindow (s : State) : State :=
  let (v, s) := s.draw
  eccUncorr 13 (v.toNat % 8192) s

/-- DECODE_DONE (R321-R323, R330): a decode completes. -/
def execDecodeDone (t : Gts) (c : BitVec 11) (eccBad : Bool) : State → Host.Outcome State Fault Refusal :=
  act t fun s =>
    match unitOf s [2, 3] c.toNat, czRec s c.toNat with
    | some u, some b =>
      let x := s.unit u
      let svc := if s.cz.delayed.contains c.toNat then 1 else 0
      match x.copy, x.item with
      | some cp, _ =>
        match rxEntry s cp.stream with
        | none => s.setUnit u {}
        | some rb =>
          let s := s.setUnit u {}
          let coded := cp.payload.length - 4
          let (img, bad) := dalow (imageLen (rxCtl rb) cp.payload) (cp.payload.drop 4)
          let cause := if eccBad then some 4 else bad
          let s := if eccBad then badWindow s else s
          match cause with
          | some e => applyVerdict { cp with ok := false } true (decodeFail c.toNat e (czNote c.toNat 2 coded s))
          | none =>
            let (payload, cs) := readImage (rxCtl rb) cp.payload img
            let s := czNote c.toNat svc coded s
            let st := s.czStat c.toNat
            let s := s.setCzStat c.toNat { st with flagsC := satN 32 (st.flagsC + cs) }
            applyVerdict { cp with ok := true, decoded := true, payload := payload } true s
      | none, some it =>
        if x.stalled then s
        else
          let s := dropMark b s
          let z := u32 it.data 0
          let (img, bad) := if it.data.length < 4 then ([], some 3) else dalow z (it.data.drop 4)
          let cause := if eccBad then some 4 else bad
          let s := if eccBad then badWindow s else s
          let s := czNote c.toNat (if cause.isSome then 2 else svc) (it.data.length - 4) s
          let s := match cause with
            | some e => decodeFail c.toNat e s
            | none => s
          let s := pushOut u b true 65536 (s.setUnit u { x with raw := img.take z, lost := cause.isSome })
          if (s.unit u).busy then (s.setUnit u { s.unit u with stalled := true }).bump (baseCZ + 0x21C) else s
      | none, none => s
    | _, _ => s

/-! ## What the windows show (R312, R332, R333) -/

/-- CZ_STATUS. -/
def czStatus (s : State) : Nat :=
  let m (f : CzUnit → Bool) : Nat := ((List.range 4).map fun u => b2n (f (s.unit u)) * 2 ^ u).sum
  m (·.busy) * 2 ^ 24 + m (fun x => x.stalled || x.waiting) * 2 ^ 20 + (recsOf s.cfg.recs tyCZCTX).length

/-- Word `i` of a status entry. -/
def czStatWord (s : State) (c i : Nat) : Nat :=
  match s.recNow tyCZCTX c with
  | none => 0
  | some b =>
    let x := s.czStat c
    match i with
    | 0 => x.svc * 2 ^ 30 + czKind b * 2 ^ 28 + czMode b * 2 ^ 26 + x.codedLast
    | 1 => x.streams
    | 2 => x.decodeFail * 2 ^ 16 + x.verifyFail
    | _ => x.flagsC

end Sys2Proof.Machine
end

