-- ==== Sys2Proof/Machine/Flags.lean ====
section
/-! DEFINITION. Arithmetic and flags of a Geldin core, [08]: products, sums, rounding, saturation, tags and SW. -/

namespace Sys2Proof.Machine

/-- Tag bit 1 of R192: `s`, the value saturated. -/
def tagS : BitVec 4 := 2

/-! ## Saturation and rounding (R200-R202) -/

/-- A value between two limits, and whether it lay beyond one. -/
def clampTo (lo hi x : Int) : Int × Bool := if hi < x then (hi, true) else if x < lo then (lo, true) else (x, false)

/-- Saturation to a D register or memory word. -/
def satD (x : Int) : Int × Bool := clampTo (-8388608) 8388607 x

/-- Saturation to an accumulator. -/
def satA (x : Int) : Int × Bool := clampTo (-(2 ^ 55)) (2 ^ 55 - 1) x

/-- Saturation to an accumulator after rounding. -/
def satRounded (x : Int) : Int × Bool := clampTo (-(2 ^ 55)) (2 ^ 55 - 2 ^ 24) x

/-- The rounded value q of R200: nearest-even, or truncation when `rnd` is set. -/
def roundQ (rnd : Bool) (x : Int) : Int :=
  let q := x / 16777216
  let r := x % 16777216
  if rnd then q else if 8388608 < r ∨ (r = 8388608 ∧ q % 2 = 1) then q + 1 else q

/-- MVA of an accumulator value (R201). -/
def mvaOf (rnd : Bool) (x : Int) : Int × Bool := satD (roundQ rnd x)

/-- The rounding forms of the MAC group (R201). -/
def roundedA (rnd : Bool) (x : Int) : Int × Bool := satRounded (roundQ rnd x * 16777216)

/-! ## Products (R198) -/

/-- Twice the product of two 24-bit operands. -/
def product (m : MulMode) (x y : BitVec 24) : Int :=
  match m with
  | .signed => x.toInt * y.toInt * 2
  | .su => x.toInt * y.toNat * 2
  | .uu => (x.toNat : Int) * y.toNat * 2

/-! ## Shifts, NORM and DIVS (R205-R207) -/

/-- A left shift by a signed count: exact to the left, discarding low bits to the right. -/
def shiftBy (x : Int) (n : Int) : Int := if 0 ≤ n then x * 2 ^ n.toNat else x / 2 ^ (-n).toNat

/-- Count of consecutive bits below bit 55 that equal it, from bit `i - 1` downward. -/
def signRun (a : BitVec 56) : Nat → Nat
  | 0 => 0
  | i + 1 => if a.getLsbD i = a.getLsbD 55 then signRun a i + 1 else 0

/-- NORM: k of R206. -/
def normOf (a : BitVec 56) : Int := (signRun a 55 : Nat) - 8

/-- One step of DIVS (R207). -/
def divStep (a : BitVec 56) (d : BitVec 24) : BitVec 56 :=
  let a := a.toNat * 2 % 2 ^ 56
  let top := sgn 32 (a / 2 ^ 24)
  if d.toInt ≤ top then BitVec.ofNat 56 (wrap 32 (top - d.toInt) * 2 ^ 24 + a % 2 ^ 24 + 1) else BitVec.ofNat 56 a

/-! ## The status word (R194, R195) -/

/-- `n`, `z` and `v` of a result. -/
structure Nzv where
  n : Bool
  z : Bool
  v : Bool := false
  deriving DecidableEq, Repr

/-- Flags of a value written. -/
def nzvOf (x : Int) (sat : Bool) : Nzv := { n := decide (x < 0), z := decide (x = 0), v := sat }

/-- Parity of the low `k` bits of a number (R190). -/
def parityOf : Nat → Nat → Bool
  | 0, _ => false
  | k + 1, v => (v % 2 == 1) != parityOf k (v / 2)

/-- Parity of the stored bits of SW. -/
def swParity (r : Regs) : Bool :=
  parityOf 6 (b2n r.rnd * 32 + b2n r.cr * 16 + b2n r.sf * 8 + b2n r.v * 4 + b2n r.n * 2 + b2n r.z)

/-- SW written: its parity follows. -/
def Regs.sealSw (r : Regs) : Regs := { r with swPar := swParity r }

/-- PC written: its parity follows. -/
def Regs.setPc (r : Regs) (pc : BitVec 17) : Regs := { r with pc := pc, pcPar := parityOf 17 pc.toNat }

/-- LC written: its residue follows. -/
def Regs.setLc (r : Regs) (lc : BitVec 16) : Regs := { r with lc := lc, lcRes := res7 lc.toNat }

/-- SW.`cr` is sticky (R194). -/
def Regs.orCr (r : Regs) (cr : Bool) : Regs := if cr then { r with cr := true }.sealSw else r

/-- SW takes the flags of a result; a saturation also sets `sf`. -/
def setNzv (f : Option Nzv) (r : Regs) : Regs :=
  match f with
  | none => r
  | some f => { r with n := f.n, z := f.z, v := f.v, sf := r.sf || f.v }.sealSw

/-- Whether the boundary before the present instruction is an event point (R247). -/
def eventPoint (c : Core) : Bool := c.ds == 0 && c.rep == 0 && c.land.isEmpty

/-- SW as it reads. -/
def swWord (c : Core) : Nat :=
  let r := c.regs
  c.loops.length * 1024 + b2n (!eventPoint c) * 512 + b2n r.rnd * 256 + b2n r.cr * 16 + b2n r.sf * 8 + b2n r.v * 4 + b2n r.n * 2 + b2n r.z

/-- A MOV or load to SW: its RW fields. -/
def writeSw (w : Nat) (r : Regs) : Regs :=
  { r with cr := bit w 4, sf := bit w 3, v := bit w 2, n := bit w 1, z := bit w 0 }.sealSw

/-- Condition of BRC (R235). -/
def condOf (r : Regs) (c : Nat) : Bool :=
  match c with
  | 0 => r.z
  | 1 => !r.z
  | 2 => r.n
  | 3 => !r.n
  | 4 => r.v
  | 5 => !r.v
  | 6 => r.n || r.z
  | _ => !r.n && !r.z

end Sys2Proof.Machine
end

