-- ==== Sys2Proof/Machine/Operands.lean ====
section
/-! DEFINITION. Operands of the Geldin instructions, [08] and [09]: register codes, addressing modes, the address map,
and the effect of an instruction as data. -/

namespace Sys2Proof.Machine

/-! ## Registers by index -/

def Regs.dr (r : Regs) (i : BitVec 3) : DReg := r.d[i.toFin]
def Regs.ar (r : Regs) (i : BitVec 2) : AReg := r.a[i.toFin]
def Regs.pr (r : Regs) (i : BitVec 3) : BitVec 22 := r.p[i.toFin]
def Regs.br (r : Regs) (i : BitVec 3) : BitVec 22 := r.b[i.toFin]
def Regs.lr (r : Regs) (i : BitVec 3) : BitVec 22 := r.l[i.toFin]
def Regs.mr (r : Regs) (i : BitVec 3) : BitVec 22 := r.m[i.toFin]
def Regs.setD (r : Regs) (i : BitVec 3) (x : DReg) : Regs := { r with d := r.d.set i.toFin x }
def Regs.setA (r : Regs) (i : BitVec 2) (x : AReg) : Regs := { r with a := r.a.set i.toFin x }
def Regs.setP (r : Regs) (i : BitVec 3) (x : BitVec 22) : Regs := { r with p := r.p.set i.toFin x, pRes := r.pRes.set i.toFin (res7 x.toNat) }
def Regs.setB (r : Regs) (i : BitVec 3) (x : BitVec 22) : Regs := { r with b := r.b.set i.toFin x, bRes := r.bRes.set i.toFin (res7 x.toNat) }
def Regs.setL (r : Regs) (i : BitVec 3) (x : BitVec 22) : Regs := { r with l := r.l.set i.toFin x, lRes := r.lRes.set i.toFin (res7 x.toNat) }
def Regs.setM (r : Regs) (i : BitVec 3) (x : BitVec 22) : Regs := { r with m := r.m.set i.toFin x, mRes := r.mRes.set i.toFin (res7 x.toInt) }

/-! ## Register codes (R197, R221) -/

/-- Whether a register code is defined. -/
def codeOk (c : BitVec 6) : Bool := decide (c.toNat < 0x3A)

/-- The three parts of an accumulator. -/
def partE (a : BitVec 56) : BitVec 8 := a.extractLsb' 48 8
def partW (a : BitVec 56) : BitVec 24 := a.extractLsb' 24 24
def partT (a : BitVec 56) : BitVec 24 := a.extractLsb' 0 24

/-- An accumulator from its parts. -/
def ofParts (e : BitVec 8) (w t : BitVec 24) : BitVec 56 := e ++ w ++ t

/-- A 24-bit value in accumulator position (R197). -/
def widen (v : BitVec 24) : BitVec 56 := ofParts (if v.msb then 0xFF else 0) v 0

/-- A register as a source: value and tag. -/
def readCode (c : Core) (code : Nat) : DReg :=
  let r := c.regs
  let i3 := BitVec.ofNat 3 code
  let i2 := BitVec.ofNat 2 code
  if code < 0x08 then r.dr i3
  else if code < 0x0C then { v := partW (r.ar i2).v, tag := (r.ar i2).tag }
  else if code < 0x10 then { v := (partE (r.ar i2).v).signExtend 24, tag := (r.ar i2).tag }
  else if code < 0x14 then { v := partW (r.ar i2).v, tag := (r.ar i2).tag }
  else if code < 0x18 then { v := partT (r.ar i2).v, tag := (r.ar i2).tag }
  else if code < 0x20 then { v := (r.pr i3).setWidth 24 }
  else if code < 0x28 then { v := (r.br i3).setWidth 24 }
  else if code < 0x30 then { v := (r.lr i3).setWidth 24 }
  else if code < 0x38 then { v := (r.mr i3).signExtend 24 }
  else if code = 0x38 then { v := r.lc.setWidth 24 }
  else { v := BitVec.ofNat 24 (swWord c) }

/-- A register as a destination of a 24-bit value. -/
def writeCode (code : Nat) (x : DReg) (r : Regs) : Regs :=
  let i3 := BitVec.ofNat 3 code
  let i2 := BitVec.ofNat 2 code
  let a := r.ar i2
  if code < 0x08 then r.setD i3 x
  else if code < 0x0C then r.setA i2 { v := widen x.v, tag := x.tag }
  else if code < 0x10 then r.setA i2 { v := ofParts (x.v.setWidth 8) (partW a.v) (partT a.v), tag := a.tag ||| x.tag }
  else if code < 0x14 then r.setA i2 { v := ofParts (partE a.v) x.v (partT a.v), tag := a.tag ||| x.tag }
  else if code < 0x18 then r.setA i2 { v := ofParts (partE a.v) (partW a.v) x.v, tag := a.tag ||| x.tag }
  else if code < 0x20 then r.setP i3 (x.v.setWidth 22)
  else if code < 0x28 then r.setB i3 (x.v.setWidth 22)
  else if code < 0x30 then r.setL i3 (x.v.setWidth 22)
  else if code < 0x38 then r.setM i3 (x.v.setWidth 22)
  else if code = 0x38 then r.setLc (x.v.setWidth 16)
  else writeSw x.v.toNat r

/-! ## Residues (R208, R209) -/

/-- Whether the register of a code agrees with its residue, or SW with its parity. -/
def codeGood (r : Regs) (code : Nat) : Bool :=
  let i3 := BitVec.ofNat 3 code
  let i2 := BitVec.ofNat 2 code
  if code < 0x08 then (r.dr i3).res == res7 (r.dr i3).v.toInt
  else if code < 0x18 then (r.ar i2).res == res7 (r.ar i2).v.toInt
  else if code < 0x20 then r.pRes[i3.toFin] == res7 (r.pr i3).toNat
  else if code < 0x28 then r.bRes[i3.toFin] == res7 (r.br i3).toNat
  else if code < 0x30 then r.lRes[i3.toFin] == res7 (r.lr i3).toNat
  else if code < 0x38 then r.mRes[i3.toFin] == res7 (r.mr i3).toInt
  else if code = 0x38 then r.lcRes == res7 r.lc.toNat
  else r.swPar == swParity r

/-- Whether the registers that an instruction reads agree with their residues, and SW and PC with their parity (R209, R210). -/
def readsGood (r : Regs) (codes : List Nat) : Bool :=
  r.swPar == swParity r && r.pcPar == parityOf 17 r.pc.toNat && codes.all (codeGood r)

/-- The residue of a sum A + 2xy that the MAC units predict from those of the operands (R209). -/
def predictMac (a x y : BitVec 3) : BitVec 3 := BitVec.ofNat 3 ((a.toNat + 2 * x.toNat * y.toNat) % 7)

/-! ## Addressing (R211-R215) -/

/-- Whether Pn lies in its window, or has none. -/
def inWindow (r : Regs) (n : BitVec 3) : Bool :=
  r.lr n == 0 || (decide (r.br n ≤ r.pr n) && decide ((r.pr n).toNat < (r.br n).toNat + (r.lr n).toNat))

/-- Bn plus an offset modulo Ln. -/
def circular (r : Regs) (n : BitVec 3) (o : Int) : BitVec 22 := BitVec.ofInt 22 ((r.br n).toNat + o % ((r.lr n).toNat : Int))

/-- Pn after a post-modify by `m` (R213). -/
def postMod (r : Regs) (n : BitVec 3) (m : Int) : BitVec 22 :=
  if r.lr n = 0 then BitVec.ofInt 22 ((r.pr n).toNat + m)
  else circular r n (((r.pr n).toNat : Int) - (r.br n).toNat + m)

/-- offset(Pn, x) (R213). -/
def offsetAt (r : Regs) (n : BitVec 3) (x : Int) : BitVec 22 :=
  if r.lr n ≠ 0 ∧ inWindow r n = true then circular r n (((r.pr n).toNat : Int) - (r.br n).toNat + x)
  else BitVec.ofInt 22 ((r.pr n).toNat + x)

/-- The low `k` bits of a number read from the other end (R215). -/
def mir : Nat → Nat → Nat
  | 0, _ => 0
  | k + 1, v => v % 2 * 2 ^ k + mir k (v / 2)

/-- Pn after a mirrored post-modify by Mn (R215). -/
def mirrorMod (r : Regs) (n : BitVec 3) : BitVec 22 :=
  if r.lr n = 0 then BitVec.ofInt 22 ((r.pr n).toNat + (r.mr n).toInt)
  else
    let k := Nat.log2 (r.lr n).toNat
    let o := (((r.pr n).toNat : Int) - (r.br n).toNat) % (2 ^ k : Nat)
    let m := (r.mr n).toInt % (2 ^ k : Nat)
    BitVec.ofNat 22 ((r.br n).toNat + mir k ((mir k o.toNat + mir k m.toNat) % 2 ^ k))

/-- The three post-modify steps of modes 1 to 3; `unit` is 2 for the pair loads of CMAC (R227). -/
def stepOf (r : Regs) (n : BitVec 3) (mode unit : Nat) : Option (BitVec 22) :=
  match mode with
  | 1 => some (postMod r n unit)
  | 2 => some (postMod r n (-(unit : Int)))
  | 3 => some (postMod r n (r.mr n).toInt)
  | _ => none

/-- An access: its address, the pointer it modifies, and whether it was made outside a window. -/
structure Access where
  addr : Nat
  mod : Option (BitVec 3 × BitVec 22) := none
  cr : Bool := false
  deriving DecidableEq, Repr

/-- The access of a pointer in modes 0 to 3. -/
def pointerAccess (r : Regs) (n : BitVec 3) (mode : Nat) : Access :=
  { addr := (r.pr n).toNat, mod := (stepOf r n mode 1).map fun p => (n, p), cr := !inWindow r n }

/-- The access of a memory-group word (R212, R230); none for a nonzero reserved field. -/
def memAccess (r : Regs) (mode : BitVec 3) (ea : BitVec 12) : Option Access :=
  let n := ea.extractLsb' 9 3
  let rest := ea.toNat % 512
  match mode.toNat with
  | 4 => if 128 ≤ rest then none else some { addr := (offsetAt r n (sgn 7 rest)).toNat, cr := !inWindow r n }
  | 5 => if rest ≠ 0 then none else some { addr := (offsetAt r n (r.mr n).toInt).toNat, cr := !inWindow r n }
  | 6 => if rest ≠ 0 then none else some { addr := (r.pr n).toNat, mod := some (n, mirrorMod r n), cr := !inWindow r n }
  | 7 => some { addr := 0x3FF000 + ea.toNat }
  | m => if rest ≠ 0 then none else some (pointerAccess r n m)

/-! ## The address map (R171, R216, R217) -/

/-- Whether an address lies in holm data memory. -/
def isHolm (a : Nat) : Bool := decide (a < 0x180000)

/-- Whether an address lies in the Ell memory window. -/
def isEll (a : Nat) : Bool := decide (0x200000 ≤ a) && decide (a < 0x220000)

/-- Whether the task of an attempt may make an access (R171, R216, R217). -/
def mayAccess (s : State) (c : Core) (a : Nat) (write : Bool) : Bool :=
  let b := instBody s c.inst
  if isHolm a then decide (tkBase b ≤ a) && decide (a < tkBase b + tkLen b)
  else if isEll a then
    let slot := (a - 0x200000) / 8
    let r := s.recsAt c.data
    if write then decide (a % 8 < 6) && (writeSlots r (c.inst % 4096)).contains slot
    else (namedSlots r (c.inst % 4096)).contains slot
  else !write && (decide (0x3FF000 ≤ a) && decide (a < 0x3FF006) || a == 0x3FF008 || a == 0x3FF009)

/-- Whether a task of a stage writes a slot. -/
def stageWrites (r : Recs) (stage slot : Nat) : Bool :=
  (recsOf r tyTASK).any fun e => tkStage e.2 == stage && (writeSlots r e.1).contains slot

/-- The copy of a slot that an attempt of delayed task `t` sees (R34, R376): that of a producer delayed with it; under a delay that goes
on, what a held chain brings one Ell later; what a producer of its own stage has written; and else what was kept when the Ell was
delayed. -/
def delayedWord (s : State) (t n slot j : Nat) : Nat :=
  let r := s.recsAt n
  if slotDelayed s n slot then s.ellGet (lateEll n) slot j
  else if (delayedAt s (n - 1)).contains t && slotHeld s n slot then s.ellGet (n + 1) slot j
  else if stageWrites r (tkStage ((recGet r tyTASK t).getD [])) slot then s.ellGet n slot j
  else s.ellGet (keptEll n) slot j

/-- Container `j` of a slot as an attempt sees it (R12, R34, R171). -/
def slotWord (s : State) (c : Core) (slot j : Nat) : Nat :=
  if 6 ≤ j then 0
  else if 4096 ≤ c.inst then delayedWord s (c.inst % 4096) c.data slot j
  else (slotRead s c.data slot).getD j 0

/-- Task and core-local registers (R170, R217). -/
def localWord (c : Core) (a : Nat) : Nat :=
  match a - 0x3FF000 with
  | 0 => c.data % 2 ^ 16
  | 1 => c.data / 2 ^ 16 % 2 ^ 16
  | 2 => c.inst % 4096
  | 3 => c.entryW
  | 4 => c.gap
  | 5 => c.data / 2 ^ 32 % 2 ^ 16
  | 8 => c.hc % 2 ^ 24
  | _ => c.hcHi

/-- The container that a load of an attempt returns: the commit buffer first (R177, R192). -/
def loadWord (s : State) (c : Core) (a : Nat) : Nat :=
  match tget none c.buf a with
  | some w => w.toNat
  | none =>
    if isHolm a then memWord s (tkHolm (instBody s c.inst)) a
    else if isEll a then slotWord s c ((a - 0x200000) / 8) (a % 8)
    else localWord c a * 256

/-- Value and tag of a container (R192, R193). -/
def ofContainer (w : Nat) (nf : Bool) : DReg := { v := BitVec.ofNat 24 (w / 256), tag := if nf then 0 else BitVec.ofNat 4 (w / 16) }

/-- The container of a value and tag. -/
def toContainer (x : DReg) (nf : Bool) : Word := x.v ++ (if nf then 0 else x.tag) ++ (0 : BitVec 4)

/-! ## The effect of an instruction -/

/-- A load: address, register code, `nf`, the hc of a CMAC in which it is made, and whether R243 applies to it. -/
structure Load1 where
  addr : Nat
  code : Nat
  nf : Bool := false
  hc : Nat := 0
  tap : Bool := false
  deriving DecidableEq, Repr

/-- What an instruction does, computed from the registers before it. `apply` writes its results. -/
structure Eff where
  apply : Regs → Regs := id
  flags : Option Nzv := none
  move : Option (BitVec 3 × DReg) := none
  mods : List (BitVec 3 × BitVec 22) := []
  loads : List Load1 := []
  store : Option (Nat × Word) := none
  cr : Bool := false
  cost : Nat := 1

/-- Hold of a bank by both loads of one hc (R219). -/
def bankWait (l : List Load1) (k : Nat) : Nat :=
  match l.filter fun x => x.hc == k && isHolm x.addr with
  | [x, y] => if x.addr / 65536 = y.addr / 65536 then 1 else 0
  | _ => 0

/-- The waits of an instruction's loads (R245). -/
def loadWaits (c : Core) (l : List Load1) : Nat :=
  8 * (l.filter fun x => isEll x.addr).length + bankWait l 0 + bankWait l 1 +
    if c.strait then 24 * (l.filter fun x => isHolm x.addr).length else 0

/-- Keys of the banks of holm data memory that some loads read (R166, R218). -/
def banksOf (s : State) (c : Core) (l : List Load1) : List Nat :=
  (l.filter fun x => isHolm x.addr && (tget none c.buf x.addr).isNone).map fun x => 24 * tkHolm (instBody s c.inst) + x.addr / 65536

/-- The wait for accesses that other requesters make to the same banks in this grain; one that comes later in the grain waits (R27,
R167; DESIGN CHOICE, log 31). -/
def bankBusy (s : State) (banks : List Nat) : Nat :=
  if s.ha.bankUse.1 = s.now then (banks.map fun b => (s.ha.bankUse.2.filter (· == b)).length).sum else 0

/-- The banks are taken for this grain. -/
def useBanks (banks : List Nat) (s : State) : State :=
  if banks.isEmpty then s
  else { s with ha := { s.ha with bankUse := (s.now, banks ++ if s.ha.bankUse.1 = s.now then s.ha.bankUse.2 else []) } }

/-- Two accumulator results of one instruction (R195, R199): `a` of unit 0, `b` of unit 1 when it differs. -/
def macEff (aa ab : BitVec 2) (x : Int × Bool) (tx : BitVec 4) (y : Option ((Int × Bool) × BitVec 4)) : Eff :=
  let put (i : BitVec 2) (x : Int × Bool) (t : BitVec 4) (r : Regs) : Regs :=
    r.setA i { v := BitVec.ofInt 56 x.1, tag := if x.2 then t ||| tagS else t }
  match y with
  | none => { apply := put aa x tx, flags := some (nzvOf x.1 x.2) }
  | some (y, ty) =>
    { apply := fun r => put ab y ty (put aa x tx r), flags := some { nzvOf x.1 x.2 with v := x.2 || y.2 } }

/-- A result written to a D register. -/
def dEff (i : BitVec 3) (x : Int × Bool) (t : BitVec 4) : Eff :=
  { apply := fun r => r.setD i { v := BitVec.ofInt 24 x.1, tag := if x.2 then t ||| tagS else t }, flags := some (nzvOf x.1 x.2) }

/-- A result written to an accumulator. -/
def aEff (i : BitVec 2) (x : Int × Bool) (t : BitVec 4) : Eff := macEff i i x t none

/-- A multiply operand of the MAC and TAP groups (R243). -/
def mulOp (c : Core) (i : BitVec 3) : DReg :=
  match (c.land.filter fun l => l.tap && l.code == i.toNat).getLast? with
  | some l => { v := l.v, tag := l.tag }
  | none => c.regs.dr i

end Sys2Proof.Machine
end

