-- ==== Sys2Proof/Machine/Voice.lean ====
section
/-! DEFINITION. The voice functions, [10]: what the library task of an attempt stores, computed at its commit from its state region, its
slots and its task registers (R249). The numerics that the spec does not give are open constants of Config (log 37). -/

namespace Sys2Proof.Machine

/-! ## The state region and the control slot (R251, R252) -/

/-- Word `off` of the state region of a core's task as the attempt sees it: the 24 value bits. -/
def libWord (s : State) (c : Core) (off : Nat) : Nat :=
  let b := instBody s c.inst
  let a := tkBase b + off
  ((tget none c.buf a).getD (tget 0 s.ha.mem (memKey (tkHolm b) a))).toNat / 256

/-- Storing 24-bit values from word `off` of the state region on. -/
def libStore (s : State) (c : Core) (off : Nat) (vs : List Nat) : Core :=
  { c with buf := tsets none c.buf (tkBase (instBody s c.inst) + off) (vs.map fun v => some (BitVec.ofNat 32 (v % 2 ^ 24 * 256))) }

/-- Storing the six containers of a slot. -/
def libSlot (c : Core) (slot : Nat) (ws : List Nat) : Core :=
  { c with buf := tsets none c.buf (slotAddr (slot % 16384) 0) (ws.map fun w => some (BitVec.ofNat 32 w)) }

/-- The six containers of a slot as the attempt reads it. -/
def libRead (s : State) (c : Core) (slot : Nat) : List Nat := (List.range 6).map fun j => slotWord s c (slot % 16384) j

/-- Whether a parameter of the echo canceller may take a value through the control slot (R258). -/
def cancelRange (index v : Nat) : Bool :=
  match index with
  | 7 => decide (v ≤ 2) | 8 => decide (v ≤ 1) | 10 => decide (v ≤ 48) | 11 => decide (v ≤ 2) | 12 => decide (v ≤ 1) | _ => false

/-- Whether a channel parameter of a codec may take a value through the control slot (R262). -/
def codecRange (code index v : Nat) : Bool :=
  if code = 0x14 then
    match index with
    | 3 => decide (60 ≤ v) && decide (v ≤ 5100) | 4 => decide (v ≤ 4) | 5 => decide (v ≤ 1) | 6 => decide (v ≤ 50) | _ => false
  else code % 2 == 1 && index == 7 && decide (1 ≤ v) && decide (v ≤ 15)

/-- Whether a command is accepted (R252): its pair carries no `c`, and it names a changeable word and a value in range. -/
def cmdGood (code nch chan index v : Nat) (conc : Bool) : Bool :=
  !conc && if code = 1 then chan == 0x7F && cancelRange index v else decide (chan < nch) && codecRange code index v

/-- The commands of a control slot in their order: `chan`, `index`, `value`, and whether the pair carries `c`. Bits [15:4] are not looked
at. -/
def ctlCmds (ws : List Nat) : List (Nat × Nat × Nat × Bool) :=
  [0, 1, 2].filterMap fun i =>
    let a := ws.getD (2 * i) 0
    let v := ws.getD (2 * i + 1) 0
    if bit a 31 then some (fld a 30 24, fld a 11 8, v / 256, bit a 6 || bit v 6) else none

/-- Words of state of each codec channel (R269). -/
def codecWords (code : Nat) : Nat :=
  match code with
  | 0x10 => 256 | 0x11 => 256 | 0x12 => 512 | 0x13 => 512 | 0x14 => 20480 | 0x15 => 12288 | _ => 0

/-- Container values of a coded slot in the Ell `d` of a frame (R254, R255). -/
def codedConts (kind f d : Nat) (x : CodedFrame) : List Nat :=
  let bytes := if x.lost then [] else if kind = 4 then slice x.data (15 * d) 15 else slice x.data d 1
  let last := if kind = 4 then decide (bytes ≠ [] ∧ x.data.length ≤ 15 * d + 15) else d + 1 == f && !x.lost
  let fs := d == 0
  let c0 := kind * 2 ^ 20 + b2n fs * 2 ^ 19 + b2n (fs && x.lost) * 2 ^ 18 + b2n (fs && x.fec) * 2 ^ 17 + b2n last * 2 ^ 16
    + bytes.length * 2 ^ 12 + (if fs then x.first / f % 4096 else 0)
  c0 :: (List.range 5).map fun j => byteAt bytes (3 * j) * 65536 + byteAt bytes (3 * j + 1) * 256 + byteAt bytes (3 * j + 2)

/-- The bytes of an Ell of a coded slot. -/
def codedBytes (ws : List Nat) : List Byte :=
  let vals := (ws.map (· / 256)).drop 1
  ((vals.flatMap fun v => toBe 3 v)).take (fld (ws.getD 0 0 / 256) 15 12)

/-- One command of the control slot. -/
def libCmd (s : State) (code nch : Nat) (a : Core × VoiceTask) (e : Nat × Nat × Nat × Bool) : Core × VoiceTask :=
  let (chan, index, v, conc) := e
  let off := if code = 1 then index else 64 + chan * codecWords code + index
  if cmdGood code nch chan index v conc then
    (libStore s a.1 off [v], { a.2 with applied := (a.2.applied + 1) % 4096, refused := false, chan := chan, index := index })
  else (a.1, { a.2 with refused := true, chan := chan, index := index })

/-- `prm_ack` (R260). -/
def prmAck (v : VoiceTask) : Nat := b2n v.refused * 2 ^ 23 + v.chan * 2 ^ 16 + v.index * 2 ^ 12 + v.applied

/-! ## Levels (R260) -/

/-- Whether 10 log10(num / den) is at least `m` / 256 dB, that is 10^m ≤ (num / den)^2,560. -/
def dbGe (num den : Nat) (m : Int) : Bool := decide (10 ^ m.toNat * den ^ 2560 ≤ num ^ 2560 * 10 ^ (-m).toNat)

/-- A ratio of powers in units of 1/256 dB; 0x80_0000 stands for no signal. -/
def dbLevel (num den : Nat) : Int :=
  if num = 0 then -8388608
  else if den = 0 then Config.levelTop num
  else greatest (dbGe num den) 18 (-131072) + b2n (Config.levelUp num den)

/-- The sum of squares of samples. -/
def powerOf (l : List Int) : Nat := (l.map fun v => v.natAbs * v.natAbs).sum

/-- Mean level in dBFS of samples whose squares sum to `sq`. -/
def dbfs (sq n : Nat) : Int := if n = 0 then -8388608 else dbLevel sq (n * 2 ^ 46)

/-- A signed value in 24 bits. -/
def w24 (v : Int) : Nat := wrap 24 v

/-- `svc` of a library function (R32, R260, R267): CONCEALED when its signal carries `c`, DELAYED when it runs one Ell late. -/
def libSvc (c : Core) (conc : Bool) : Nat := if conc then 2 else if 4096 ≤ c.inst then 1 else 0

/-! ## The echo canceller (R257-R260) -/

/-- The reference samples of the window for near-end sample `j` (R257), newest first. -/
def echoWindow (refs : List Int) (bulk taps j : Nat) : List Int := (refs.drop (5 - j + 6 * bulk)).take taps

/-- The period sums with the Ell index `n`, begun anew where a period begins. -/
def turnPeriod (n : Nat) (x : Canceller) : Canceller :=
  let k := n % 2 ^ 32 / 800
  if x.period = k then x else { x with period := k, last := x.sums, sums := {} }

/-- Whether ERLE has fallen by more than 12 dB in the last 800 Ells of echo alone (R259). -/
def fellBy12 (recent : List (Nat × Nat)) (near res : Nat) : Bool :=
  recent.any fun e => decide (10 ^ 6 * (near * e.2) ^ 5 < (e.1 * res) ^ 5)

/-- What the canceller finds in one Ell. -/
structure EchoEll where
  /-- samples of the near end, and what the filter leaves of them -/
  sin : List Int
  res : List Int
  /-- reference above -60 dBFS, double-talk declared, processor at work, hard suppression, comfort noise -/
  active : Bool
  dt : Bool
  nlp : Bool
  hard : Bool
  noise : Bool
  bypass : Bool
  path : Bool
  deriving DecidableEq, Repr

/-- The conditions of R259 for one Ell, over the state in which the reference samples stand, and the state after it. `cold` says that
fewer than 8,000 Ells have passed since the cold start. -/
def echoStep (prm : Nat → Nat) (taps : Nat) (cold clear : Bool) (sin : List Nat) (ref : List Int) (x : Canceller) :
    Canceller × EchoEll :=
  let x := if clear then { x with filt := 0, adapted := false, last := { x.last with echoSin := 0, echoRef := 0, echoRes := 0 } } else x
  let near := sin.map cVal
  let bypass := prm 12 == 1
  let win := echoWindow x.refs (prm 6) taps
  let echo := (List.range 6).map fun j => if x.filt = 0 then 0 else Config.echoSample x.filt (win j)
  let res := (near.zip echo).map fun e => e.1 - e.2
  let pNear := powerOf near
  let pRes := powerOf res
  let active := decide (6 * 2 ^ 46 < powerOf ref * 10 ^ 6)
  let talk := decide (Config.echoLevel x.filt (win 5) ^ 20 * 10 ^ prm 10 < pNear ^ 20)
  let dt := talk || x.hold != 0
  let adapts := prm 11 != 1 && active && !dt && sin.all (fun w => !bit w 6) && !bypass && x.frozen == 0
  let alone := active && !dt
  let nlp := prm 7 != 0 && !dt && decide (pRes ≤ 10 * Config.echoResidual x.filt (win 5)) && !bypass
  let hard := prm 7 == 2 || cold
  let add := if alone then (fun a b => a + b) else fun (a _ : Nat) => a
  let y : Canceller :=
    { x with
      filt := if adapts then Config.echoAdapt x.filt (win 5) res else x.filt
      noise := if !active && !Config.speechIn x.noise near then Config.noiseLearn x.noise near else x.noise
      gen := if nlp && hard && prm 8 == 1 then Config.noiseNext x.gen else x.gen
      hold := if talk then 40 else x.hold - 1, frozen := x.frozen - 1, adapted := x.adapted || adapts
      recent := if alone then ((pNear, pRes) :: x.recent).take 800 else []
      sums := { x.sums with
        ells := x.sums.ells + 1, sin := x.sums.sin + pNear, ref := x.sums.ref + powerOf ref, dt := x.sums.dt + b2n dt
        echoSin := add x.sums.echoSin pNear, echoRef := add x.sums.echoRef (powerOf ref), echoRes := add x.sums.echoRes pRes } }
  (y, { sin := near, res := res, active := active, dt := dt, nlp := nlp, hard := hard, noise := nlp && hard && prm 8 == 1,
        bypass := bypass, path := alone && fellBy12 x.recent pNear pRes })

/-- An output sample before saturation. Soft suppression attenuates by at most 18 dB, a gain of 1,056,064 x 2^-23. -/
def echoOut (x : Canceller) (e : EchoEll) (refs : List Int) (j : Nat) : Int :=
  let r := e.res.getD j 0
  if e.bypass then e.sin.getD j 0
  else if ¬ e.nlp then r
  else if e.noise then Config.noiseSample x.noise x.gen j
  else if e.hard then 0
  else (r * (max 1056064 (min (2 ^ 23) (Config.softGain x.filt refs)) : Nat)).tdiv (2 ^ 23)

/-- Status words 16-31 of the canceller (R260). -/
def echoStatus (c : Core) (v : VoiceTask) (x : Canceller) (e : EchoEll) (bulk taps : Nat) (conc sat : Bool) : List Nat :=
  let l := x.last
  let erle := dbLevel l.echoSin l.echoRes
  let conv := if ¬ x.adapted then 0 else if l.echoSin ≠ 0 ∧ 20 * 256 ≤ erle then 2 else 1
  [libSvc c conc * 2 ^ 22 + conv * 2 ^ 20 + b2n sat * 128 + b2n e.path * 64 + b2n (!e.active) * 32 + b2n e.noise * 16 +
     b2n (e.nlp && (e.hard || !e.noise)) * 8 + b2n e.dt * 4 + b2n (decide (1 < c.gap)) * 2 + b2n e.bypass,
   w24 erle, w24 (dbLevel l.echoRef l.echoSin), 6 * bulk + Config.echoPeak x.filt % taps, w24 (dbfs l.sin (6 * l.ells)),
   w24 (dbfs l.ref (6 * l.ells)), w24 (dbfs l.out (6 * l.ells)), l.dt, prmAck v, c.data, v.cold, 0, 0, 0, 0, 0]

/-- The echo canceller of one data Ell (R257-R260, R271). The commands of the Ell have been applied; `clear` says that one of them
cleared the filter. -/
def cancelRun (s : State) (c : Core) (v : VoiceTask) (clear : Bool) (x : Canceller) : Core × Canceller :=
  let prm := libWord s c
  let taps := if prm 5 = 1 then 6144 else 3072
  let bulk := prm 6
  let sin := libRead s c (prm 1)
  let ref := (libRead s c (prm 2)).map cVal
  let missed := List.replicate (min (6 * (c.gap - 1)) (6 * bulk + taps)) (0 : Int)
  let x := turnPeriod c.data
    { x with
      refs := (ref.reverse ++ missed ++ x.refs).take (6 * bulk + taps + 5)
      frozen := if 1 < c.gap then taps / 6 else x.frozen }
  let (y, e) := echoStep prm taps (decide (v.age < 8000)) (clear || prm 11 == 2) sin ref x
  let out := (List.range 6).map fun j => sat24 (echoOut x e (echoWindow x.refs bulk taps 5) j)
  let ws := (sin.zip out).map fun p => mkC p.2.1 (cFlags p.1 ||| if p.2.2 then flagS else 0)
  let y := { y with sums := { y.sums with out := y.sums.out + powerOf (out.map (·.1)) } }
  let c := if prm 11 = 2 then libStore s c 11 [0] else c
  let st := echoStatus c v y e bulk taps (ws.any fun w => bit w 6) (out.any (·.2))
  (libStore s (libSlot c (prm 3) ws) 16 st, y)

/-! ## G.711 and Opus packets (R264, R265, R268) -/

/-- The octet of ITU-T G.711 for a sample of full scale 2^23: A-law with its even bits inverted, or u-law. -/
def lawEncode (mu : Bool) (v : Int) : Byte :=
  let sign := if 0 ≤ v then 0x80 else 0
  if mu then
    let m := min 8191 (v.natAbs / 2 ^ 10 + 33)
    let e := Nat.log2 m - 5
    BitVec.ofNat 8 (255 ^^^ (0x80 - sign + 16 * e + m / 2 ^ (e + 1) % 16))
  else
    let m := min 4095 (v.natAbs / 2 ^ 11)
    let e := Nat.log2 m - 4
    BitVec.ofNat 8 (0x55 ^^^ (sign + 16 * e + m / 2 ^ max 1 e % 16))

/-- The sample of an octet of ITU-T G.711, of full scale 2^23. -/
def lawDecode (mu : Bool) (b : Byte) : Int :=
  let o := b.toNat ^^^ if mu then 0xFF else 0x55
  let e := fld o 6 4
  let q := o % 16
  let m : Int := if mu then ((2 * q + 33) * 2 ^ e - 33) * 2 ^ 10 else (if e = 0 then 2 * q + 1 else (2 * q + 33) * 2 ^ (e - 1)) * 2 ^ 11
  if bit o 7 = mu then -m else m

/-- Mode and band of an Opus encoder by `rate` and `bw` (R264): 1 SILK, 2 hybrid, 3 CELT. -/
def opusMode (rate bw : Nat) : Nat × Nat :=
  if bw ≤ 2 ∨ rate < 200 then (1, min bw 2) else if rate < 400 then (2, bw) else (3, bw)

/-- The first byte of a packet of one mono frame of F Ells (RFC 6716, section 3.1): configuration, mono, code 0. -/
def opusToc (mode band f : Nat) : Nat :=
  let k := f / 160
  8 * (if mode = 1 then 4 * band + k else if mode = 2 then 12 + 2 * (band - 3) + k else (if band = 3 then 26 else 30) + k)

/-- Mode of a packet (RFC 6716, section 3.1). -/
def opusModeOf (b : List Byte) : Nat := let k := byteAt b 0 / 8; if k < 12 then 1 else if k < 16 then 2 else 3

/-- The packet of one frame (R264): parameters `rate`, `bw`, `vbr`, `fec`. -/
def opusPacket (f st : Nat) (par : List Nat) (pcm : List Int) : List Byte :=
  let rate := par.getD 0 0
  let (mode, band) := opusMode rate (par.getD 1 0)
  let eff := [mode, band, if mode = 1 then min rate 400 else rate, par.getD 2 0, if mode = 3 then 0 else par.getD 3 0, f]
  let size := if par.getD 2 0 = 0 then cdiv (rate * f) 640 else Config.voiceSize st eff pcm % 1275 + 1
  BitVec.ofNat 8 (opusToc mode band f) :: (List.range (size - 1)).map (Config.voiceByte 0x14 st eff pcm)

/-- Duration of a packet's frames in units of 2.5 ms (RFC 6716, section 3.1). -/
def opusUnit (b : List Byte) : Nat :=
  let k := byteAt b 0 / 8
  if k < 12 then [4, 8, 16, 24].getD (k % 4) 0 else if k < 16 then 4 * 2 ^ (k % 2) else 2 ^ (k % 4)

/-- A frame length at the front of a list, and what follows it (RFC 6716, section 3.2.1). -/
def opusLen : List Byte → Option (Nat × List Byte)
  | [] => none
  | a :: l => if a.toNat < 252 then some (a.toNat, l) else match l with | [] => none | b :: l => some (4 * b.toNat + a.toNat, l)

/-- Padding bytes announced at the front of a list, and what follows their count (RFC 6716, section 3.2.5). -/
def opusPad : List Byte → Option (Nat × List Byte)
  | [] => none
  | a :: l => if a.toNat = 255 then (opusPad l).map fun p => (p.1 + 254, p.2) else some (a.toNat, l)

/-- `k` frame lengths, and what follows them. -/
def opusLens : Nat → List Byte → Option (List Nat × List Byte)
  | 0, l => some ([], l)
  | k + 1, l => (opusLen l).bind fun a => (opusLens k a.2).map fun p => (a.1 :: p.1, p.2)

/-- The frame sizes of a packet (RFC 6716, section 3.2); none where it does not parse. -/
def opusFrames (b : List Byte) : Option (List Nat) :=
  let l := b.drop 1
  let n := l.length
  match byteAt b 0 % 4 with
  | 0 => some [n]
  | 1 => if n % 2 = 0 then some [n / 2, n / 2] else none
  | 2 => (opusLen l).bind fun a => if a.1 ≤ a.2.length then some [a.1, a.2.length - a.1] else none
  | _ =>
    let h := byteAt b 1
    let m := h % 64
    (if bit h 6 then opusPad (b.drop 2) else some (0, b.drop 2)).bind fun p =>
      if n = 0 ∨ m = 0 then none
      else if bit h 7 then
        (opusLens (m - 1) p.2).bind fun q =>
          let rest := q.1.sum + p.1
          if rest ≤ q.2.length then some (q.1 ++ [q.2.length - rest]) else none
      else if p.1 ≤ p.2.length ∧ (p.2.length - p.1) % m = 0 then some (List.replicate m ((p.2.length - p.1) / m)) else none

/-- Whether a packet parses with a total duration of F Ells (R265). -/
def opusOk (f : Nat) (b : List Byte) : Bool :=
  b != [] && match opusFrames b with
  | none => false
  | some l => l.all (· ≤ 1275) && 20 * opusUnit b * l.length == f

/-! ## Encoders (R263, R264, R267) -/

/-- Adding samples to the present frame of a channel's status. -/
def statAdd (vs : List Int) (conc : Bool) (x : CodecStat) : CodecStat := { x with sq := x.sq + powerOf vs, conc := x.conc || conc }

/-- A frame's sums are closed: its level is published when the frame counts. -/
def statClose (f : Nat) (counts : Bool) (x : CodecStat) : CodecStat :=
  { x with level := if counts then dbfs x.sq (6 * f) else x.level, sq := 0, conc := false }

/-- Windows after a cold start in which an encoder writes `lost` (R263). -/
def lostWins (code : Nat) : Nat := if code = 0x14 then 2 else 1

/-- A frame window begins at data Ell `n` (R263): the frame that it emits is known, and its own input is about to be taken. -/
def encStart (code f n : Nat) (par : List Nat) (x : EncChan) : EncChan :=
  let wins := min 3 (x.wins + 1)
  let good := decide (lostWins code < wins)
  let opus := code == 0x14
  let data := if opus && good then opusPacket f x.st x.parOld x.capOld.reverse else []
  let len := if opus then data.length else f
  let stat : CodecStat :=
    if good then
      { x.stat with frames := x.stat.frames + 1, bytesLast := len, mode := if opus then opusModeOf data else 0 }
    else { x.stat with lost := x.stat.lost + 1 }
  { x with
    wins := wins, out := { first := n, data := data, lost := !good, fec := false }, stat := stat
    st := if opus && good then Config.voiceKept code x.st x.parOld x.capOld.reverse else x.st
    par := par, cap := [], parOld := x.par, capOld := x.cap }

/-- One data Ell of an encoder channel: the channel after it and the values of its coded slot (R254, R263). -/
def encEll (code f pos n : Nat) (mu : Bool) (par : List Nat) (ws : List Nat) (x : EncChan) : EncChan × List Nat :=
  let x := if pos = 0 then encStart code f n par x else x
  let vs := ws.map cVal
  let opus := code == 0x14
  let hist := if opus then [] else (vs.reverse ++ x.hist).take 192
  let byte := if code = 0x10 then lawEncode mu (Config.voiceDown code hist 0) else Config.voiceByte code x.st [] hist 0
  let out := if opus then x.out else { x.out with data := List.replicate pos 0 ++ [byte] }
  let kind := if code = 0x10 then (if mu then 2 else 1) else if opus then 4 else 3
  -- the input of the window belongs to a frame that is emitted
  let counts := decide (lostWins code ≤ x.wins + b2n opus)
  let stat := statAdd vs (ws.any fun w => bit w 6) x.stat
  let stat := { stat with sat := false }
  let stat :=
    if pos + 1 = f then statClose f counts { stat with concIn := stat.concIn + b2n (stat.conc && counts) } else stat
  ({ x with
      hist := hist, cap := if opus then vs.reverse ++ x.cap else [], stat := stat
      st := if code = 0x12 then Config.voiceKept code x.st [] hist else x.st },
   codedConts kind f pos out)

/-! ## Decoders (R265-R267) -/

/-- One Ell of a coded slot in its frame window, and the violations of R255 that it shows. -/
def winEll (opus : Bool) (kind pos : Nat) (ws : List Nat) (w : CodedWin) : CodedWin × Nat :=
  let c0 := ws.getD 0 0 / 256
  let bad := bit (ws.getD 0 0) 6
  let fs := !bad && bit c0 19
  let bytes := if bad then [] else codedBytes ws
  let short := if opus then bytes.isEmpty else bytes.length != 1
  let fin := !bad && bit c0 16
  if pos = 0 then
    let open' := fs && fld c0 23 20 == kind
    let lost := open' && bit c0 18
    ({ opened := open', bad := bad || (fs && !open') || (open' && !lost && short), lost := lost, fec := open' && opus && bit c0 17,
       ended := open' && fin, data := if open' && !lost then bytes else [] },
     b2n (!open' && !bytes.isEmpty))
  else
    let takes := w.opened && !w.lost && !w.ended
    ({ w with
        bad := w.bad || bad || (takes && short), ended := w.ended || (takes && fin)
        data := if takes then w.data ++ bytes else w.data },
     b2n fs + b2n (!takes && !bytes.isEmpty))

/-- An Opus frame window is judged (R265). -/
def judgeOpus (f : Nat) (w : CodedWin) : ToPlay :=
  if ¬ w.opened then .lost w.bad
  else if w.lost then .lost false
  else if w.bad ∨ ¬ w.ended ∨ w.data.length = 0 ∨ 1275 < w.data.length ∨ ¬ opusOk f w.data then .lost true
  else if ¬ w.fec then .good w.data
  else if Config.opusRedundant w.data then .redundant w.data
  else .lost false

/-- What an Ell of a G.711 or G.722 frame is to play (R265). -/
def judgeByte (w : CodedWin) : ToPlay :=
  if w.opened ∧ ¬ w.lost ∧ ¬ w.bad then .good (w.data.drop (w.data.length - 1)) else .lost (w.bad && !w.lost)

/-- A lost or bad frame is due to play (R266). -/
def decLost (mute : Nat) (bad : Bool) (x : DecChan) : DecChan :=
  let run := if x.state = 0 then 0 else x.lostRun + 1
  { x with
    state := if x.state = 0 then 0 else if run ≤ mute + 1 then 2 else 3
    lostRun := run, fadeIn := false, broken := true
    stat := { x.stat with lost := x.stat.lost + b2n (!bad), bad := x.stat.bad + b2n bad, mode := 0, bytesLast := 0 } }

/-- A frame that is good begins to play (R266). -/
def decGood (x : DecChan) : DecChan := { x with state := 1, lostRun := 0, fadeIn := x.state == 3, broken := false }

/-- How a unit is produced, and from which bytes: decoded, rebuilt, concealed. -/
def ToPlay.how : ToPlay → Nat × List Byte
  | .good d => (0, d)
  | .redundant d => (1, d)
  | .lost _ => (2, [])

/-- Sample `i` of a frame in the state that a decoder is in (R253, R266), before saturation, and whether it carries `c`. -/
def decShape (f mute : Nat) (redundant : Bool) (x : DecChan) (i : Nat) (y : Int) : Int × Bool :=
  match x.state with
  | 1 => if x.fadeIn ∧ i < 48 then ((y * (i : Nat)).tdiv 48, true) else (y, redundant)
  | 2 => if x.lostRun ≤ mute then (y, true) else ((y * ((6 * f - (i + 1) : Nat) : Int)).tdiv (6 * f : Nat), true)
  | _ => (0, true)

/-- The six containers of a decoder's Ell. -/
def decConts (l : List (Int × Bool)) : List Nat :=
  l.map fun e => let (v, sat) := sat24 e.1; mkC v ((if e.2 then flagC else 0) ||| if sat then flagS else 0)

/-- The Ell of an Opus decoder at place `pos` of a window (R265, R266). -/
def opusEll (f pos mute : Nat) (ws : List Nat) (x : DecChan) : DecChan × List Nat :=
  let x :=
    if pos ≠ 0 then x
    else
      let judged := if x.wins = 0 then none else some (judgeOpus f x.cur)
      let (how, d) := ((x.pend.map ToPlay.how).getD (2, []))
      let y := { x with
        wins := 1, pend := judged, play := x.pend, stPlay := x.st
        st := if x.pend.isNone then x.st else Config.voiceNext how 0x15 x.st d }
      match x.pend with
      | none => y
      | some (.good d) =>
        let y := decGood y
        { y with stat := { y.stat with frames := y.stat.frames + 1, bytesLast := d.length, mode := opusModeOf d } }
      | some (.redundant d) =>
        let y := decGood y
        { y with stat := { y.stat with fec := y.stat.fec + 1, bytesLast := d.length, mode := opusModeOf d } }
      | some (.lost bad) => decLost mute bad y
  let (cur, viol) := winEll true 4 pos ws x.cur
  let (how, d) := ((x.play.map ToPlay.how).getD (2, []))
  let out := decConts ((List.range 6).map fun j =>
    decShape f mute (how == 1) x (6 * pos + j) (Config.voiceSample how 0x15 x.stPlay d (6 * pos + j)))
  ({ x with cur := if x.wins = 0 then {} else cur, stat := { x.stat with bad := x.stat.bad + viol } }, out)

/-- Ells from a byte to the samples that play it (R265). -/
def codecDelay (code : Nat) : Nat := if code = 0x11 then 8 else 12

/-- The Ell of a G.711 or G.722 decoder at place `pos` of a window (R265, R266): the byte is decoded, and the Ell that came 8 or 12
Ells before plays. -/
def byteEll (code f pos mute : Nat) (mu : Bool) (ws : List Nat) (x : DecChan) : DecChan × List Nat :=
  let kind := if code = 0x13 then 3 else if mu then 2 else 1
  let wins := if pos = 0 then 1 else x.wins
  let (cur, viol) := if wins = 0 then (x.cur, 0) else winEll false kind pos ws x.cur
  let u := judgeByte cur
  let (how, d) := u.how
  let new : List Int :=
    if wins = 0 then [0]
    else
      match u with
      | .good d => if code = 0x11 then [lawDecode mu (d.getD 0 0)] else [Config.voiceSample 0 code x.st d 1, Config.voiceSample 0 code x.st d 0]
      | _ => if code = 0x11 then [Config.voiceSample 2 code x.st [] 0] else [Config.voiceSample 2 code x.st [] 1, Config.voiceSample 2 code x.st [] 0]
  let narrow := (new ++ x.narrow).take 48
  let due := x.units[codecDelay code - 1]?
  let x := { x with
    wins := wins, cur := cur, narrow := narrow, st := if wins = 0 then x.st else Config.voiceNext how code x.st d
    units := if wins = 0 then [] else ((pos, u) :: x.units).take (codecDelay code)
    stat := { x.stat with bad := x.stat.bad + viol } }
  match due with
  | none => (x, decConts (List.replicate 6 (0, true)))
  | some (p, u) =>
    let x :=
      match u with
      | .lost bad => if p = 0 then decLost mute bad x else if x.broken then x else decLost mute true x
      | _ => if p = 0 then decGood x else x
    let x := if p + 1 = f ∧ ¬ x.broken then { x with stat := { x.stat with frames := x.stat.frames + 1, bytesLast := f } } else x
    (x, decConts ((List.range 6).map fun j => decShape f mute false x (6 * p + j) (Config.voiceUp code narrow j)))

/-- One data Ell of a decoder channel: the channel after it, and the containers of its audio slot. -/
def decEll (code f pos mute : Nat) (mu : Bool) (ws : List Nat) (x : DecChan) : DecChan × List Nat :=
  let (y, out) := if code = 0x15 then opusEll f pos mute ws x else byteEll code f pos mute mu ws x
  let played := (pos + f - if code = 0x15 then 0 else codecDelay code) % f
  let stat := statAdd (out.map cVal) false { y.stat with sat := out.any fun w => bit w 5 }
  ({ y with stat := if played + 1 = f then statClose f true stat else stat }, out)

/-! ## The codec tasks (R262, R267, R271) -/

/-- Status words 16-31 of a codec channel (R267). -/
def codecStatus (c : Core) (conc : Bool) (state : Nat) (x : CodecStat) : List Nat :=
  [libSvc c conc * 2 ^ 22 + state * 2 ^ 19 + x.mode * 2 ^ 16 + b2n x.sat, x.frames, x.lost, x.fec, x.bad, x.bytesLast, w24 x.level,
   x.concIn] ++ List.replicate 8 0

/-- Place of data Ell `n` in its frame window (R255). -/
def framePos (f phase n : Nat) : Nat := (n % 2 ^ 48 + f - phase % f) % f

/-- One channel of a codec task. The Ells missed since the last commit pass with no input (R271): silence for an encoder, a concealed
coded slot for a decoder. -/
def codecChan (s : State) (code f phase t : Nat) (a : Core × VoiceLib) (ch : Nat) : Core × VoiceLib :=
  let (c, lib) := a
  let base := 64 + ch * codecWords code
  let prm (i : Nat) : Nat := libWord s c (base + i)
  let k := 32 * t + ch
  let mu := prm 2 == 1
  let missed := (List.range (c.gap - 1)).map fun i => c.data + 1 - c.gap + i
  if code % 2 = 0 then
    let ws := libRead s c (prm 0)
    let step (n : Nat) (ws : List Nat) (x : EncChan) : EncChan × List Nat :=
      encEll code f (framePos f phase n) (n % 2 ^ 48) mu [prm 3, prm 4, prm 5, prm 6] ws x
    let x := missed.foldl (fun x n => (step n (List.replicate 6 0) x).1) (tget {} lib.enc k)
    let (x, out) := step c.data ws x
    let st := codecStatus c (ws.any fun w => bit w 6) (if x.wins ≤ lostWins code then 4 else 5) x.stat
    (libStore s (libSlot c (prm 1) (out.map (· * 256))) (base + 16) st, { lib with enc := tset {} lib.enc k x })
  else
    let step (n : Nat) (ws : List Nat) (x : DecChan) : DecChan × List Nat := decEll code f (framePos f phase n) (prm 7) mu ws x
    let x := missed.foldl (fun x n => (step n (List.replicate 6 flagC) x).1) (tget {} lib.dec k)
    let (x, out) := step c.data (libRead s c (prm 1)) x
    let st := codecStatus c (out.any fun w => bit w 6) x.state x.stat
    (libStore s (libSlot c (prm 0) out) (base + 16) st, { lib with dec := tset {} lib.dec k x })

/-! ## A library task's Ell (R249-R252) -/

/-- What a library task keeps, at a cold start begun anew (R271): a filter of zero, decoders in WAIT, encoders in START. -/
def libCold (c : Core) (seed : Nat) (lib : VoiceLib) : VoiceLib :=
  let t := c.inst % 4096
  if c.entryW % 4 = 0 then { lib with tasks := tupd {} lib.tasks t fun v => { v with age := v.age + max 1 c.gap } }
  else
    { tasks := tset {} lib.tasks t { cold := c.data }, cancel := tset {} lib.cancel t { gen := BitVec.ofNat 31 seed }
      enc := tdrop lib.enc fun k => k / 32 == t, dec := tdrop lib.dec fun k => k / 32 == t }

/-- The function of the library task on core `i`, for the data Ell of its attempt: its stores stand in the commit buffer (R249-R268).
The task reads its control slot first (R252). A task whose function code the table of R250 does not hold stores what its code stored. -/
def libRun (i : Nat) (s : State) : State :=
  let c := s.core i
  if ¬ bit (tkFlags (instBody s c.inst)) 2 then s
  else
    let t := c.inst % 4096
    let prm := libWord s c
    let code := fld (prm 0) 23 16
    let lib := libCold c (prm 9) s.ha.lib
    let cmds := if prm 4 = 0xFFFFFF then [] else ctlCmds (libRead s c (prm 4))
    let (c, v) := cmds.foldl (libCmd s code (prm 1)) (c, tget {} lib.tasks t)
    let lib := { lib with tasks := tset {} lib.tasks t v }
    let done (c : Core) (lib : VoiceLib) : State := { s with ha := { s.ha with cores := tset {} s.ha.cores i c, lib := lib } }
    if code = 1 then
      let clear := cmds.any fun e => cmdGood code 0 e.1 e.2.1 e.2.2.1 e.2.2.2 && e.2.1 == 11 && e.2.2.1 == 2
      let (c, x) := cancelRun s c v clear (tget {} lib.cancel t)
      done c { lib with cancel := tset {} lib.cancel t x }
    else if 0x10 ≤ code ∧ code ≤ 0x15 then
      let f := prm 2
      let (c, lib) := (List.range (prm 1 % 64)).foldl (codecChan s code f (prm 3) t) (c, lib)
      done (libStore s c 16 ([c.data, v.cold, prmAck v] ++ List.replicate 13 0)) lib
    else s

/-- Whether a word of a holm's data memory is a private word of a library task that has run (R251): its task, offset and last data Ell. -/
def libPrivate (s : State) (h addr : Nat) : Option (Nat × Nat × Nat) :=
  (recsOf s.cfg.recs tyTASK).findSome? fun e =>
    let (t, b) := e
    if bit (tkFlags b) 2 ∧ tkHolm b = h ∧ tkBase b + 32 ≤ addr ∧ addr < tkBase b + tkLen b ∧ (s.tstat t).last ≠ 0 then
      let off := addr - tkBase b
      let code := fld (memWord s h (tkBase b)) 31 24
      if code = 1 ∨ (64 ≤ off ∧ codecWords code ≠ 0 ∧ 32 ≤ (off - 64) % codecWords code) then some (t, off, (s.tstat t).last) else none
    else none

end Sys2Proof.Machine
end

