-- ==== Sys2Proof/Machine/LocalPorts.lean ====
section
/-! DEFINITION. Local audio ports, GPIO, host slots and coded slots, [19] and R254-R256. -/

namespace Sys2Proof.Machine

/-! ## LOCAL (R437, R440-R442) -/

def lpMode (b : List Byte) : Nat := byteAt b 0
def lpRate (b : List Byte) : Nat := byteAt b 1
def lpChans (b : List Byte) : Nat := byteAt b 2
def lpOpts (b : List Byte) : Nat := byteAt b 3
def lpIn (b : List Byte) : Nat := u16 b 4
def lpOut (b : List Byte) : Nat := u16 b 6
def lpPass (b : List Byte) : Nat := byteAt b 8

def isMadi (obj : Nat) : Bool := decide (0x10 ≤ obj) && decide (obj < 0x14)
def isTdm (obj : Nat) : Bool := obj == 0x20 || obj == 0x21
def isAesIn (obj : Nat) : Bool := decide (obj < 8)
def isAesOut (obj : Nat) : Bool := decide (8 ≤ obj) && decide (obj < 0x10)
def isAudio (obj : Nat) : Bool := decide (obj < 0x10) || isMadi obj || isTdm obj

/-- Host slots: first slot, count, `hold`. -/
def hsFirst (b : List Byte) : Nat := u16 b 0
def hsCount (b : List Byte) : Nat := u16 b 2 % 512
def hsHold (b : List Byte) : Bool := bit (u16 b 2) 15

/-- GPIO fields. -/
def gpDir (b : List Byte) : Nat := u32 b 0
def gpDrive (b : List Byte) : Nat := u32 b 4
def gpIn (b : List Byte) : Nat := u16 b 8
def gpOut (b : List Byte) : Nat := u16 b 0xA
def gpDeb (b : List Byte) : Nat := byteAt b 0xC

/-- Entries of the coded ring map: ring, slot. -/
def codedMap (b : List Byte) : List (Nat × Nat) := (wordsOf b).map fun w => (w / 2 ^ 28, w % 2 ^ 14)

/-- Objects and layouts of a LOCAL record (R437, R461). -/
def formLOCAL (obj : Nat) (b : List Byte) : Bool :=
  if isAudio obj then
    b.length == 48 && decide (lpMode b < 3) && (lpRate b == 3 || lpRate b == 4) &&
      decide (lpOpts b < if isAesIn obj then 1 else 4) && allZero (slice b 9 7) && allZero (slice b 0x28 8)
  else if obj = 0x30 then b.length == 16 && allZero (slice b 0xD 3)
  else if obj = 0x31 ∨ obj = 0x32 then b.length == 4 && fld (u16 b 2) 14 9 == 0
  else if obj = 0x40 then b.length != 0 && b.length % 4 == 0 && (wordsOf b).all fun w => fld w 27 14 == 0
  else false

/-- A run of an audio port's channels in slots [lo, hi), pairs on even slots at 96 kHz (R13); 0xFFFF is none. -/
def lpRun (b : List Byte) (first lo hi : Nat) : Bool := first == 0xFFFF || runIn first (lpChans b) (lpRate b) lo hi

/-- The rules that concern one LOCAL record. -/
def limitLOCAL (obj : Nat) (b : List Byte) : Bool :=
  if isAudio obj then
    let top := if isMadi obj then (if lpRate b = 4 then 32 else 64) else if isTdm obj then 16 else 2
    decide ((if isMadi obj || isTdm obj then 1 else 2) ≤ lpChans b) && decide (lpChans b ≤ top) &&
      (isAesOut obj || allZero (slice b 0x10 24)) && lpRun b (lpIn b) 0 4096 && lpRun b (lpOut b) 4096 8192 &&
      (lpMode b == 1 || (lpIn b == 0xFFFF && lpOut b == 0xFFFF)) &&
      (!isAesIn obj || lpOut b == 0xFFFF) && (!isAesOut obj || lpIn b == 0xFFFF) &&
      (lpPass b == 0xFF || (isMadi obj && isMadi (lpPass b)))
  else if obj = 0x30 then
    (gpIn b == 0xFFFF || decide (gpIn b < 4096)) && decide (1 ≤ gpDeb b) &&
      (gpOut b == 0xFFFF || (decide (4096 ≤ gpOut b) && decide (gpOut b < 8192)))
  else if obj = 0x40 then
    (codedMap b).all fun e => if e.1 < 8 then decide (4096 ≤ e.2) && decide (e.2 < 8192) else decide (e.2 < 4096)
  else
    decide (1 ≤ hsCount b) && decide (hsCount b ≤ 256) &&
      (if obj = 0x31 then decide (hsFirst b + hsCount b ≤ 4096)
       else decide (12288 ≤ hsFirst b) && decide (hsFirst b + hsCount b ≤ 16384))

/-- Slots that a LOCAL record writes. -/
def lpWrites (obj : Nat) (b : List Byte) : List Nat :=
  if isAudio obj then
    if lpIn b = 0xFFFF then [] else (List.range (lpChans b * slotsPer (lpRate b))).map (lpIn b + ·)
  else if obj = 0x30 then (if gpIn b = 0xFFFF then [] else [gpIn b])
  else if obj = 0x40 then ((codedMap b).filter fun e => decide (8 ≤ e.1)).map (·.2)
  else (List.range (hsCount b)).map (hsFirst b + ·)

namespace State
def lport (s : State) (p : Nat) : LPort := tget {} s.host.ports p
def setLport (s : State) (p : Nat) (x : LPort) : State := s.updHost fun h => { h with ports := tset {} h.ports p x }
end State

/-- An event of the local ports (R446). -/
def lpEvent (v : Nat) (d : List Nat) (s : State) : State := s.raise 14 (0xE00 + v) d

/-! ## Audio inputs (R438, R439) -/

/-- Frames per second of a port. -/
def lpHz (b : List Byte) : Nat := if lpRate b = 4 then 96000 else 48000

/-- The media sample instant nearest to now, counted from media time zero. -/
def nearSample (s : State) (b : List Byte) : Nat :=
  let f := kRate (lpRate b)
  ((2 * s.mediaOf s.now * f + 500000) / 1000000).toNat

/-- Setting `c` in every container of a frame. -/
def withC (f : List Word) : List Word := f.map (· ||| 0x40)

/-- A frame enters a locked port's FIFO, centred at lock: with the fill outside [1, 7] one sample is dropped or repeated. -/
def fifoPut (p : Nat) (b : List Byte) (f : List Word) (s : State) : State :=
  let x := s.lport p
  let m := nearSample s b
  let slip (k : Nat) (s : State) : State := lpEvent 3 [p, k] (s.bump (baseHP + 0x224))
  if m + 3 < x.idx then
    slip 0 (s.setLport p { x with fifo := x.fifo.dropLast ++ (x.fifo.getLast?.map withC).toList })
  else if x.idx + 3 < m then slip 1 (s.setLport p { x with fifo := x.fifo ++ [f, withC f], idx := x.idx + 2 })
  else s.setLport p { x with fifo := x.fifo ++ [f], idx := x.idx + 1 }

/-- The containers of a received frame: a V bit sets `c`, a parity error repeats the previous sample with `c`. -/
def frameConts (x : LPort) (aes : Bool) (ss : List LocalSample) : List Word :=
  (ss.zipIdx).map fun e =>
    if aes ∧ e.1.parityBad then x.last.getD e.2 0 ||| 0x40
    else BitVec.ofNat 32 (e.1.v.toNat * 256) ||| (if aes ∧ e.1.vbit then 0x40 else 0)

/-- AES_PARITY: every substitution is counted, the first of an input in each Ell is logged. -/
def noteParity (p n : Nat) (s : State) : State :=
  if n = 0 then s
  else
    let s := s.bumpBy (baseHP + 0x228) n
    if (s.lport p).parEll = s.ell + 1 then s
    else lpEvent 5 [p] (s.setLport p { s.lport p with parEll := s.ell + 1 })

/-- MADI ports that repeat this port's input in Recovery (R398). -/
def passThrough (p : Nat) (f : List Word) (s : State) : State :=
  if ¬ s.sup.passThru then s
  else
    (recsOf s.cfg.recs tyLOCAL).foldl (fun s e =>
      if isMadi e.1 ∧ isMadi p ∧ lpPass e.2 = p then s.setLport e.1 { s.lport e.1 with sent := f.map fun w => [w] } else s) s

/-- LOCAL_FRAME (R438, R439). -/
def execLocalFrame (t : Gts) (port : Byte) (samples : List LocalSample) (cs : Option (List Byte)) :
    State → Host.Outcome State Fault Refusal :=
  act t fun s =>
    let p := port.toNat
    match s.recNow tyLOCAL p with
    | none => s
    | some b =>
      let x := s.lport p
      if ¬ isAudio p ∨ isAesOut p ∨ lpMode b = 0 ∨ x.loopback then s
      else
        let aes := isAesIn p
        let f := (frameConts x aes samples).take (lpChans b)
        let bad := if aes then ((samples.take (lpChans b)).filter (·.parityBad)).length else 0
        let gap := decide (8000000000 ≤ (s.now - x.lastFrame) * lpHz b)
        let run := if gap then 1 else x.run + 1
        let s := s.setLport p { x with
          run := run, lastFrame := s.now, last := f, cs := if aes then cs.getD x.cs else x.cs }
        let s := noteParity p bad s
        let s :=
          if x.locked then (if lpMode b = 1 then fifoPut p b f s else ratePush p f s)
          else if 64 ≤ run then
            let s := s.setLport p { s.lport p with locked := true, fifo := [f], idx := nearSample s b + 1 }
            rateSinkBack p (lpEvent 1 [p] s)
          else s
        passThrough p f s

/-- LP_UNLOCK (R438): no valid frame for two frame periods. -/
def execLpUnlock (t : Gts) (port : Byte) : State → Host.Outcome State Fault Refusal :=
  act t fun s =>
    let p := port.toNat
    match s.recNow tyLOCAL p with
    | none => s
    | some b =>
      let x := s.lport p
      if x.locked ∧ 8000000000 ≤ (s.now - x.lastFrame) * lpHz b then
        rateLost p (lpEvent 2 [p] (s.setLport p { x with locked := false, run := 0, fifo := [] }))
      else s

/-- One synchronous input at the playout for data Ell `n` (R18, R438): an unlocked port plays zero with `c`. -/
def playPort (n p : Nat) (b : List Byte) (s : State) : State :=
  let x := s.lport p
  let f := kRate (lpRate b)
  let base := x.idx - x.fifo.length
  let cont (ch j : Nat) : Nat :=
    let i := f * n + j - f
    if ¬ x.locked ∨ i < base then flagC
    else
      match x.fifo[i - base]? with
      | some w => (w.getD ch 0).toNat
      | none => (x.last.getD ch 0 ||| 0x40).toNat
  let s := (List.range (lpChans b)).foldl (fun s ch =>
    chanWrite n (lpIn b) ch (lpRate b) ((List.range f).map (cont ch)) s) s
  s.setLport p { s.lport p with fifo := x.fifo.drop (f * n - base) }

/-! ## Host slots (R441, R442) -/

/-- Copying the words of a run of host slots as data Ell `n`, each slot whole. -/
def copyHost (n : Nat) (b : List Byte) (win : Tbl Word) (s : State) : State :=
  (List.range (hsCount b)).foldl (fun s i =>
    let slot := hsFirst b + i
    let ws := (List.range 6).map fun j => (tget 0 win (8 * slot + j) &&& 0xFFFFFF7F).toNat
    (putSlotWords n slot ws s).setMark n slot 0) s

/-- Words that stay in a window after a copy: none of the slots copied, unless `hold` is set. -/
def keepHost (b : List Byte) (win : Tbl Word) : Tbl Word :=
  if hsHold b then win else tdrop win fun k => decide (hsFirst b ≤ k / 8) && decide (k / 8 < hsFirst b + hsCount b)

/-- The copies of a playout tick: input slots for data Ell `n`, stage-2 slots for the data Ell before it. -/
def hostSlots (n : Nat) (s : State) : State :=
  let s :=
    match s.recAt n tyLOCAL 0x31 with
    | none => s
    | some b =>
      let s := copyHost n b s.host.slotIn s
      s.updHost fun h => { h with slotIn := keepHost b h.slotIn }
  match (if n = 0 then none else s.recAt (n - 1) tyLOCAL 0x32) with
  | none => s
  | some b =>
    let s := copyHost (n - 1) b s.host.slotInt s
    s.updHost fun h => { h with slotInt := keepHost b h.slotInt }

/-! ## Coded slots (R254-R256, R435) -/

/-- The codec of a coded slot, from the parameter blocks of the library task that uses it (R249-R251, R262): kind, F, phase. -/
def codecOf (s : State) (slot : Nat) : Option (Nat × Nat × Nat) :=
  (recsOf s.cfg.recs tyTASK).findSome? fun e =>
    let (t, b) := e
    if bit (tkFlags b) 2 ∧ (namedSlots s.cfg.recs t).contains slot then
      let h := tkHolm b
      let w (i : Nat) : Nat := memWord s h (tkBase b + i) / 256
      let code := fld (w 0) 23 16
      let ch := (List.range (w 1 % 64)).find? fun i => w (64 + i * codecWords code + 1) == slot
      match ch with
      | none => none
      | some i =>
        let kind :=
          if code = 0x10 ∨ code = 0x11 then 1 + w (64 + i * 256 + 2) % 2
          else if code = 0x12 ∨ code = 0x13 then 3 else if code = 0x14 ∨ code = 0x15 then 4 else 0
        if kind ≠ 0 ∧ (w 2 = 80 ∨ w 2 = 160) ∧ w 3 < w 2 then some (kind, w 2, w 3) else none
    else none

/-- The coded ring map in force. -/
def codedNow (s : State) : List (Nat × Nat) := ((s.recNow tyLOCAL 0x40).map codedMap).getD []

/-- Writing the coded input slots of data Ell `n`. -/
def playCoded (n : Nat) (s : State) : State :=
  (codedNow s).foldl (fun s e =>
    let (ring, slot) := e
    if ring < 8 then s
    else
      let put (vs : List Nat) (s : State) : State := (putSlotWords n slot (vs.map (· * 256)) s).setMark n slot 0
      match codecOf s slot with
      | none => put (List.replicate 6 0) s
      | some (kind, f, _) =>
        let held := tget [] s.host.coded slot
        let s := s.updHost fun h => { h with coded := tset [] h.coded slot (held.filter fun x => decide (n + 1 < x.first + f)) }
        match held.find? fun x => decide (x.first ≤ n) && decide (n < x.first + f) with
        | some x => put (codedConts kind f (n - x.first) x) s
        | none => put (List.replicate 6 0) s) s

/-- One Ell of a coded output slot is read (R435). An Ell that carries `c` spoils its frame. -/
def codedStep (m : Nat) (f : Option Nat) (ws : List Nat) (x : CodedOut) : CodedOut :=
  let w0 := ws.getD 0 0
  let bad := bit w0 6
  let c0 := w0 / 256
  let fs := !bad && bit c0 19
  let done (y : CodedFrame) (x : CodedOut) : CodedOut := { x with cur := none, ready := x.ready ++ [y] }
  let ended (y : CodedFrame) (x : CodedOut) : CodedOut :=
    if !bad && bit c0 16 then done y x
    else
      match f with
      | some k => if m + 1 = y.first + k then done { y with err := true } x else { x with cur := some y }
      | none => { x with cur := some y }
  if fs then
    let x := match x.cur with | some y => done { y with err := true } x | none => x
    let y : CodedFrame := { first := m, data := codedBytes ws, lost := bit c0 18, fec := bit c0 17 }
    if y.lost then done { y with data := [] } x else ended y x
  else
    match x.cur with
    | none => x
    | some y => ended { y with data := if bad then y.data else y.data ++ codedBytes ws, err := y.err || bad } x

/-- The coded output slots of data Ell `m` are read. -/
def readCoded (m : Nat) (s : State) : State :=
  (codedNow s).foldl (fun s e =>
    let (ring, slot) := e
    if 8 ≤ ring then s
    else
      let x := codedStep m ((codecOf s slot).map (·.2.1)) (slotRead s m slot) (tget {} s.host.codedOut slot)
      s.updHost fun h => { h with codedOut := tset {} h.codedOut slot x }) s

/-! ## GPIO (R440) -/

/-- Sampling one input at E_n: a change is accepted after `deb` samples. -/
def gpioPin (b : List Byte) (pins : Nat) (a : HostP × Nat) (i : Nat) : HostP × Nat :=
  let (h, changed) := a
  if bit (gpDir b) i then a
  else
    let lvl := bit pins i
    let old := h.gpioIn.getLsbD i
    let n := if lvl = old then 0 else (tget (0, 0) h.gpioRun i).2 + 1
    if gpDeb b ≤ n then
      ({ h with gpioIn := h.gpioIn ^^^ BitVec.ofNat 32 (2 ^ i), gpioRun := tset (0, 0) h.gpioRun i (0, 0) }, changed + 2 ^ i)
    else ({ h with gpioRun := tset (0, 0) h.gpioRun i (if n = 0 then (0, 0) else (b2n lvl, n)) }, changed)

/-- GPIO at E_n: inputs are sampled, slot-driven outputs follow data Ell n − 2. -/
def gpioTick (n pins : Nat) (s : State) : State :=
  match s.recNow tyLOCAL 0x30 with
  | none => s
  | some b =>
    let (h, changed) := (List.range 32).foldl (gpioPin b pins) (s.host, 0)
    let s := s.updHost fun _ => h
    let s := if changed = 0 then s else lpEvent 4 [changed] s
    if gpOut b = 0xFFFF ∨ n < 2 ∨ ¬ s.audioOn then s
    else
      let ws := slotRead s (n - 2) (gpOut b)
      { s with gpioPins := BitVec.ofNat 32 (ws.getD 0 0 / 256 + ws.getD 1 0 / 256 % 256 * 2 ^ 24) }

/-- Levels of the outputs: slot-driven ones, and the rest from HP_GPIO_OUT. -/
def gpioLevels (s : State) : Nat :=
  match s.recNow tyLOCAL 0x30 with
  | none => 0
  | some b =>
    let drive := if gpOut b = 0xFFFF then 0 else gpDrive b
    gpDir b &&& ((s.gpioPins.toNat &&& drive) ||| (s.reg (baseHP + 4) &&& (0xFFFFFFFF ^^^ drive)))

/-- The accepted input states in their slot. -/
def gpioSlot (n : Nat) (b : List Byte) (s : State) : State :=
  if gpIn b = 0xFFFF then s
  else
    let g := s.host.gpioIn.toNat
    (putSlotWords n (gpIn b) [g % 2 ^ 24 * 256, g / 2 ^ 24 * 256, 0, 0, 0, 0] s).setMark n (gpIn b) 0

/-! ## The ticks -/

/-- The local ports at the playout tick for data Ell `n`. -/
def localPlayout (n : Nat) (s : State) : State :=
  let s := (recsOf (s.recsAt n) tyLOCAL).foldl (fun s e =>
    if isAudio e.1 then (if lpMode e.2 = 1 ∧ lpIn e.2 ≠ 0xFFFF then playPort n e.1 e.2 s else s)
    else if e.1 = 0x30 then gpioSlot n e.2 s
    else s) s
  hostSlots n (playCoded n s)

/-- What a local output sends in the Ell that begins at E_n: output data Ell n − 2, silence in Calibrate (R390). -/
def sendPort (n p : Nat) (b : List Byte) (s : State) : State :=
  let chan (ch : Nat) : List Word :=
    if s.runMode = .calibrate then List.replicate (kRate (lpRate b)) 0
    else if lpMode b = 1 then
      if lpOut b = 0xFFFF then []
      else (chanRead s (n - 2) (lpOut b) ch (lpRate b)).map (BitVec.ofNat 32)
    else
      ((recsOf s.cfg.recs tyRATE).findSome? fun e =>
        let o := raOutFirst e.2
        let code := if isAesOut p then p - 8 else p
        if raKind e.2 = 2 ∧ o / 256 = code ∧ o % 256 ≤ ch ∧ ch < o % 256 + raCh e.2 then
          some (tget [] (s.rate e.1).sink (ch - o % 256))
        else none).getD []
  if s.sup.passThru ∧ isMadi p ∧ isMadi (lpPass b) then s
  else s.setLport p { s.lport p with sent := (List.range (lpChans b)).map chan }

/-- The local ports at E_n: outputs, GPIO and coded outputs. -/
def localTick (n pins : Nat) (s : State) : State :=
  let s := gpioTick n pins s
  if ¬ s.audioOn ∨ n < 2 then s
  else
    let s := (recsOf (s.recsAt (n - 2)) tyLOCAL).foldl (fun s e =>
      if isAudio e.1 ∧ ¬ isAesIn e.1 ∧ lpMode e.2 ≠ 0 then sendPort n e.1 e.2 s else s) s
    readCoded (n - 2) s

end Sys2Proof.Machine
end

