-- ==== Sys2Proof/Machine/HostPort.lean ====
section
/-! DEFINITION. The host port, [19]: DMA rings, coded rings, Test-mode operations. -/

namespace Sys2Proof.Machine

/-! ## Rings (R430, R447) -/

def ringReg (r o : Nat) : Nat := baseHP + 0x1000 + 0x40 * r + o
def ringOn (s : State) (r : Nat) : Bool := s.rfld (ringReg r 8) 31 31 == 1
def ringCoded (s : State) (r : Nat) : Bool := s.rfld (ringReg r 8) 30 30 == 1
def ringLog (s : State) (r : Nat) : Nat := s.rfld (ringReg r 8) 27 24
def ringQueue (s : State) (r : Nat) : Nat := s.rfld (ringReg r 8) 22 16
def ringN (s : State) (r : Nat) : Nat := max 1 (s.rfld (ringReg r 8) 15 8)
def ringUs (s : State) (r : Nat) : Nat := s.rfld (ringReg r 8) 7 0

/-- Modulus of HEAD and TAIL. -/
def ringMod (s : State) (r : Nat) : Nat := 2 ^ (ringLog s r + 1)

namespace State
def ring (s : State) (r : Nat) : Ring := tget {} s.host.rings r
def setRing (s : State) (r : Nat) (x : Ring) : State := s.updHost fun h => { h with rings := tset {} h.rings r x }
end State

/-- Descriptors that the device owns, less those of an open chain. -/
def owned (s : State) (r : Nat) : Nat :=
  (s.ring r).tail % ringMod s r + ringMod s r - (s.ring r).head % ringMod s r - (s.ring r).chainDescs.length
    |> (· % ringMod s r)

/-- An event of the host port (R446). -/
def hpEvent (v : Nat) (d : List Nat) (s : State) : State := s.raise 13 (0xD00 + v) d

/-- Whether a mode lets the endpoint work (R386). -/
def hostUp (s : State) : Bool := s.sup.mode != .off && s.sup.mode != .standby && s.sup.mode != .lockdown && s.sup.mode != .boot

/-- TAIL_WRITE (R430): an overflow is ignored with RING_ERR. -/
def opTail (m : Master) (r v : Nat) : State → State :=
  guardWrite m (ringReg r 0xC) fun s =>
    let x := s.ring r
    let idx := v % 8192
    let n := (idx % ringMod s r + ringMod s r - x.head % ringMod s r) % ringMod s r
    if 2 ^ ringLog s r < n then hpEvent 2 [r, 0] s else s.setRing r { x with tail := idx }

def execTailWrite (t : Gts) (m : Master) (ring : Fin 16) (v : Word) : State → Host.Outcome State Fault Refusal :=
  act t (opTail m ring.val v.toNat)

/-- A completed descriptor (R431). -/
def writeBack (gts len flen slot flags code : Nat) : List Byte :=
  toLe 8 gts ++ toLe 4 len ++ toLe 4 flen ++ toLe 2 slot ++ toLe 2 flags ++ toLe 8 0 ++ toLe 4 (2 ^ 31 + code)

/-- Write-backs in ring order: HEAD advances past all of them in one step (R432, R434). -/
def finishDescs (r : Nat) (ds : List (List Byte)) (data : List Byte) (s : State) : State :=
  let x := s.ring r
  s.setRing r { x with
    head := (x.head + ds.length) % ringMod s r
    wb := x.wb + ds.length
    wbFrom := if x.wb = 0 then s.now + 1 else x.wbFrom
    dmaOut := ds
    dmaData := data }

/-- RING_SIGNAL (R434): `coal_n` write-backs, or `coal_us` after the first of them. -/
def execRingSignal (t : Gts) (ring : Fin 16) : State → Host.Outcome State Fault Refusal :=
  act t fun s =>
    let r := ring.val
    let x := s.ring r
    if x.wb ≠ 0 ∧ (ringN s r ≤ x.wb ∨ x.wbFrom - 1 + ringUs s r * 4000 ≤ s.now) then
      (s.setRing r { x with wb := 0, wbFrom := 0 }).signal r
    else s

/-! ## Receive packet rings (R432, R433) -/

/-- The bytes that each of some buffers takes. -/
def fillBufs : List Nat → List Byte → List (List Byte)
  | [], _ => []
  | c :: cs, data => if data = [] then [] else data.take c :: fillBufs cs (data.drop c)

/-- RX_RING_DELIVER. A ring bound to a queue of another consumer is refused as R124 says. -/
def execRxRingDeliver (t : Gts) (ring : Fin 16) (descs : List Desc) : State → Host.Outcome State Fault Refusal :=
  act t fun s =>
    let r := ring.val
    let q := ringQueue s r
    let n := min (owned s r) descs.length
    if 8 ≤ r ∨ ¬ hostUp s ∨ ¬ ringOn s r ∨ ringCoded s r ∨ n = 0 then s
    else
      match qPopNow 13 q s with
      | (none, s) => s
      | (some it, s) =>
        let data := it.data
        let caps := (descs.take n).map fun d => d.len.toNat
        let bufs := match fillBufs caps data with | [] => [[]] | l => l
        let put := (bufs.map List.length).sum
        let trunc := decide (put < data.length)
        let last := bufs.length - 1
        let ds := (bufs.zipIdx).map fun e =>
          let flags := b2n (e.2 = 0) + b2n (e.2 = last) * 2 + b2n it.err * 16 + b2n it.drp * 32
            + b2n (trunc ∧ e.2 = last) * 64 + it.tclass * 256
          writeBack it.gts e.1.length (if e.2 = last then data.length else 0) it.src flags (b2n (trunc ∧ e.2 = last))
        let s := (finishDescs r ds (data.take put) s).bump (baseHP + 0x200)
        if trunc then
          hpEvent 1 [r, data.length] ((s.bump (baseHP + 0x204)).bumpBy (baseHP + 0x208) (data.length - put))
        else s

/-! ## Transmit packet rings (R434) -/

/-- Posted flags as they are returned: `sof`, `eof`, `lost`, `fec`, and the class. -/
def backFlags (d : Desc) : Nat := d.flags.toNat % 16 + fld d.flags.toNat 7 5 * 256

/-- Descriptors returned with one code, the last with another. -/
def backDescs (s : State) (ds : List Desc) (code : Nat) : List (List Byte) :=
  (ds.zipIdx).map fun e =>
    writeBack s.now e.1.len.toNat 0 0 (backFlags e.1) (if e.2 + 1 = ds.length then code else 0)

/-- A chain that the queue cannot take yet waits. -/
def chainStalls (s : State) (q : Nat) (d : List Byte) : Bool :=
  let x := s.queue q
  qBusy x || (!qLossy d && qOcc d x == qSlots d)

/-- TX_RING_PUSH: descriptors of a chain are read; the item completes with the descriptor that carries `eof`. A ring bound to a queue
of another producer is refused as R124 says. -/
def execTxRingPush (t : Gts) (ring : Fin 16) (descs : List Desc) (data : List Byte) :
    State → Host.Outcome State Fault Refusal :=
  act t fun s =>
    let r := ring.val
    let q := ringQueue s r
    let x := s.ring r
    match qDesc s q with
    | none => s
    | some d =>
      let s := qWrite q d (s.queue q).coming s
      if r < 8 ∨ ¬ hostUp s ∨ (¬ ringOn s r ∧ x.chain.isNone) ∨ ringCoded s r ∨ descs = [] ∨ owned s r < descs.length then s
      else if qProd d ≠ 13 then qRogue q 13 0 s
      else
        let sof := (descs.head?.map fun e => e.flags.getLsbD 0).getD false
        if x.chain.isNone ∧ ¬ sof then hpEvent 2 [r, 1] (finishDescs r (backDescs s descs 4) [] s)
        else if x.chain.isNone ∧ chainStalls s q d then s
        else
          let first : Item :=
            { src := 13, tclass := (descs.head?.map fun e => fld e.flags.toNat 7 5).getD 0, gts := s.now }
          let it := x.chain.getD first
          let bytes := it.data ++ data
          let it := { it with data := bytes.take (qCap d), err := it.err || descs.any fun e => e.flags.getLsbD 4 }
          let overOn := x.overOn || decide (qCap d < bytes.length)
          let all := x.chainDescs ++ descs
          let s := if x.chain.isNone then qPush q d it false [] s else s
          let s := s.updQueue q fun y => { y with push := y.push.map fun _ => it, lastByte := s.now }
          if ¬ descs.any fun e => e.flags.getLsbD 1 then
            s.setRing r { x with chain := some it, chainDescs := all, overOn := overOn }
          else
            let s :=
              if (s.queue q).push.isSome then qStore q d { it with err := it.err || overOn } s
              else s.updQueue q fun y => { y with pushDead := false, flushPush := false }
            let s := s.setRing r { x with chain := none, chainDescs := [], overOn := false }
            let s := (finishDescs r (backDescs s all (if overOn then 2 else 0)) [] s).bump (baseHP + 0x20C)
            if overOn then s.bump (baseHP + 0x210) else s

/-! ## Coded rings (R435) -/

/-- The Ell count nearest the present one whose low 32 bits are given. -/
def extendEll (s : State) (low : Nat) : Nat :=
  let now := s.ell % 2 ^ 48
  let base := now / 2 ^ 32 * 2 ^ 32 + low
  if base + 2 ^ 31 < now then base + 2 ^ 32 else if now + 2 ^ 31 < base ∧ 2 ^ 32 ≤ base then base - 2 ^ 32 else base

/-- CODED_PLACE. -/
def execCodedPlace (t : Gts) (ring : Fin 16) (desc : Desc) (data : List Byte) : State → Host.Outcome State Fault Refusal :=
  act t fun s =>
    let r := ring.val
    let slot := desc.slot.toNat
    let held := tget [] s.host.coded slot
    if r < 8 ∨ ¬ hostUp s ∨ ¬ ringOn s r ∨ ¬ ringCoded s r ∨ owned s r = 0 ∨ 4 ≤ held.length then s
    else
      let e := extendEll s desc.ell.toNat
      let lost := desc.flags.getLsbD 2
      let fec := desc.flags.getLsbD 3
      let bytes := if lost then [] else data.take desc.len.toNat
      let back (late : Nat) (code : Nat) (s : State) : State :=
        finishDescs r [writeBack s.now bytes.length 0 0 (backFlags desc + late * 128) code] [] s
      let ok : Bool :=
        match codecOf s slot with
        | none => false
        | some (kind, f, phase) =>
          (codedNow s).contains (r, slot) && e % f == phase && !(held.any fun x => x.first == e) &&
            (lost || (if kind = 4 then decide (1 ≤ desc.len.toNat) && decide (desc.len.toNat ≤ min 1275 (15 * f))
                      else desc.len.toNat == f)) &&
            (!fec || kind == 4)
      if ¬ ok then hpEvent 2 [r, 1] (back 0 4 s)
      else if s.startOf e ≤ s.now + 40000 then
        let s := (back 1 3 s).bump (baseHP + 0x214)
        if tget 0 s.host.codedEll slot = s.ell + 1 then s
        else hpEvent 4 [slot, s.ell % 2 ^ 32] (s.updHost fun h => { h with codedEll := tset 0 h.codedEll slot (s.ell + 1) })
      else
        back 0 0 (s.updHost fun h => { h with
          coded := tset [] h.coded slot (held ++ [{ first := e, data := bytes, lost := lost, fec := fec }]) })

/-- CODED_DELIVER. -/
def execCodedDeliver (t : Gts) (ring : Fin 16) (slot : BitVec 14) (desc : Desc) : State → Host.Outcome State Fault Refusal :=
  act t fun s =>
    let r := ring.val
    let v := slot.toNat
    let x := tget {} s.host.codedOut v
    if 8 ≤ r ∨ ¬ hostUp s ∨ ¬ ringOn s r ∨ ¬ ringCoded s r ∨ owned s r = 0 ∨ ¬ (codedNow s).contains (r, v) then s
    else
      match x.ready with
      | [] => s
      | f :: rest =>
        let put := f.data.take desc.len.toNat
        let flags := 3 + b2n f.lost * 4 + b2n f.fec * 8 + b2n f.err * 16
        let s := s.updHost fun h => { h with codedOut := tset {} h.codedOut v { x with ready := rest } }
        finishDescs r [writeBack (f.first % 2 ^ 48) put.length f.data.length v flags 0] put s

/-- Code of a failed DMA access in the detail of DMA_ERR. -/
def dmaCode : DmaStatus → Nat
  | .ur => 0 | .ca => 1 | .timeout => 2

/-- DMA_ERR (R436): the ring is disabled. -/
def execDmaErr (t : Gts) (ring : Fin 16) (status : DmaStatus) : State → Host.Outcome State Fault Refusal :=
  act t fun s =>
    let r := ring.val
    if ¬ ringOn s r then s
    else
      let s := s.setReg (ringReg r 8) (s.reg (ringReg r 8) % 2 ^ 31)
      (hpEvent 3 [r, dmaCode status] s).bump (baseHP + 0x218)

/-! ## Test mode (R445) -/

/-- HP_TEST_RESULT. -/
def testResult (r item : Nat) (s : State) : State := s.updHost fun h => { h with testResult := r, testItem := item }

/-- Memories whose contents a BIST of the SRAM arrays loses: they read again as memory that nothing has written (log 3). -/
def loseMemories (s : State) : State :=
  { s with
    em := {}
    ha := { s.ha with mem := [], prog := [] }
    mf := { s.mf with coef := [], lost := [] }
    se := { s.se with rx := tmap {} s.se.rx fun x => { x with ring := [] } }
    ce := { s.ce with ctxs := [], sas := [], saves := [] }
    queues := []
    staging := []
    rc := { s.rc with insts := [], scan := [], results := [] } }

/-- An operation of HP_TEST. -/
def opTest (m : Master) (op arg : Nat) : State → State :=
  guardWrite m (baseHP + 0x10) fun s =>
    if op = 0 ∨ 6 < op then s
    else if s.sup.mode ≠ .test then testResult 2 0 s
    else if s.host.testOp ≠ 0 then testResult 3 0 s
    else
      let start (s : State) : State := testResult 4 0 (s.updHost fun h => { h with testOp := op })
      match op with
      | 1 => start (loseMemories s)
      | 4 => testResult 0 0 (s.updPort (arg % 4) fun x => { x with loopback := true })
      | 5 =>
        testResult 0 0 ((recsOf s.cfg.recs tyLOCAL).foldl (fun s e =>
          if isAudio e.1 then s.setLport e.1 { s.lport e.1 with loopback := true } else s) s)
      | 6 =>
        let s := [0, 1, 2, 3].foldl (fun s p => s.updPort p fun x => { x with loopback := false }) s
        testResult 0 0 (s.host.ports.foldl (fun s e => s.setLport e.1 { s.lport e.1 with loopback := false }) s)
      | _ => start s

def execBistSram (t : Gts) (m : Master) : State → Host.Outcome State Fault Refusal := act t (opTest m 1 0)
def execBistLanes (t : Gts) (m : Master) : State → Host.Outcome State Fault Refusal := act t (opTest m 2 0)
def execBistCore (t : Gts) (m : Master) (arg : Byte) : State → Host.Outcome State Fault Refusal := act t (opTest m 3 arg.toNat)
def execPcsLoopback (t : Gts) (m : Master) (arg : Byte) : State → Host.Outcome State Fault Refusal :=
  act t (opTest m 4 arg.toNat)
def execLocalLoopback (t : Gts) (m : Master) : State → Host.Outcome State Fault Refusal := act t (opTest m 5 0)
def execEndLoopbacks (t : Gts) (m : Master) : State → Host.Outcome State Fault Refusal := act t (opTest m 6 0)

/-- Lanes of a block that are retired, lowest first (R354). -/
def retiredOf (s : State) (block : Nat) : List Nat :=
  let bits (w : Nat) : List Nat := (List.range 16).filter fun i => bit w i
  match block with
  | 7 => bits s.sup.ceRetired
  | 8 => bits s.sup.czRetired
  | 9 => if s.sup.rcSpare = 0 then [] else [0]
  | 10 => if s.sup.scSpare = 0 then [] else [0]
  | 11 => if s.sup.mfSpare = 0 then [] else [0]
  | _ => []

/-- The BIST of lanes and units that Boot runs (R393): what passes is returned, the failing block is retired again. -/
def bootBist (pass : Bool) (item : Nat) (s : State) : State :=
  let keep (b n : Nat) : Nat := if ¬ pass ∧ item = b then n else 0
  let lanes := if pass then [] else retiredOf s item
  let s := s.updSup fun u => { u with
    ceRetired := keep 7 u.ceRetired, czRetired := keep 8 u.czRetired, rcSpare := keep 9 u.rcSpare
    scSpare := keep 10 u.scSpare, mfSpare := keep 11 u.mfSpare }
  lanes.foldl (fun s l => (s.raiseSv 0x47 [item, l, b2n (9 ≤ item)]).bump (baseSV + 0x720)) s

/-- TEST_DONE: a BIST of Test mode ends, or the one that Boot runs after a reset. -/
def execTestDone (t : Gts) (pass : Bool) (item : Byte) : State → Host.Outcome State Fault Refusal :=
  act t fun s =>
    if s.sup.mode = .boot then bootBist pass item.toNat s
    else if s.host.testOp = 0 then s
    else testResult (b2n !pass) (if pass then 0 else item.toNat) (s.updHost fun h => { h with testOp := 0 })

end Sys2Proof.Machine
end

