-- ==== Sys2Proof/Machine/Verify.lean ====
section
/-! DEFINITION. What verification checks of a structure, [02]: the layout and ranges of every record type, and the limits
that several records break together. A violation is the list of the records that it concerns (R51). -/

namespace Sys2Proof.Machine

/-! ## Layouts (R41, R461, R462) -/

/-- DEVICE (R462). -/
def formDEVICE (b : List Byte) : Bool :=
  b.length == 64 && allZero (slice b 0x1C 36) && (List.range 64).all fun j => byteAt b (0xC + j / 4) / 4 ^ (j % 4) % 4 != 3

/-- Whether a register image has only bits that its registers store. -/
def imageOk (base : Nat) (b : List Byte) : Bool :=
  ((wordsOf b).zipIdx).all fun e =>
    let d := regDef (base + 4 * e.2)
    e.1 &&& (d.rw ||| d.rwl) == e.1

/-- PORT: the image of offsets 0x0000-0x00BF (R84). -/
def formPORT (b : List Byte) : Bool := b.length == 192 && imageOk (baseNP 0) b

/-- POLICY: the image of offsets 0x0800-0x081F (R372). -/
def formPOLICY (b : List Byte) : Bool := b.length == 32 && imageOk (baseSV + 0x800) b

/-- TASK (R43). -/
def formTASK (b : List Byte) : Bool :=
  b.length == 32 && (tkStage b == 1 || tkStage b == 2) && decide (tkClass b < 3) && decide (tkFlags b < 8) && u32 b 0x1C == 0

/-- DEPEND: a list of 16-bit task numbers. -/
def formDEPEND (b : List Byte) : Bool := b.length % 2 == 0

/-- SLOTUSE (R44). -/
def formSLOTUSE (b : List Byte) : Bool :=
  b.length % 4 == 0 && (slotEntries b).all fun e => fld e 29 14 == 0 && (bit e 31 || bit e 30)

/-- PROGRAM and DATA: word address, length in words, then the words (log 28). -/
def formIMAGE (b : List Byte) : Bool := decide (8 ≤ b.length) && b.length == 8 + 4 * u32 b 4

/-- FIREWALL (R358). -/
def formFIREWALL (b : List Byte) : Bool :=
  b.length == 16 && decide (byteAt b 8 < 8) && decide (byteAt b 9 < 4) && allZero (slice b 0xA 6)

/-- Objects of each type (R42); a LOCAL object is judged with its body. -/
def objLimit (ty : Nat) : Option Nat :=
  if ty = tyDEVICE ∨ ty = tyPOLICY ∨ ty = tyADMIT ∨ ty = tyEND then some 1
  else if ty = tyPORT ∨ ty = tyGATE then some 4
  else if ty = tyPTP ∨ ty = tyCOEF then some 2
  else if ty = tyRX ∨ ty = tyTX then some 1024
  else if ty = tyDIRECT ∨ ty = tyRATE ∨ ty = tyFIREWALL then some 256
  else if ty = tyQUEUE then some 96
  else if ty = tyCIPHER ∨ ty = tyCZCTX then some 2048
  else if ty = tyPROGRAM ∨ ty = tyDATA then some 16
  else if ty = tyTASK ∨ ty = tyDEPEND ∨ ty = tySLOTUSE ∨ ty = tyBUS then some 4096
  else if ty = tySCANSET then some 8
  else if ty = tyLOCAL then some 0x41
  else none

/-- Objects that a LOCAL record may name (R437). -/
def localObj (obj : Nat) : Bool := isAudio obj || obj == 0x30 || obj == 0x31 || obj == 0x32 || obj == 0x40

/-- Whether a type defines an object. -/
def objOk (ty obj : Nat) : Bool :=
  ((objLimit ty).map fun n => decide (obj < n)).getD false && (ty != tyLOCAL || localObj obj)

/-- Layout of a body (R461). Of ADMIT only the length is layout: R46 gives ADMISSION for any byte that differs, so a nonzero
zero byte or an undefined stage code of an entry is ADMISSION and not FORM (DEDUCED, log 28). -/
def formRec (ty obj : Nat) (b : List Byte) : Bool :=
  if ty = tyDEVICE then formDEVICE b
  else if ty = tyPORT then formPORT b
  else if ty = tyGATE then formGATE b
  else if ty = tyPTP then formPTP b
  else if ty = tyRX then formRX b
  else if ty = tyTX then formTX b
  else if ty = tyDIRECT then formDIRECT b
  else if ty = tyQUEUE then formQUEUE b
  else if ty = tyCIPHER then formCIPHER b
  else if ty = tyCZCTX then formCZCTX b
  else if ty = tyPROGRAM ∨ ty = tyDATA then formIMAGE b
  else if ty = tyTASK then formTASK b
  else if ty = tyDEPEND then formDEPEND b
  else if ty = tySLOTUSE then formSLOTUSE b
  else if ty = tyRATE then formRATE b
  else if ty = tySCANSET then formSCANSET b
  else if ty = tyBUS then formBUS b
  else if ty = tyCOEF then formCOEF b
  else if ty = tyLOCAL then formLOCAL obj b
  else if ty = tyFIREWALL then formFIREWALL b
  else if ty = tyPOLICY then formPOLICY b
  else if ty = tyADMIT then b.length == 1024
  else if ty = tyEND then b.length == 64
  else false

/-! ## Ranges of one record (R461 and the owning chapters) -/

/-- PORT: `max_len`, queue numbers. -/
def limitPORT (b : List Byte) : Bool :=
  let q := u32 b 0x3C
  decide (64 ≤ u32 b 0x40) && decide (u32 b 0x40 ≤ 9600) &&
    [q % 128, q / 256 % 128, q / 65536 % 128].all fun n => decide (n < 96) || n == 127

/-- GATE. -/
def limitGATE (b : List Byte) : Bool := decide (gEntries b ≤ 256)

/-- QUEUE: R121 and the rules of R122 on one record. -/
def limitQUEUE (b : List Byte) : Bool :=
  let src (v : Nat) : Bool := decide (v < 18) || (decide (32 ≤ v) && decide (v < 128))
  u32 b 0 % 64 == 0 && decide (1 ≤ qA b) && decide (qA b ≤ 12) && decide (2 ≤ byteAt b 5) && decide (byteAt b 5 ≤ 151) &&
    decide (u32 b 0 + qSlots b * 64 * byteAt b 5 ≤ 8388608) && src (qProd b) && src (qCons b) && qProd b != qCons b &&
    (decide (4 ≤ qProd b) || qLossy b) &&
    (!qPfc b || (qCons b == 13 && decide (qLo b < qHi b) && decide (qHi b ≤ qSlots b))) && decide (1 ≤ qQuanta b) &&
    (!(qProd b == 8 || qCons b == 8) || (!qLossy b && qIdle b == 0 && qCt b == 0))

/-- CIPHER. -/
def limitCIPHER (b : List Byte) : Bool := decide (ceMkiLen b ≤ 4) && decide (ceStream b < 1024)

/-- TASK: R43, and the state region of R51. -/
def limitTASK (b : List Byte) : Bool :=
  decide (tkHolm b < 16) && decide (tkCore b < 4) && decide (1 ≤ tkFoot b) && decide (tkFoot b ≤ 65536) &&
    decide (tkBase b + tkLen b ≤ 0x180000)

/-- FIREWALL (R358). -/
def limitFIREWALL (b : List Byte) : Bool := u32 b 0 % 4 == 0 && decide (u32 b 0 < u32 b 4) && decide (u32 b 4 ≤ 0x1000000)

/-- POLICY (R372). -/
def limitPOLICY (b : List Byte) : Bool :=
  let w (i : Nat) : Nat := u32 b (4 * i)
  let lower := fld (w 0) 31 16
  let vmin := fld (w 1) 9 0
  let vmax := fld (w 1) 25 16
  let settle := fld (w 2) 31 16
  let down := fld (w 2) 15 8
  let up := fld (w 2) 7 0
  let hyst := fld (w 3) 31 24
  let trip := fld (w 3) 23 16
  let shed := fld (w 3) 15 8
  let warn := fld (w 3) 7 0
  decide (4097 ≤ lower) && decide (lower ≤ 8191) && decide (4096 ≤ fld (w 0) 15 0) && decide (fld (w 0) 15 0 < lower) &&
    decide (600 ≤ vmin) && decide (vmin ≤ vmax) && decide (vmax ≤ 800) &&
    decide (50 ≤ settle) && decide (settle ≤ 10000) && decide (1 ≤ down) && decide (down ≤ 20) && decide (1 ≤ up) && decide (up ≤ 50) &&
    decide (1 ≤ hyst) && decide (hyst ≤ 20) && decide (shed ≤ trip) && decide (trip ≤ 125) && decide (warn ≤ shed) &&
    decide (shed ≤ 124) && decide (60 ≤ warn) && decide (warn ≤ 105) &&
    decide (800 ≤ fld (w 4) 15 0) && decide (1 ≤ fld (w 5) 31 24)

/-- The ranges of one body. -/
def limitRec (ty obj : Nat) (b : List Byte) : Bool :=
  if ty = tyPORT then limitPORT b
  else if ty = tyGATE then limitGATE b
  else if ty = tyPTP then limitPTP b
  else if ty = tyRX then limitRX b
  else if ty = tyTX then limitTX b
  else if ty = tyDIRECT then limitDIRECT b
  else if ty = tyQUEUE then limitQUEUE b
  else if ty = tyCIPHER then limitCIPHER b
  else if ty = tyCZCTX then limitCZCTX b
  else if ty = tyPROGRAM then decide (u32 b 0 + u32 b 4 ≤ 131072)
  else if ty = tyDATA then decide (u32 b 0 + u32 b 4 ≤ 0x180000)
  else if ty = tyTASK then limitTASK b
  else if ty = tyRATE then limitRATE b
  else if ty = tySCANSET then limitSCANSET b
  else if ty = tyBUS then limitBUS obj b
  else if ty = tyLOCAL then limitLOCAL obj b
  else if ty = tyFIREWALL then limitFIREWALL b
  else if ty = tyPOLICY then limitPOLICY b
  else true

/-! ## Limits of a structure (R51, R52 and the owning chapters) -/

/-- A violation: the keys of the records that it concerns. -/
abbrev Viol := List Nat

/-- A violation when a rule is broken. -/
def broken (ok : Bool) (keys : List Nat) : List Viol := if ok then [] else [keys]

/-- Things claimed twice: each later claim of a thing against its first one. -/
def clashes (claims : List (Nat × Nat)) : List Viol :=
  (claims.foldl (fun (a : Tbl (Option Nat) × List Viol) c =>
    match tget none a.1 c.1 with
    | none => (tset none a.1 c.1 (some c.2), a.2)
    | some k => (a.1, a.2 ++ [[k, c.2]])) ([], [])).2

/-- Half-open ranges that overlap. -/
def overlaps : List (Nat × Nat × Nat) → List Viol
  | [] => []
  | (lo, hi, k) :: r =>
    (r.filterMap fun e => if lo < e.2.1 ∧ e.1 < hi ∧ lo < hi ∧ e.1 < e.2.1 then some [k, e.2.2] else none) ++ overlaps r

/-- Every body in its ranges. -/
def violRanges (r : Recs) : List Viol :=
  r.flatMap fun e =>
    match e.2 with
    | some b => broken (limitRec (e.1 / 2 ^ 32) (e.1 % 2 ^ 32) b) [e.1]
    | none => []

/-- A register of a port in a structure: from its PORT image, else as it stands. -/
def portWord (s : State) (r : Recs) (p off : Nat) : Nat :=
  match recGet r tyPORT p with
  | some b => u32 b off
  | none => s.reg (baseNP p + off)

/-- The ports of a media network in a structure. -/
def portsOfNet (s : State) (r : Recs) (net : Nat) : List Nat := [0, 1, 2, 3].filter fun p => portWord s r p 0 % 4 == net + 1

/-- Length of a frame on the wire of a port (R90). -/
def frameLen (s : State) (r : Recs) (p payload tag : Nat) (v6 : Bool) : Nat :=
  payload + tag + 20 + (if v6 then 40 else 20) + 22 + if bit (portWord s r p 0) 4 then 32 else 0

/-- Tag and MKI of a stream's packets (R90, R295). -/
def tagLen (r : Recs) (ctx : Nat) : Nat := if ctx = 0xFFFF then 0 else 16 + ((recGet r tyCIPHER ctx).map ceMkiLen).getD 0

/-- Bytes of an L16 or L24 payload. -/
def pcmLen (ctl : Nat) : Nat := pktSamples ctl * chOf ctl * widthOf ctl

/-- Largest raw image of a stream under a context (R314, R329). -/
def maxImage (ctl : Nat) (cz : List Byte) : Nat :=
  let n := pktSamples ctl * chOf ctl
  n * (if czKind cz = 1 ∧ czW16 cz then 2 else 3) + if czKind cz = 0 ∨ czFplane cz = 1 then (n + 1) / 2 else 0

/-- Largest payload of a transmit stream (R92, R313). -/
def txPayload (r : Recs) (b : List Byte) : Nat :=
  let c := rxCtl b
  if fmtOf c ≠ 2 then pcmLen c
  else
    match recGet r tyCZCTX (txCzCtx b) with
    | some z => 8 + maxImage c z + 3 * cdiv (maxImage c z) (max 1 (czMax z))
    | none => 0

/-- Contexts named by streams (R90, R295, R313). -/
def violCtx (r : Recs) (ty kind ce cz : Nat) (i ctl : Nat) : List Viol :=
  let me := recKey ty i
  (if ce = 0xFFFF then []
   else
     match recGet r tyCIPHER ce with
     | none => [[me, recKey tyCIPHER ce]]
     | some b => broken (byteAt b 0 == kind && ceStream b == i) [me, recKey tyCIPHER ce]) ++
  if fmtOf ctl ≠ 2 ∨ cz = 0xFFFF then []
  else
    match recGet r tyCZCTX cz with
    | none => [[me, recKey tyCZCTX cz]]
    | some b => broken (czKind b == kind && czStream b == i) [me, recKey tyCZCTX cz]

/-- Receive streams: R52, R90, R91. -/
def violRx (s : State) (r : Recs) : List Viol :=
  let rx := recsOf r tyRX
  let keys := rx.flatMap fun e =>
    [0, 1].flatMap fun net =>
      if bit (rxCtl e.2) (27 - net) then
        (portsOfNet s r net).map fun p => (p * 2 ^ 144 + beNat (rxDst e.2 net) * 65536 + u16 e.2 0x18, recKey tyRX e.1)
      else []
  let fits := rx.flatMap fun e =>
    let c := rxCtl e.2
    [0, 1].flatMap fun net =>
      if bit c (27 - net) then
        (portsOfNet s r net).flatMap fun p =>
          let n := frameLen s r p (if fmtOf c = 2 then 0 else pcmLen c) (tagLen r (rxCeCtx e.2)) (bit c 25)
          broken (decide (n ≤ portWord s r p 0x40)) [recKey tyRX e.1, recKey tyPORT p, recKey tyCIPHER (rxCeCtx e.2)]
      else []
  -- a leg whose network has no port is absent, and one leg must be there (R67, R90)
  let legs := rx.flatMap fun e =>
    broken ([0, 1].any fun net => bit (rxCtl e.2) (27 - net) && !(portsOfNet s r net).isEmpty)
      (recKey tyRX e.1 :: [0, 1, 2, 3].map (recKey tyPORT))
  let played := rx.filter fun e => rxPlay e.2
  let pecks := (played.map fun e => chOf (rxCtl e.2) * (ringLen e.2 / 512)).sum
  rx.flatMap (fun e => violCtx r tyRX 0 (rxCeCtx e.2) (rxCzCtx e.2) e.1 (rxCtl e.2)) ++ clashes keys ++ legs ++ fits ++
    broken (decide (pecks ≤ 16128)) (played.map fun e => recKey tyRX e.1)

/-- Transmit streams: R90, R110, R313; no two streams name one context. -/
def violTx (s : State) (r : Recs) : List Viol :=
  let tx := recsOf r tyTX
  let fits := tx.flatMap fun e =>
    let c := rxCtl e.2
    [0, 1].flatMap fun net =>
      if bit c (27 - net) then
        (portsOfNet s r net).flatMap fun p =>
          let n := frameLen s r p (txPayload r e.2) (tagLen r (txCeCtx e.2)) (bit c 25)
          broken (decide (n ≤ portWord s r p 0x40))
            [recKey tyTX e.1, recKey tyPORT p, recKey tyCIPHER (txCeCtx e.2), recKey tyCZCTX (txCzCtx e.2)]
      else []
  let ces := (recsOf r tyRX).map (fun e => (rxCeCtx e.2, recKey tyRX e.1)) ++ tx.map fun e => (txCeCtx e.2, recKey tyTX e.1)
  let czs := (recsOf r tyRX).map (fun e => (rxCzCtx e.2, recKey tyRX e.1)) ++ tx.map fun e => (txCzCtx e.2, recKey tyTX e.1)
  tx.flatMap (fun e => violCtx r tyTX 1 (txCeCtx e.2) (txCzCtx e.2) e.1 (rxCtl e.2)) ++ fits ++
    clashes (ces.filter fun e => e.1 != 0xFFFF) ++ clashes (czs.filter fun e => e.1 != 0xFFFF)

/-- Direct Path entries (R114): the stream exists, and an SRTP stream is not rewritten. -/
def violDirect (r : Recs) : List Viol :=
  (recsOf r tyDIRECT).flatMap fun e =>
    let me := recKey tyDIRECT e.1
    match recGet r tyRX (u16 e.2 0) with
    | none => [[me, recKey tyRX (u16 e.2 0)]]
    | some b =>
      let v6 := bit (rxCtl b) 25
      broken ((!rxSrtp b || byteAt e.2 0xC == 0) && (v6 || (allZero (slice e.2 0x20 12) && allZero (slice e.2 0x30 12))))
        [me, recKey tyRX (u16 e.2 0)]

/-- Input slots are assigned at most once (R51, R141, R435, R440, R441). -/
def violInputs (r : Recs) : List Viol :=
  let rx := (recsOf r tyRX).flatMap fun e =>
    if rxPlay e.2 then
      (List.range (chOf (rxCtl e.2) * if rate96 (rxCtl e.2) then 2 else 1)).map fun i => (rxFirst e.2 + i, recKey tyRX e.1)
    else []
  let ra := (recsOf r tyRATE).flatMap fun e => if raKind e.2 = 1 then (raWrites e.2).map fun v => (v, recKey tyRATE e.1) else []
  let lo := (recsOf r tyLOCAL).flatMap fun e => (lpWrites e.1 e.2).filterMap fun v => if v < 4096 then some (v, recKey tyLOCAL e.1) else none
  clashes (rx ++ ra ++ lo)

/-- Ports (R67, R69): one Red and one Blue port at most, and a PORT image names only queues that its port fills and whose
consumers are the Time Base, the Stream Engine and the host port. -/
def violPorts (s : State) (r : Recs) : List Viol :=
  let roles := [1, 2].flatMap fun k =>
    clashes (([0, 1, 2, 3].filter fun p => portWord s r p 0 % 4 == k).map fun p => (0, recKey tyPORT p))
  let queues := (recsOf r tyPORT).flatMap fun e =>
    let w := u32 e.2 0x3C
    [(w / 65536 % 128, 12), (w % 128, 4), (w / 256 % 128, 13)].flatMap fun q =>
      let ks := [recKey tyPORT e.1, recKey tyQUEUE q.1]
      if q.1 = 127 then []
      else
        match recGet r tyQUEUE q.1 with
        | some d => broken (qProd d == e.1 && qCons d == q.2) ks
        | none => [ks]
  roles ++ queues

/-- Queues (R122): slots, PFC classes, and items that fit; a delta's added queues stay clear of the old ones (R464). -/
def violQueues (s : State) (r old : Recs) : List Viol :=
  let qs := recsOf r tyQUEUE
  let span (e : Nat × List Byte) : Nat × Nat × Nat :=
    (u32 e.2 0, u32 e.2 0 + qSlots e.2 * 64 * byteAt e.2 5, recKey tyQUEUE e.1)
  let new := qs.filter fun e => (recGet old tyQUEUE e.1).isNone
  let before := (recsOf old tyQUEUE).map span
  let apart := new.flatMap fun e =>
    before.filterMap fun o => if u32 e.2 0 < o.2.1 ∧ o.1 < (span e).2.1 then some [recKey tyQUEUE e.1, o.2.2] else none
  let item (e : Nat × List Byte) : List Viol :=
    let me := recKey tyQUEUE e.1
    if qProd e.2 < 4 then broken (decide (portWord s r (qProd e.2) 0x40 ≤ qCap e.2 + 4)) [me, recKey tyPORT (qProd e.2)]
    else if qProd e.2 = 4 then
      -- unmatched frames of the media ports go to the host (R91)
      [0, 1].flatMap fun net => (portsOfNet s r net).flatMap fun p =>
        broken (decide (portWord s r p 0x40 ≤ qCap e.2 + 4)) [me, recKey tyPORT p]
    else if qProd e.2 = 5 ∧ qCons e.2 < 4 then
      let net := portWord s r (qCons e.2) 0 % 4
      (recsOf r tyTX).flatMap fun x =>
        let c := rxCtl x.2
        if 1 ≤ net ∧ net ≤ 2 ∧ bit c (28 - net) then
          let n := txPayload r x.2 + tagLen r (txCeCtx x.2) + 20 + (if bit c 25 then 40 else 20) + 18
          broken (decide (n ≤ qCap e.2)) [me, recKey tyTX x.1]
        else []
    else []
  let pfc (e : Nat × List Byte) : List Viol :=
    if qPfc e.2 then
      broken (bit (portWord s r (qPort e.2) 0x34) (16 + qClass e.2)) [recKey tyQUEUE e.1, recKey tyPORT (qPort e.2)]
    else []
  overlaps (qs.map span) ++ apart ++ qs.flatMap item ++ qs.flatMap pfc

/-- Transitive producers of a task: `fuel` rounds of its DEPEND records. -/
def ancestors (r : Recs) : Nat → List Nat → List Nat
  | 0, l => l
  | k + 1, l =>
    let m := (l.flatMap (depsOf r)).foldl insertN l
    if m.length = l.length then l else ancestors r k m

/-- Tasks that write a slot, by slot: stage and task. -/
def producers (r : Recs) : Tbl (List (Nat × Nat)) :=
  (recsOf r tyTASK).foldl (fun t e =>
    (writeSlots r e.1).foldl (fun t v => tupd [] t v fun l => l ++ [(tkStage e.2, e.1)]) t) []

/-- Slots that only stage 2 may read (R442). -/
def stage2Slots (r : Recs) : List Nat := ((recGet r tyLOCAL 0x32).map (lpWrites 0x32)).getD []

/-- Whether a task may write a slot by R11: outputs in stage 2, internal slots in both stages. -/
def mayWrite (stage v : Nat) : Bool := (decide (4096 ≤ v) && decide (v < 8192) && stage == 2) || decide (12288 ≤ v)

/-- Whether a task may read a slot by R11 and R21: inputs in stage 1, buses in stage 2, internal slots in both; and a stage-1 library
task an output slot, the reference of an echo canceller (R250, R257). -/
def mayRead (lib : Bool) (stage v : Nat) : Bool :=
  (decide (v < 4096) && stage == 1) || (isBus v && stage == 2) || decide (12288 ≤ v) ||
    (lib && stage == 1 && decide (4096 ≤ v) && decide (v < 8192))

/-- The rules of R249 and R250 on a library task that the records show: a core that truncates, no output of a Rate Chain, and no slot of a
96 kHz pair. `pairs` lists those of the inputs. -/
def violLib (r : Recs) (rate : List (Nat × Nat)) (pairs : List Nat) (t : Nat) (b : List Byte) : List Viol :=
  let me := recKey tyTASK t
  let use := recKey tySLOTUSE t
  if ¬ bit (tkFlags b) 2 then []
  else
    broken (!rndOf r (tkOwner b)) [me, recKey tyDEVICE 0] ++ broken (!bit (tkFlags b) 0) [me] ++
      (readSlots r t).flatMap fun v =>
        ((rate.filter fun w => w.1 == v).map fun w => [use, me, w.2]) ++ broken (!pairs.contains v) [use, me]

/-- The rules on one task (R11, R14, R15, R19, R21, R43, R53, R168, R442). `mix` lists the slots that buses read, and `rate`
those that Rate Chain instances write, each with the key of its record. -/
def violTask (r : Recs) (prod : Tbl (List (Nat × Nat))) (mix rate : List (Nat × Nat)) (host2 : List Nat)
    (e : Nat × List Byte) : List Viol :=
  let (t, b) := e
  let me := recKey tyTASK t
  let use := recKey tySLOTUSE t
  let dev := recKey tyDEVICE 0
  let d := (recGet r tyDEVICE 0).getD []
  let stage := tkStage b
  let place := broken (stageOf r (tkHolm b) (tkCore b) == stage && !bit (u16 d 0xA) (tkHolm b)) [me, dev]
  let deps := (depsOf r t).flatMap fun u =>
    let ks := [recKey tyDEPEND t, me, recKey tyTASK u]
    match recGet r tyTASK u with
    | none => [ks]
    | some c => broken (u != t && tkStage c == stage) ks
  let above := ancestors r 4096 (depsOf r t)
  -- the producers of a slot in a stage, but for the task itself
  let others (v st : Nat) : List Nat := ((tget [] prod v).filter fun p => p.1 == st && p.2 != t).map (·.2)
  let parts (u : Nat) : List Nat := [recKey tySLOTUSE u, recKey tyTASK u]
  let writes := (writeSlots r t).flatMap fun v =>
    broken (mayWrite stage v) [use, me] ++ broken (!host2.contains v) [use, me, recKey tyLOCAL 0x32] ++
      (if 12288 ≤ v ∧ stage = 2 then
        (others v 1).flatMap fun u => (mix.filter fun m => m.1 == v).map fun m => [use, me, m.2] ++ parts u
       else [])
  let reads := (readSlots r t).flatMap fun v =>
    broken (mayRead (bit (tkFlags b) 2) stage v) [use, me] ++
      broken (stage == 2 || !host2.contains v) [use, me, recKey tyLOCAL 0x32] ++
      broken (!isBus v || bit (tkFlags b) 1) [use, me] ++
      (if stage = 1 ∧ 12288 ≤ v ∧ ¬ bit (tkFlags b) 0 then (rate.filter fun w => w.1 == v).map fun w => [use, me, w.2] else []) ++
      -- an undeclared read of a slot of the same stage: any link of the chain may be the record that is missing
      ((others v stage).flatMap fun u =>
        broken (above.contains u) ([use, me] ++ parts u ++ (t :: above).map (recKey tyDEPEND))) ++
      -- a stage-2 producer that reads its own slot reads the stage-1 value
      (if stage = 2 ∧ (writeSlots r t).contains v then (others v 1).map fun u => [use, me] ++ parts u else [])
  place ++ deps ++ writes ++ reads

/-- Tasks and their memory. -/
def violTasks (r : Recs) : List Viol :=
  let ts := recsOf r tyTASK
  let prod := producers r
  let mix := (recsOf r tyBUS).flatMap fun e => (buSlots e.2).map fun v => (v, recKey tyBUS e.1)
  let rate := (recsOf r tyRATE).flatMap fun e => (raWrites e.2).map fun v => (v, recKey tyRATE e.1)
  let host2 := stage2Slots r
  let twice := prod.flatMap fun e =>
    if 12288 ≤ e.1 then
      clashes ((e.2.filter fun p => p.1 == 1).map fun p => (0, recKey tySLOTUSE p.2)) ++
        clashes ((e.2.filter fun p => p.1 == 2).map fun p => (0, recKey tySLOTUSE p.2))
    else []
  let lone (ty : Nat) : List Viol := (recsOf r ty).flatMap fun e => broken (recGet r tyTASK e.1).isSome [recKey ty e.1, recKey tyTASK e.1]
  let state := (List.range 16).flatMap fun h =>
    overlaps ((ts.filter fun e => tkHolm e.2 == h).map fun e => (tkBase e.2, tkBase e.2 + tkLen e.2, recKey tyTASK e.1))
  let pairs := (pairSlots r).flatMap fun v => [v, v + 1]
  ts.flatMap (violTask r prod mix rate host2) ++ (ts.flatMap fun e => violLib r rate pairs e.1 e.2) ++ twice ++ lone tyDEPEND ++ lone tySLOTUSE ++ state

/-- Rate Chain instances (R51, R141, R144). -/
def violRate (r : Recs) : List Viol :=
  let rs := recsOf r tyRATE
  let writes := rs.flatMap fun e => (raWrites e.2).map fun v => (v, recKey tyRATE e.1)
  let inner := (producers r).flatMap fun e => e.2.map fun p => (e.1, recKey tySLOTUSE p.2)
  let host2 := (stage2Slots r).map fun v => (v, recKey tyLOCAL 0x32)
  let mine := writes.foldl (fun (t : Tbl (Option Nat)) e => tset none t e.1 (some e.2)) []
  let read := rs.flatMap fun e =>
    (raReads e.2).flatMap fun v =>
      match tget none mine v with
      | some k => [[k, recKey tyRATE e.1]]
      | none => broken (!(host2.any fun h => h.1 == v)) [recKey tyRATE e.1, recKey tyLOCAL 0x32]
  let others := (inner ++ host2).filterMap fun e => (tget none mine e.1).map fun k => [k, e.2]
  let async := rs.filter fun e => raKind e.2 != 0
  let lanes := (List.range 16).flatMap fun l =>
    let on := rs.filter fun e => raLane e.2 == l
    let a := on.filter fun e => raKind e.2 == 1
    let b := on.filter fun e => raKind e.2 != 1
    broken (decide ((a.map fun e => raCost e.2).sum ≤ 9000)) (a.map fun e => recKey tyRATE e.1) ++
      broken (decide ((b.map fun e => raCost e.2).sum ≤ 12000)) (b.map fun e => recKey tyRATE e.1)
  clashes (writes.filter fun e => decide (4096 ≤ e.1)) ++ others ++ read ++
    broken (decide (async.length ≤ 64)) (async.map fun e => recKey tyRATE e.1) ++ lanes ++
    overlaps (rs.map fun e => (raHist e.2, raHist e.2 + raWords e.2, recKey tyRATE e.1))

/-- Scan sets (R159). -/
def violScan (r : Recs) : List Viol :=
  let sets := recsOf r tySCANSET
  let odd := (pairSlots r).map (· + 1)
  clashes (sets.flatMap fun e => ((List.range 4096).filter (scHas e.2)).map fun c => (c, recKey tySCANSET e.1)) ++
    sets.flatMap fun e => odd.flatMap fun c =>
      let by' (ty : Nat) (f : Nat → List Byte → List Nat) : List Nat :=
        ((recsOf r ty).filter fun x => (f x.1 x.2).contains c).map fun x => recKey ty x.1
      broken (!scHas e.2 c) (recKey tySCANSET e.1 ::
        by' tyRX (fun _ b => if rxPlay b then (List.range (2 * chOf (rxCtl b))).map (rxFirst b + ·) else []) ++
          by' tyRATE (fun _ b => raWrites b) ++ by' tyLOCAL lpWrites)

/-- The rate code of a slot, where a record gives it (R139). -/
def slotRate (r : Recs) (slot : Nat) : Option Nat :=
  if slot < 4096 then some (if (pairSlots r).any fun p => p == slot || p + 1 == slot then 4 else 3)
  else if 12288 ≤ slot then
    ((recsOf r tyRATE).find? fun e => raKind e.2 == 0 && (raWrites e.2).contains slot).map fun e => raOut e.2
  else none

/-- The rate code of a bus, where its sources give it. -/
def busRate (r : Recs) : Nat → Nat → Option Nat
  | 0, _ => none
  | k + 1, bus =>
    (recGet r tyBUS bus).bind fun b =>
      ((if buMinus b then [8192 + buBase b] else []) ++ buSlots b).findSome? fun v =>
        if isBus v then busRate r k (v - 8192) else slotRate r v

/-- The rules of R274 on one bus. -/
def violBus (r : Recs) (e : Nat × List Byte) : List Viol :=
  let (n, b) := e
  let me := recKey tyBUS n
  let coded := ((recGet r tyLOCAL 0x40).map codedMap).getD []
  let host2 := stage2Slots r
  let base := if buMinus b then
      match recGet r tyBUS (buBase b) with
      | some c => broken (decide (buOmit b < buN c)) [me, recKey tyBUS (buBase b)]
      | none => [[me, recKey tyBUS (buBase b)]]
    else []
  let src := (buSlots b).flatMap fun v =>
    broken (!coded.any fun c => c.2 == v) [me, recKey tyLOCAL 0x40] ++ broken (!host2.contains v) [me, recKey tyLOCAL 0x32]
  let rates := ((if buMinus b then [8192 + buBase b] else []) ++ buSlots b).filterMap fun v => if isBus v then busRate r 5 (v - 8192) else slotRate r v
  let mixed := broken (rates.all fun x => some x == rates.head?) [me]
  let pair := if rates.head? = some 4 then
      let lo := n / 2 * 2
      let slots (m : Nat) : List Nat := ((recGet r tyBUS m).map buSlots).getD []
      let head (m : Nat) : Bool × Nat × Nat := ((recGet r tyBUS m).map fun c => (buMinus c, buBase c, buOmit c)).getD (false, 0, 0)
      let under (lo : Nat) : Bool := (head (lo + 1)) == (true, (head lo).2.1 + 1, (head lo).2.2) && (head lo).2.1 % 2 == 0
      broken ((slots (lo + 1)) == (slots lo).map (· + 1) && ((slots lo).all fun v => v % 2 == 0) && (!buMinus b || under lo)) [recKey tyBUS lo, recKey tyBUS (lo + 1)]
    else []
  base ++ src ++ broken (decide (buLevel r 5 n ≤ 3)) [me] ++ mixed ++ pair

/-- The Mix Fabric (R51, R274, R275, R283). -/
def violMix (s : State) (r old : Recs) : List Viol :=
  let bs := recsOf r tyBUS
  let minus := (bs.filter fun e => buMinus e.2).length
  let count := (bs.map fun e => buN e.2).sum + minus
  let outs := bs.filterMap fun e => if buOut e.2 = 0xFFFF then none else some (buOut e.2, recKey tyBUS e.1)
  let prod := producers r
  let task := outs.flatMap fun o => (tget [] prod o.1).map fun p => [o.2, recKey tySLOTUSE p.2]
  let mine := routesOf r
  -- indices still held by the ramps of crosspoints that are removed
  let leave := ((routesOf old).filter fun o => !mine.contains o && (recGet r tyBUS o.1).isSome && (s.xp o.2.2).g != 0) ++ s.mf.gone
  let held := leave.flatMap fun o => (mine.filter fun x => x.2.2 == o.2.2 && x != o).map fun x => [recKey tyBUS x.1, recKey tyBUS o.1]
  bs.flatMap (violBus r) ++ overlaps (bs.map fun e => (buFirst e.2, buFirst e.2 + buN e.2, recKey tyBUS e.1)) ++ clashes outs ++ task ++
    broken (decide (count + leave.length ≤ 131072)) (bs.map fun e => recKey tyBUS e.1) ++ held ++
    broken (decide ((bs.map fun e => buCost e.2).sum ≤ 832000)) (bs.map fun e => recKey tyBUS e.1)

/-- PTP (R341): a master side needs a follower on the other instance, and one-step needs R81. -/
def violPtp (s : State) (r : Recs) : List Viol :=
  (recsOf r tyPTP).flatMap fun e =>
    let other := ((recGet r tyPTP (1 - e.1)).map ptpRole).getD 0
    broken (ptpRole e.2 != 2 || other == 1) [recKey tyPTP e.1, recKey tyPTP (1 - e.1)] ++
      (portsOfNet s r e.1).flatMap fun p =>
        let w := portWord s r p 0
        broken (ptpRole e.2 != 2 || bit (ptpOpts e.2) 0 || !bit w 4 || bit w 5) [recKey tyPTP e.1, recKey tyPORT p]

/-! ## Compression units (R313, R328, R329) -/

/-- Bound of one encode, each block charged once under R326. -/
def encodeBound (z : Nat) (cz : List Byte) : Nat :=
  let blk := max 1 (czMax cz)
  let b := cdiv z blk
  let rewrite := (z / blk) * (64 + cdiv blk 8) + if z % blk = 0 then 0 else 64 + cdiv (z % blk) 8
  rewrite + match czMode cz with | 0 => 160 + cdiv z 4 | 1 => 160 + z + 256 * b | _ => 160 + 4 * z + 256 * b

/-- Bound of one decode. -/
def decodeBound (z : Nat) : Nat := 120 + cdiv z 8 + 256 * cdiv z 8192

/-- The contexts of a kind with their work per Ell: context, body, hc. -/
def czWork (r : Recs) (dec : Bool) : List (Nat × List Byte × Nat) :=
  (recsOf r tyCZCTX).filterMap fun e =>
    if dec then
      if czKind e.2 = 0 then
        (recGet r tyRX (czStream e.2)).map fun b =>
          let legs := b2n (bit (rxCtl b) 27) + b2n (bit (rxCtl b) 26)
          (e.1, e.2, legs * decodeBound (maxImage (rxCtl b) e.2))
      else none
    else if czKind e.2 = 1 then (recGet r tyTX (czStream e.2)).map fun b => (e.1, e.2, encodeBound (maxImage (rxCtl b) e.2) e.2)
    else none

/-- The totals of R329 over some contexts: all of them, and the Guarded part. -/
def czTotals (w : List (Nat × List Byte × Nat)) : Nat × Nat :=
  ((w.map fun e => e.2.2).sum, ((w.filter fun e => czClass e.2.1 == 0).map fun e => e.2.2).sum)

/-- Compression contexts (R312, R313). -/
def violCz (r : Recs) : List Viol :=
  let queues := (recsOf r tyCZCTX).flatMap fun e =>
    if czKind e.2 < 2 then []
    else
      let q (n : Nat) (f : List Byte → Nat) : List Viol :=
        match recGet r tyQUEUE n with
        | some d => broken (f d == 8) [recKey tyCZCTX e.1, recKey tyQUEUE n]
        | none => [[recKey tyCZCTX e.1, recKey tyQUEUE n]]
      q (czQin e.2) qCons ++ q (czQout e.2) qProd
  let load (dec : Bool) : List Viol :=
    let w := czWork r dec
    let (all, g) := czTotals w
    broken (decide (all ≤ 2 * 100000) && decide (g ≤ 2 * 50000)) (w.map fun e => recKey tyCZCTX e.1)
  queues ++ load false ++ load true

/-- Program images (R51, R62): at most 512 KiB in a holm, none where a released holm keeps tasks. -/
def violImages (r : Recs) (removed : List Nat) : List Viol :=
  removed.flatMap fun h =>
    ((recsOf r tyTASK).filter fun e => tkHolm e.2 == h).map fun e => [recKey tyPROGRAM h, recKey tyTASK e.1]

/-- Every violation of the limits of a structure. -/
def violations (s : State) (r old : Recs) (released : List Nat) : List Viol :=
  violRanges r ++ violPorts s r ++ violRx s r ++ violTx s r ++ violDirect r ++ violInputs r ++ violQueues s r old ++ violTasks r ++
    violRate r ++ violScan r ++ violMix s r old ++ violPtp s r ++ violCz r ++ violImages r released

end Sys2Proof.Machine
end

