-- ==== Sys2Proof/Machine/Kaend.lean ====
section
/-! DEFINITION. The Kaend configuration bitstream, [02]: loading, the checks of R463, commits and deltas. -/

namespace Sys2Proof.Machine

namespace State
def updLoad (s : State) (f : Load → Load) : State := { s with load := f s.load }
def updCfg (s : State) (f : Cfg → Cfg) : State := { s with cfg := f s.cfg }
end State

/-- Result codes of R58. -/
def rcOK : Nat := 0
def rcMAGIC : Nat := 1
def rcFORMAT : Nat := 2
def rcDEVICE : Nat := 3
def rcKEY : Nat := 4
def rcROLLBACK : Nat := 5
def rcLENGTH : Nat := 6
def rcTYPE : Nat := 7
def rcFORM : Nat := 8
def rcDIGEST : Nat := 9
def rcSIGNATURE : Nat := 0xA
def rcLIMIT : Nat := 0xB
def rcADMISSION : Nat := 0xC
def rcBASE : Nat := 0xD
def rcSTAGEMOVE : Nat := 0xE
def rcOVERLAP : Nat := 0xF
def rcBUSY : Nat := 0x10
def rcMODE : Nat := 0x11
def rcLATE : Nat := 0x12
def rcOWNER : Nat := 0x13
def rcORDER : Nat := 0x14
def rcBADLEN : Nat := 0x15

/-- A rejection: its code and the record named. -/
abbrev Rej := Nat × Nat

/-- Where checks stop, and the first of several. -/
def firstRej (l : List (Bool × Rej)) : Option Rej := (l.find? fun e => !e.1).map (·.2)

/-! ## Header and owner key (R38, R39, R47-R49, R54) -/

/-- The header fields that outlive the load. -/
def headerOf (b : List Byte) : Header :=
  { delta := u16 b 6 == 1, totalLen := u32 b 8, recCount := u32 b 0xC, keySlot := byteAt b 0x14, secVersion := u64 b 0x18,
    configId := u64 b 0x20, baseId := u64 b 0x28, ledger := u32 b 0x30, xfLen := u16 b 0x34, xfLaw := byteAt b 0x36 }

/-- Length of the signature block, and of the shortest bitstream. -/
def sigLen : Nat := 3328
def minLen : Nat := 2016 + 80 + sigLen

/-- The reserved bytes and field ranges of R38. -/
def headerForm (b : List Byte) : Bool :=
  let h := headerOf b
  allZero (slice b 0x15 3) && allZero (slice b 0x37 9) && h.configId != 0 && decide (h.keySlot < 4) && decide (h.secVersion ≤ 64) &&
    (if h.delta then decide (1 ≤ h.xfLen) && decide (h.xfLen ≤ 4096) && decide (h.xfLaw < 2)
     else h.baseId == 0 && h.xfLen == 0 && h.xfLaw == 0)

/-- The owner key's digest is that of a programmed slot that is not revoked (R48). -/
def ownerOk (s : State) (slot : Nat) (key : List Byte) : Bool :=
  let h := tget [] s.fuses.slots slot
  h != [] && h == shake256 key && !s.fuses.revoked.getLsbD slot

/-- The first group of checks of R463. -/
def checkHeader (s : State) (b : List Byte) : Option Rej :=
  let h := headerOf b
  let modeOk := if h.delta then s.sup.mode == .service || s.sup.mode == .sheltered else s.sup.mode == .configure
  firstRej [
    (slice b 0 4 == [0x4B, 0x41, 0x45, 0x4E], (rcMAGIC, 0)),
    (u16 b 4 == 1 && decide (u16 b 6 < 2), (rcFORMAT, 0)),
    (headerForm b, (rcFORM, 0)),
    (modeOk, (rcMODE, 0)),
    (u32 b 0x10 / 256 == glId / 256 && decide (u32 b 0x10 % 256 ≤ glId % 256), (rcDEVICE, 0)),
    (ownerOk s h.keySlot (slice b 64 1952), (rcKEY, 0)),
    (decide (s.fuses.rollback ≤ h.secVersion), (rcROLLBACK, 0)),
    (decide (h.totalLen ≤ 16777216) && decide (minLen ≤ h.totalLen), (rcLENGTH, 0)),
    (!h.delta || h.baseId == s.cfg.hdr.configId, (rcBASE, 0))]

/-! ## Records (R40, R41) -/

/-- Padded length of a body. -/
def padded (n : Nat) : Nat := (n + 7) / 8 * 8

/-- The second group of checks of R463, for one record that stands after `prev`. -/
def checkRec (s : State) (h : Header) (prev : Option Rec) (r : Rec) (len : Nat) (hdr pad : List Byte) : Option Rej :=
  let known := (objLimit r.ty).isSome
  let order := match prev with
    | none => true
    | some p => decide (p.ty < r.ty) || (p.ty == r.ty && decide (p.obj < r.obj))
  let opOk :=
    if r.ty = tyEND then r.op == 0
    else if h.delta then decide (r.op < 3) && ((r.ty != tyDEVICE && r.ty != tyADMIT) || r.op == 1) && (r.op != 2 || len == 0)
    else r.op == 0
  let exists' := (s.recNow r.ty r.obj).isSome
  firstRej [
    (known, (rcTYPE, r.ord)),
    (order && objOk r.ty r.obj && opOk && allZero (slice hdr 0xC 4) && allZero pad, (rcFORM, r.ord)),
    ((h.delta && r.op == 2) || formRec r.ty r.obj r.body, (rcFORM, r.ord)),
    (!h.delta || r.ty == tyEND || (if r.op = 0 then !exists' else exists'), (rcBASE, r.ord))]

/-- Reading complete records until one is missing, END is reached, or one fails. -/
def readRecs (s : State) : Nat → Load → Load × Option Rej
  | 0, l => (l, none)
  | fuel + 1, l =>
    if (l.recs.getLast?).any (fun r => r.ty == tyEND) ∨ l.hdr.totalLen < l.parsed + 16 + sigLen then (l, none)
    else
      let hdr := slice l.bytes l.parsed 16
      let len := u32 hdr 4
      let next := l.parsed + 16 + padded len
      if l.bytes.length < next ∨ l.hdr.totalLen < next + sigLen then (l, none)
      else
        let body := slice l.bytes (l.parsed + 16) len
        let pad := slice l.bytes (l.parsed + 16 + len) (padded len - len)
        let r : Rec := { ty := u16 hdr 0, op := u16 hdr 2, obj := u32 hdr 8, ord := l.recs.length + 1, body := body }
        match checkRec s l.hdr l.recs.getLast? r len hdr pad with
        | some e => (l, some e)
        | none => readRecs s fuel { l with parsed := next, recs := l.recs ++ [r] }

/-- Taking bytes of a bitstream: the first two groups of checks. -/
def takeBytes (s : State) (bs : List Byte) (l : Load) : Load × Option Rej :=
  let fresh := decide (l.bytes.length < 2016)
  let l := { l with bytes := l.bytes ++ bs }
  if l.bytes.length < 2016 then (l, none)
  else
    let bad := if fresh then checkHeader s l.bytes else none
    match bad with
    | some e => (l, some e)
    | none =>
      let l := if fresh then { l with hdr := headerOf l.bytes, parsed := 2016 } else l
      if l.hdr.totalLen < l.bytes.length then (l, some (rcLENGTH, 0)) else readRecs s (l.bytes.length / 16 + 1) l

/-! ## The checks after FINISH (R463) -/

/-- The ordinal of a record of the bitstream, 0 where it carries none. -/
def ordOf (l : Load) (k : Nat) : Nat := ((l.recs.find? fun r => recKey r.ty r.obj == k).map (·.ord)).getD 0

/-- The structure that would result. -/
def resultOfLoad (s : State) (l : Load) : Recs :=
  (l.recs.filter fun r => r.ty != tyEND).foldl (fun t r =>
    tset none t (recKey r.ty r.obj) (if l.hdr.delta ∧ r.op = 2 then none else some r.body)) (if l.hdr.delta then s.cfg.recs else [])

/-- Whether a delta must carry ADMIT (R46). -/
def needsAdmit (l : Load) : Bool := !l.hdr.delta || l.recs.any fun r => r.ty == tyTASK || r.ty == tyDEPEND || r.ty == tyDEVICE

/-- The offending record of a violation: the highest ordinal among the records it concerns (R51). A violation that concerns
no record of the bitstream is named by END (DESIGN CHOICE, log 28). -/
def offender (l : Load) (v : Viol) : Nat :=
  let o := v.foldl (fun m k => max m (ordOf l k)) 0
  if o = 0 then l.recs.length else o

/-- The lowest of some ordinals; 0 names no record. -/
def lowest (l : List Nat) : Option Nat :=
  (l.filter (· ≠ 0)).foldl (fun m o => match m with | none => some o | some x => some (min x o)) none

/-- LIMIT. -/
def checkLimits (s : State) (l : Load) (r : Recs) : Option Rej :=
  let released := (l.recs.filter fun x => l.hdr.delta && x.ty == tyPROGRAM && x.op == 2).map (·.obj)
  (lowest ((violations s r (if l.hdr.delta then s.cfg.recs else []) released).map (offender l))).map fun o => (rcLIMIT, o)

/-- STAGEMOVE (R61). -/
def checkStageMove (s : State) (l : Load) (r : Recs) : Option Rej :=
  if l.hdr.delta ∧ (List.range 64).any (fun j =>
      stageOf s.cfg.recs (j / 4) (j % 4) == 2 && stageOf r (j / 4) (j % 4) == 1) then
    some (rcSTAGEMOVE, ordOf l (recKey tyDEVICE 0))
  else none

/-- OVERLAP (R62). -/
def checkOverlap (s : State) (l : Load) : Option Rej :=
  if ¬ l.hdr.delta then none
  else
    let bad := l.recs.filter fun x =>
      let lo := u32 x.body 0
      let hi := lo + u32 x.body 4
      if x.op = 2 ∨ hi ≤ lo then false
      else if x.ty = tyPROGRAM then s.cfg.images.any fun i => i.holm == x.obj && decide (i.lo < i.hi) && decide (lo < i.hi) && decide (i.lo < hi)
      else if x.ty = tyDATA then
        (recsOf s.cfg.recs tyTASK).any fun e =>
          tkHolm e.2 == x.obj && tkLen e.2 != 0 && decide (lo < tkBase e.2 + tkLen e.2) && decide (tkBase e.2 < hi)
      else false
    (lowest (bad.map (·.ord))).map fun o => (rcOVERLAP, o)

/-- ADMISSION (R46, R53): tasks that wait on themselves or finish late, the ADMIT entries, the ledger. A delta that leaves
the task's own record alone is named by its ADMIT record. -/
def checkAdmission (s : State) (l : Load) (r : Recs) : Option Rej :=
  let admitOrd := ordOf l (recKey tyADMIT 0)
  let named (t : Nat) : Nat := let o := ordOf l (recKey tyTASK t); if o = 0 then admitOrd else o
  let stuck := (stuckTasks r).take 1
  let late := if stuck = [] then lateTasks r else []
  let ledgerBad := if admitOrd ≠ 0 then l.hdr.ledger != ledgerOf r else l.hdr.ledger != s.cfg.hdr.ledger
  if ledgerBad then some (rcADMISSION, 0)
  else
    match lowest ((stuck ++ late).map named) with
    | some o => some (rcADMISSION, o)
    | none => if admitOrd ≠ 0 ∧ recGet r tyADMIT 0 ≠ some (admitBody r) then some (rcADMISSION, admitOrd) else none

/-- Place of the END record. -/
def endAt (l : Load) : Nat := l.hdr.totalLen - sigLen - 80

/-- The signature block (R47). -/
def sigBlock (l : Load) : List Byte := slice l.bytes (l.hdr.totalLen - sigLen) sigLen

/-- The verdict on the signature: under the owner key of the header, over every byte to the end of END, with context "KAEND1"
(R38, R47). -/
def sigVerdict (l : Load) : Bool :=
  Config.mlDsa (slice l.bytes 64 1952) (slice l.bytes 0 (l.hdr.totalLen - sigLen)) [0x4B, 0x41, 0x45, 0x4E, 0x44, 0x31]
    (slice (sigBlock l) 16 3309)

/-- The third group of checks of R463: the resulting structure, or the rejection. -/
def verify (s : State) (l : Load) (sigOk : Bool) : Except Rej (Recs × List Byte) :=
  let g := sigBlock l
  let last := l.recs.getLast?
  let ended := last.any fun r => r.ty == tyEND && r.ord == l.hdr.recCount
  let digest := shake256 (slice l.bytes 0 (endAt l + 16))
  let r := resultOfLoad s l
  let endOrd := l.recs.length
  let first := firstRej [
    (decide (2016 ≤ l.bytes.length) && l.bytes.length == l.hdr.totalLen, (rcLENGTH, 0)),
    (ended && l.parsed + sigLen == l.hdr.totalLen, (rcFORM, 0)),
    (!needsAdmit l || ordOf l (recKey tyADMIT 0) != 0, (rcFORM, endOrd)),
    ((last.map (·.body)).getD [] == digest, (rcDIGEST, endOrd)),
    (slice g 0 4 == [0x4B, 0x53, 0x49, 0x47], (rcMAGIC, 0xFFFFF)),
    (u16 g 4 == 0x65 && u16 g 6 == 3309 && allZero (slice g 8 8) && allZero (slice g 3325 3), (rcFORM, 0xFFFFF)),
    (sigOk, (rcSIGNATURE, 0xFFFFF))]
  match first with
  | some e => .error e
  | none =>
    match checkLimits s l r with
    | some e => .error e
    | none =>
      match checkStageMove s l r with
      | some e => .error e
      | none =>
        match checkOverlap s l with
        | some e => .error e
        | none =>
          match checkAdmission s l r with
          | some e => .error e
          | none => .ok (r, digest)

/-! ## What a commit builds -/

/-- A PORT image as the port applies it: NP_PAUSE.`tx_pfc_mask` loses its media classes (R79). -/
def portImage (b : List Byte) : List Byte :=
  let media := byteAt b 0xF
  let mask := byteAt b 0x36
  b.take 0x36 ++ [BitVec.ofNat 8 (mask ^^^ (mask &&& media))] ++ b.drop 0x37

/-- Storing a register image. -/
def putImage (base : Nat) (b : List Byte) (s : State) : State :=
  ((wordsOf b).zipIdx).foldl (fun s e => s.setReg (base + 4 * e.2) e.1) s

/-- PORT and POLICY images (R84, R372). -/
def putImages (r : Recs) (s : State) : State :=
  let s := (recsOf r tyPORT).foldl (fun s e => putImage (baseNP e.1) (portImage e.2) s) s
  match recGet r tyPOLICY 0 with
  | some b => putImage (baseSV + 0x800) b s
  | none => s

/-- Multicast bins of a structure on one port (R70, R91). -/
def groupBins (s : State) (r : Recs) (p : Nat) : List Nat :=
  let net := npRole s p
  if net = 1 ∨ net = 2 then
    (recsOf r tyRX).filterMap fun e =>
      if bit (rxCtl e.2) (28 - net) then
        let m := macFor (bit (rxCtl e.2) 25) (rxDst e.2 (net - 1)) []
        if m = [] then none else some (mcBin m)
      else none
  else []

/-- Setting bins; those in place stay when `keep`. -/
def putBins (r : Recs) (keep : Bool) (s : State) : State :=
  [0, 1, 2, 3].foldl (fun s p =>
    let bins := groupBins s r p
    let s := if keep then s else { s with regs := tdrop s.regs fun k => decide (baseNP p + 0x800 ≤ k) && decide (k < baseNP p + 0xA00) }
    bins.foldl (fun s b =>
      let o := baseNP p + 0x800 + 4 * (b / 32)
      s.setReg o (s.reg o ||| 2 ^ (b % 32))) s) s

/-- Words of a PROGRAM or DATA body. -/
def imageWords (b : List Byte) : List Word := (wordsOf (b.drop 8)).map (BitVec.ofNat 32)

/-- Writing the PROGRAM and DATA images of some records, with what is known of each word (R62, R353). -/
def putMemory (rs : List Rec) (flash : Bool) (s : State) : State :=
  rs.foldl (fun s r =>
    let lo := u32 r.body 0
    let n := u32 r.body 4
    if r.op = 2 then s
    else if r.ty = tyPROGRAM then
      let s := { s with ha := { s.ha with prog := tsets 0 s.ha.prog (r.obj * 131072 + lo) (imageWords r.body) } }
      let s := s.updSup fun u => { u with
        badProg := u.badProg.filter fun e => !(e.1 == r.obj && decide (lo ≤ e.2) && decide (e.2 < lo + n)) }
      s.updCfg fun c => { c with images := { holm := r.obj, lo := lo, hi := lo + n, flash := flash } :: c.images }
    else if r.ty = tyDATA then
      { s with ha := { s.ha with mem := tsets 0 s.ha.mem (memKey r.obj lo) (imageWords r.body) } }
    else s) s

/-- The commit Ell of a full bitstream: the Ell after it, in which Calibrate begins (R389, log 28). -/
def fullCommitEll (s : State) : Nat := s.ell + 1

/-- KAEND_COMMIT (R58). -/
def commitEvent (id ell : Nat) (s : State) : State := s.raiseSv 0x20 [id % 2 ^ 32, id / 2 ^ 32, ell % 2 ^ 32]

/-- A full bitstream commits (R50, R55, R57, R58, R281, R389). -/
def commitFull (r : Recs) (d : List Byte) (s : State) : State :=
  let l := s.load
  let n := fullCommitEll s
  let s := s.updCfg fun _ => { built := true, recs := r, hdr := l.hdr, measurement := d, commitEll := n % 2 ^ 32 }
  let s := { s with
    queues := [], se := {}, em := {}, cz := {}, rc := {}, mf := {}, ha := { mem := [], prog := [], stat := [], pace := [] },
    ce := { s.ce with ctxs := [], inq := [], done := [] }, tb := { s.tb with inst := [], ref := none } }
  let s := putBins r false (putImages r (putMemory l.recs l.fromFlash s))
  let s := (recsOf r tyCOEF).foldl (fun s e =>
    s.updMf fun m => { m with coef := tsets 0 m.coef (e.1 * 2 ^ 18) ((wordsOf e.2).map (BitVec.ofNat 32)) }) s
  let s := [0, 1, 2, 3].foldl (fun s p => s.updPort p fun x => { x with gcl := (recGet r tyGATE p).getD [], gclNext := [] }) s
  let s := mfCommit s
  let s := s.updSup fun u => { u with rwlLocked := true, quarantined := [], delays := [], coreOvl := [] }
  let s := s.updLoad fun _ => { owner := l.owner }
  askMode 90 .calibrate false (commitEvent l.hdr.configId n s)

/-- A rejection (R56-R58): logged, and the load is discarded. -/
def reject (e : Rej) (s : State) : State :=
  (s.updLoad fun l => { owner := l.owner, st := 6, result := e.1, record := e.2 }).raiseSv 0x21 [e.1, e.2]

/-! ## Operations (R55, R57) -/

/-- The result of an operation that is refused. -/
def refuse (code : Nat) (s : State) : State := s.updLoad fun l => { l with result := code }

/-- Whether a load is in progress. -/
def loading (l : Load) : Bool := l.st != 0 && l.st != 6

/-- BEGIN. -/
def opBegin (m : Master) : State → State :=
  guardWrite m (baseSV + 0x400) fun s =>
    if loading s.load then refuse rcBUSY s else s.updLoad fun _ => { st := 7, owner := m }

def execBeginLoad (t : Gts) (m : Master) : State → Host.Outcome State Fault Refusal := act t (opBegin m)

/-- The first `n` bytes of the staging window. -/
def stagingBytes (s : State) (n : Nat) : List Byte :=
  ((List.range (cdiv n 4)).flatMap fun i => toLe 4 (tget 0 s.staging i).toNat).take n

/-- PUSH. -/
def opPushPiece (m : Master) : State → State :=
  guardWrite m (baseSV + 0x400) fun s =>
    let l := s.load
    let n := s.rfld (baseSV + 0x404) 20 0
    if ¬ loading l then refuse rcORDER s
    else if l.owner ≠ m then refuse rcOWNER s
    else if l.st = 1 ∨ l.st = 2 then refuse rcBUSY s
    else if l.st ≠ 7 then refuse rcORDER s
    else if n = 0 ∨ 1048576 < n then refuse rcBADLEN s
    else s.updLoad fun l => { l with st := 1, result := 0, record := 0, piece := stagingBytes s n }

def execPush (t : Gts) (m : Master) : State → Host.Outcome State Fault Refusal := act t (opPushPiece m)

/-- PIECE_TAKEN: the first two groups of checks run on what has arrived. -/
def execPieceTaken (t : Gts) : State → Host.Outcome State Fault Refusal :=
  act t fun s =>
    if s.load.st ≠ 1 then s
    else
      match takeBytes s s.load.piece s.load with
      | (_, some e) => reject e s
      | (l, none) => s.updLoad fun _ => { l with st := 7, piece := [] }

/-- FINISH. -/
def opFinish (m : Master) : State → State :=
  guardWrite m (baseSV + 0x400) fun s =>
    let l := s.load
    if ¬ loading l then refuse rcORDER s
    else if l.owner ≠ m then refuse rcOWNER s
    else if l.st = 1 ∨ l.st = 2 then refuse rcBUSY s
    else if l.st ≠ 7 then refuse rcORDER s
    else s.updLoad fun l => { l with st := 2, result := 0, record := 0 }

def execFinishLoad (t : Gts) (m : Master) : State → Host.Outcome State Fault Refusal := act t (opFinish m)

/-- The end of verification: a full bitstream commits at once, a delta is READY. -/
def verified (s : State) : State :=
  match verify s s.load (sigVerdict s.load) with
  | .error e => reject e s
  | .ok (r, d) =>
    if s.load.hdr.delta then s.updLoad fun l => { l with st := 3, result := 0, record := 0, digest := d, bytes := [] }
    else commitFull r d s

/-- VERIFY_DONE reports the verdict on the signature; a report of any other verdict is no event of the device and changes nothing
(DESIGN CHOICE, log 5). -/
def execVerifyDone (t : Gts) (sigOk : Bool) : State → Host.Outcome State Fault Refusal :=
  act t fun s => if s.load.st ≠ 2 ∨ sigOk ≠ sigVerdict s.load then s else verified s

/-- One flash slot: read, checked and committed when it holds a full bitstream that passes (R54, R463). -/
def tryFlash (b : List Byte) (s : State) : State :=
  if s.cfg.built then s
  else
    let l : Load := { st := 2, owner := .supervisor, fromFlash := true }
    match takeBytes s b l with
    | (_, some e) => reject e (s.updLoad fun _ => l)
    | (l, none) => verified (s.updLoad fun _ => l)

/-- FLASH_LOAD: slot A, then slot B, on entering Configure; skipped after the third Recovery in 600 s (R398). The bytes of a slot
are those up to its signature block, and the block (R47). -/
def execFlashLoad (t : Gts) (slotA slotB sigA sigB : List Byte) : State → Host.Outcome State Fault Refusal :=
  act t fun s =>
    if s.sup.mode ≠ .configure ∨ s.sup.noFlash ∨ s.cfg.built ∨ loading s.load then s
    else tryFlash (slotB ++ sigB) (tryFlash (slotA ++ sigA) s)

/-! ## Deltas (R59-R65, R338, R464) -/

/-- The target Ell of a delta whose COMMIT counts as written in Ell `n`. -/
def targetEll (s : State) (n : Nat) : Nat :=
  let t := s.reg (baseSV + 0x408)
  let d := sgn 32 (wrap 32 ((t : Int) - (n : Int)))
  if t = 0 ∨ d < 8 then n + 8 else n + d.toNat

/-- Entering Reconfigure, from Debug under the mode it holds (R59, R400). -/
def enterReconfigure (s : State) : State :=
  let old := s.runMode
  let s := s.updLoad fun l => { l with prevMode := old }
  if s.sup.mode = .debug then s.updSup fun u => { u with debugFrom := .reconfigure } else setMode .reconfigure 90 s

/-- Leaving Reconfigure for the mode held before; held requests are released (R388). -/
def leaveReconfigure (prev : Mode) (s : State) : State :=
  let s :=
    if s.sup.mode = .reconfigure then setMode prev 90 s
    else if s.sup.mode = .debug ∧ s.sup.debugFrom = .reconfigure then s.updSup fun u => { u with debugFrom := prev }
    else s
  s.updSup fun u => { u with reqs := u.reqs ++ u.held, held := [] }

/-- COMMIT: a delta is scheduled; after a decided realignment it counts as written at the boundary (R338). -/
def opCommit (m : Master) : State → State :=
  guardWrite m (baseSV + 0x400) fun s =>
    let l := s.load
    if ¬ loading l then refuse rcORDER s
    else if l.owner ≠ m then refuse rcOWNER s
    else if l.st ≠ 3 then refuse rcORDER s
    else
      let wait := s.tb.realign.isSome
      let k := if wait then 0 else targetEll s s.ell
      enterReconfigure (s.updLoad fun l => { l with st := 4, result := 0, record := 0, k := k, wait := wait })

def execCommit (t : Gts) (m : Master) : State → Host.Outcome State Fault Refusal := act t (opCommit m)

/-- The number of the present Ell for a delta's instants: the new numbering counts backward once a realignment is decided. -/
def deltaNow (s : State) : Nat :=
  match s.tb.realign with
  | some (j, _, _) => ((s.ell : Int) + j).toNat
  | none => s.ell

/-- Whether E_{k-2} of a scheduled delta has come. -/
def deltaDue (s : State) : Bool := s.load.st == 4 && !s.load.wait && decide (s.load.k ≤ deltaNow s + 2)

/-- ABORT, from either master (R57, R64). -/
def opAbort (m : Master) : State → State :=
  guardWrite m (baseSV + 0x400) fun s =>
    let l := s.load
    if ¬ loading l then refuse rcORDER s
    else if l.st = 5 ∨ deltaDue s then refuse rcLATE s
    else
      let s' := s.updLoad fun _ => { owner := l.owner }
      if l.st = 4 then leaveReconfigure l.prevMode s' else s'

def execAbort (t : Gts) (m : Master) : State → Host.Outcome State Fault Refusal := act t (opAbort m)

/-- Objects of a type whose record changes, with the old and the new body. A record that replaces an object with an
identical body is no change (DESIGN CHOICE, log 28). -/
def changes (old new : Recs) (ty : Nat) : List (Nat × Option (List Byte) × Option (List Byte)) :=
  let ids := ((recsOf old ty).map (·.1) ++ (recsOf new ty).map (·.1)).foldl (fun l i => insertN l i) []
  ids.reverse.filterMap fun i =>
    let a := recGet old ty i
    let b := recGet new ty i
    if a = b then none else some (i, a, b)

/-- Whether a context keeps its keys under a new record (R306). -/
def ctxKept (a b : List Byte) : Bool := byteAt a 0 == byteAt b 0 && byteAt a 1 == byteAt b 1 && ceStream a == ceStream b

/-- A changed context of one direction is zeroed; an added one starts afresh. -/
def dropCtx (old new : Recs) (tx : Bool) (s : State) : State :=
  (changes old new tyCIPHER).foldl (fun s e =>
    match e.2.1, e.2.2 with
    | some a, some b => if ceTx a = tx ∧ ¬ ctxKept a b then s.setCtx e.1 {} else s
    | some a, none => if ceTx a = tx then s.setCtx e.1 {} else s
    | none, _ => s) s

/-- E_{k-2}: the delta can no longer be aborted; images, added queues, new streams and their multicast bins are built ahead. -/
def applyDelta (s : State) : State :=
  if ¬ deltaDue s then s
  else
    let l := s.load
    let new := resultOfLoad s l
    let old := s.cfg.recs
    let s := s.updLoad fun l => { l with st := 5 }
    let k := match s.tb.realign with | some (j, _, _) => ((l.k : Int) - j).toNat | none => l.k
    let s := s.updCfg fun c => { c with next := new, deltaK := some k, hdr := { c.hdr with xfLen := l.hdr.xfLen, xfLaw := l.hdr.xfLaw } }
    let s := putMemory l.recs false s
    let s := (changes old new tyQUEUE).foldl (fun s e => if e.2.1.isNone then s.setQueue e.1 {} else s) s
    let s := (changes old new tyRX).foldl (fun s e => if e.2.1.isNone then s.setRx e.1 {} else s) s
    let s := (changes old new tyCIPHER).foldl (fun s e => if e.2.1.isNone then s.setCtx e.1 {} else s) s
    let s := (changes old new tyCZCTX).foldl (fun s e => if e.2.1.isNone then s.setCzStat e.1 {} else s) s
    -- R75 looks across the change, so the lists are known before it comes (R76)
    let s := (changes old new tyGATE).foldl (fun s e => setGate e.1 e.2.2 (s.startOf (k + 2)) s) s
    putBins new true s

/-- DELTA_APPLY. -/
def execDeltaApply (t : Gts) : State → Host.Outcome State Fault Refusal := act t applyDelta

/-- The playout for data Ell k: streams whose depth limits or channel count change restart (R60), and receive contexts that
change are zeroed. -/
def deltaPlayout (n : Nat) (s : State) : State :=
  if s.cfg.deltaK ≠ some n then s
  else
    let old := s.cfg.recs
    let new := s.cfg.next
    let s := (changes old new tyRX).foldl (fun s e =>
      match e.2.1, e.2.2 with
      | some a, some b =>
        if jbMin a = jbMin b ∧ jbMax a = jbMax b ∧ chOf (rxCtl a) = chOf (rxCtl b) then s else s.setRx e.1 {}
      | some _, none => s.setRx e.1 {}
      | none, _ => s) s
    dropCtx old new false s

/-- A PORT image of a delta: a change of role, rate or FEC takes the port down (R84). A delta that removes a PORT or POLICY
record leaves the registers, the role and the link as they stand (DESIGN CHOICE, log 28). -/
def deltaPort (s : State) (e : Nat × Option (List Byte) × Option (List Byte)) : State :=
  match e.2.2 with
  | none => s
  | some b =>
    let before := s.reg (baseNP e.1) % 16
    let s := if before % 4 = u32 b 0 % 4 ∧ before / 4 = u32 b 0 / 4 % 4 then s else takeDown e.1 0 s
    putImage (baseNP e.1) (portImage b) s

/-- A changed PTP instance starts afresh. -/
def deltaPtp (s : State) (e : Nat × Option (List Byte) × Option (List Byte)) : State :=
  let s := s.setInst e.1 {}
  if s.tb.ref = some e.1 then refLost s else s

/-- A queue that the delta removes or replaces is flushed at once under its old descriptor and restarts empty. What the flush
leaves stands: a stalled pop stays stalled, a stalled push waits, the rest of an abandoned push is discarded, and what a consumer
was given stays with it (R131, R464). -/
def deltaQueue (s : State) (e : Nat × Option (List Byte) × Option (List Byte)) : State :=
  match e.2.1 with
  | none => s
  | some d =>
    let s := qFlushNow e.1 d 1 s
    let x := s.queue e.1
    match e.2.2 with
    | none => s.setQueue e.1 { out := x.out }
    | some b =>
      let prod := qProd b == qProd d
      let cons := qCons b == qCons d
      s.setQueue e.1 { out := x.out, timedOut := x.timedOut, popStall := x.popStall && cons, waitFrom := x.waitFrom,
                       pushWait := if prod then x.pushWait else none, pushDead := x.pushDead && prod }

/-- E_{k+2}: the delta commits (R50, R58, R59, R464). -/
def commitDelta (s : State) : State :=
  let l := s.load
  if l.st ≠ 5 ∨ deltaNow s < l.k + 2 then s
  else
    let old := s.cfg.recs
    let new := s.cfg.next
    let s := (changes old new tyQUEUE).foldl deltaQueue s
    let s := (changes old new tyRATE).foldl deltaRate s
    let s := (changes old new tyTX).foldl (fun s e => s.setTx e.1 { fromEll := l.k }) s
    let s := (changes old new tyCZCTX).foldl (fun s e => if e.2.2.isNone then s.setCzStat e.1 {} else s) s
    let s := dropCtx old new true s
    let s := s.updCfg fun c => { c with
      recs := new, next := [], deltaK := none, hdr := l.hdr, measurement := shake256 (c.measurement ++ l.digest)
      commitEll := l.k % 2 ^ 32
      images := c.images.filter fun i => !(l.recs.any fun r => r.ty == tyPROGRAM && r.op == 2 && r.obj == i.holm) }
    let s := (changes old new tyPORT).foldl deltaPort s
    let s := match recGet new tyPOLICY 0 with
      | some b => if recGet old tyPOLICY 0 = some b then s else putImage (baseSV + 0x800) b s
      | none => s
    let s := putBins new false s
    let s := (changes old new tyPTP).foldl deltaPtp s
    let s := s.updLoad fun _ => { owner := l.owner }
    leaveReconfigure l.prevMode (commitEvent l.hdr.configId l.k s)

/-- DELTA_COMMIT. -/
def execDeltaCommit (t : Gts) : State → Host.Outcome State Fault Refusal := act t commitDelta

/-- SV_CFG_STATUS. -/
def cfgStatus (s : State) : Nat := s.load.result * 2 ^ 24 + s.load.st * 2 ^ 20 + s.load.record

end Sys2Proof.Machine
end

