-- ==== Sys2Proof/Machine/Supervisor.lean ====
section
/-! DEFINITION. What the Supervisor decides at an Ell boundary, [15] to [17]: measurements, voltage, temperature, pace,
retirements, takeovers, overload and the choice of the mode. -/

namespace Sys2Proof.Machine

/-! ## Policy fields (R372) -/

def raiseRd (s : State) : Nat := s.rfld (baseSV + 0x800) 15 0
def lowerRd (s : State) : Nat := s.rfld (baseSV + 0x800) 31 16
def vMin (s : State) : Nat := s.rfld (baseSV + 0x804) 9 0
def upMv (s : State) : Nat := s.rfld (baseSV + 0x808) 7 0
def downMv (s : State) : Nat := s.rfld (baseSV + 0x808) 15 8
def settleUs (s : State) : Nat := s.rfld (baseSV + 0x808) 31 16
def tWarn (s : State) : Nat := s.rfld (baseSV + 0x80C) 7 0
def tShed (s : State) : Nat := s.rfld (baseSV + 0x80C) 15 8
def tTrip (s : State) : Nat := s.rfld (baseSV + 0x80C) 23 16
def tHyst (s : State) : Nat := s.rfld (baseSV + 0x80C) 31 24
def calmElls (s : State) : Nat := s.rfld (baseSV + 0x810) 15 0

/-- rd of the last Ell; floor pace where no gauge has been read. -/
def rdNow (s : State) : Nat := if s.sup.rd = 0 then 4096 else s.sup.rd

/-! ## Measurements (R371) -/

/-- The readings of the Ell that has ended. A holm's gauge has none in the first Ell after a reset, after the commit of a full
bitstream, and after power gating (R174); a report without readings leaves rd as it was. -/
def tickMeasure (rep : EllReport) (s : State) : State :=
  let p := rep.pace.filter fun e => e.2 != 0
  let least := p.foldl (fun m e => if m.2 = 0 ∨ e.2 < m.2 then e else m) (0, 0)
  let holm (e : Nat × Nat) : Bool := decide (112 ≤ e.1) && decide (e.1 < 128) && !s.ha.noPace.contains (e.1 - 112)
  let pace := (p.filter holm).foldl (fun t e => tset 0 t (e.1 - 112) (satN 16 e.2)) []
  let s := { s with ha := { s.ha with pace := pace, noPace := (List.range 16).filter (gated s) } }
  let s :=
    if rep.pace.isEmpty then s
    else
      s.updSup fun u => { u with rd := least.2, rdSrc := least.1, paceOf := p.foldl (fun t e => tset 0 t e.1 e.2) [] }
  match rep.temps with
  | [] => s
  | t :: _ =>
    let tj := rep.temps.foldl max t
    s.updSup fun u => { u with tj := tj, tjSensor := rep.temps.findIdx (· == tj) }

/-! ## Temperature (R379) -/

/-- A threshold of temperature: reached, held, or left below the hysteresis. -/
def thermHold (s : State) (on : Bool) (th : Nat) : Bool :=
  if (th : Int) ≤ s.sup.tj then true else on && decide ((th : Int) - (tHyst s : Int) ≤ s.sup.tj)

/-- THERM_WARN and THERM_SHED. -/
def tickThermal (s : State) : State :=
  let d := [s.sup.tjSensor, wrap 8 s.sup.tj]
  let warn := thermHold s s.sup.thermWarn (tWarn s)
  let shed := thermHold s s.sup.thermShed (tShed s)
  let s := if warn ∧ ¬ s.sup.thermWarn then s.raiseSv 0x66 d else s
  let s := if shed ∧ ¬ s.sup.thermShed then s.raiseSv 0x67 d else s
  s.updSup fun u => { u with thermWarn := warn, thermShed := shed }

/-- THERM_TRIP: the power-down, and its entry in the always-on domain. -/
def tripNow (s : State) : State :=
  let d := [s.sup.tjSensor, wrap 8 s.sup.tj]
  (thermalTrip s).raiseSv 0x68 d

/-! ## Adaptive voltage (R373) -/

/-- AVS_FAULT: cause 0 no acknowledge, 1 readback. -/
def avsFault (cause : Nat) (s : State) : State :=
  (s.updSup fun u => { u with avs := 2, faultEll := s.elapsed }).raiseSv 0x65 [cause, s.sup.vset, s.sup.vread]

/-- step(): VOUT_COMMAND, SETTLE, AVS_STEP; a command that is not acknowledged leaves `vset`. -/
def avsStep (rep : EllReport) (v : Nat) (s : State) : State :=
  if rep.pmbAck then
    let old := s.sup.vset
    let s := s.updSup fun u => { u with vset := v, avs := 1, settleEnd := s.now + settleUs s * 4000, highRd := 0 }
    (s.raiseSv 0x64 [old, v, s.sup.rd]).bump (baseSV + 0x744)
  else avsFault 0 s

/-- A READ_VOUT: none that is not acknowledged, and none more than 15 mV away, is accepted. -/
def readVout (rep : EllReport) (ok : State → State) (s : State) : State :=
  match rep.vout with
  | none => avsFault 0 s
  | some v =>
    let s := s.updSup fun u => { u with vread := v }
    if 15 < ((v : Int) - (s.sup.vset : Int)).natAbs then avsFault 1 s else ok s

/-- The choice of HOLD. -/
def avsHold (rep : EllReport) (s : State) : State :=
  let u := s.sup
  let need := if u.mode = .calibrate then 16 else 8000
  if rdNow s < raiseRd s ∧ u.vset < vMax s then avsStep rep (min (vMax s) (u.vset + upMv s)) s
  else if need ≤ u.highRd ∧ u.tj < (tWarn s : Int) ∧ ¬ u.ovl ∧ vMin s < u.vset then
    avsStep rep (max (vMin s) (u.vset - downMv s)) s
  else s

/-- AVS at a boundary: counts, settling, the retry of FAULT, the periodic READ_VOUT, and above 105 °C `v_max` at once. -/
def tickAvs (rep : EllReport) (s : State) : State :=
  let s := s.updSup fun u =>
    let hi := decide (lowerRd s < rdNow s)
    { u with highRd := if hi then u.highRd + 1 else 0, lowRd := if hi then 0 else u.lowRd + 1 }
  if 105 < s.sup.tj ∧ s.sup.vset < vMax s ∧ s.sup.avs ≠ 2 then avsStep rep (vMax s) s
  else
    match s.sup.avs with
    | 1 =>
      if s.sup.settleEnd ≤ s.now then
        let s := readVout rep (fun s => s.updSup fun u => { u with avs := 0 }) s
        if s.sup.avs = 0 then avsHold rep s else s
      else s
    | 2 =>
      if s.sup.faultEll + 8000 ≤ s.elapsed then
        s.updSup fun u => if rep.pmbAck then { u with avs := 0 } else { u with faultEll := s.elapsed }
      else s
    | _ =>
      let s := if s.elapsed % 8000 = 0 then readVout rep id s else s
      if s.sup.avs = 0 then avsHold rep s else s

/-! ## Pace shortfall (R365, R374) -/

/-- A shortfall of the Ell that has ended. -/
def shortfall (rep : EllReport) (s : State) : Bool :=
  (rep.pace.any fun e => e.2 != 0 && decide (e.2 < 4096)) || s.sup.rcExcess != 0 || s.sup.mfExcess != 0 || s.sup.shortNow

/-- PACE_LOW begins with the first shortfall, and ends after 800 calm Ells. -/
def tickPace (rep : EllReport) (s : State) : State :=
  let short := shortfall rep s
  let calm := if short ∨ rdNow s < raiseRd s then 0 else s.sup.paceCalm + 1
  let s := if short ∧ ¬ s.sup.paceLow then s.raiseSv 0x4D [s.sup.rdSrc, s.sup.rd] else s
  s.updSup fun u => { u with
    paceLow := short || (u.paceLow && decide (calm ≤ 800)), paceCalm := calm, noShort := if short then 0 else min 800 (u.noShort + 1)
    shortNow := false }

/-! ## Retirement of lanes (R354) -/

/-- LANE_RETIRE. -/
def logRetire (block lane spare : Nat) (s : State) : State := (s.raiseSv 0x47 [block, lane, spare]).bump (baseSV + 0x720)

/-- A lane has failed often enough: the spare takes its work, or the unit is retired, or it stays in service. -/
def retireLane (key : Nat) (s : State) : State :=
  let block := key / 64
  let lane := key % 64
  let s := s.updSup fun u => { u with laneFails := tset [] u.laneFails key [], laneErrs := tset [] u.laneErrs key [] }
  match block with
  | 9 =>
    if s.sup.rcSpare = 0 then logRetire 9 lane 1 (s.updSup fun u => { u with rcSpare := 1 })
    else s.updSup fun u => { u with rcSpare := 2 }
  | 10 =>
    if s.sup.scSpare = 0 then logRetire 10 lane 1 (s.updSup fun u => { u with scSpare := 1 })
    else s.updSup fun u => { u with scSpare := 2 }
  | 11 =>
    if s.sup.mfSpare = 0 then logRetire 11 lane 1 (s.updSup fun u => { u with mfSpare := 1 })
    else s.updSup fun u => { u with mfSpare := 2 }
  | 7 =>
    if bit s.sup.ceRetired lane then s
    else logRetire 7 lane 0 (s.updSup fun u => { u with ceRetired := u.ceRetired ||| 2 ^ lane })
  | 8 =>
    if bit s.sup.czRetired lane then s
    else logRetire 8 lane 0 (s.updSup fun u => { u with czRetired := u.czRetired ||| 2 ^ lane })
  | _ => s

/-- Retirements at a boundary: two failed recomputations, or four mismatches, within 8,000 Ells. -/
def tickLanes (s : State) : State :=
  if s.sup.laneErrs.isEmpty then s
  else
    let keep (l : List Nat) : List Nat := l.filter fun e => decide (s.ell < e + 8000)
    let prune (t : Tbl (List Nat)) : Tbl (List Nat) := tmap [] t keep
    let s := s.updSup fun u => { u with laneFails := prune u.laneFails, laneErrs := prune u.laneErrs }
    let due := s.sup.laneErrs.filter fun e => decide (4 ≤ e.2.length) || decide (2 ≤ (tget [] s.sup.laneFails e.1).length)
    due.foldl (fun s e => retireLane e.1 s) s

/-! ## Twin mismatches (R364) -/

/-- NET_SUSPECT once for a period of 8,000 Ells; the sums start again with the next. -/
def tickSuspect (s : State) : State :=
  let thr := max 1 (s.rfld (baseSV + 0x600) 14 0)
  let s :=
    if thr ≤ s.sup.mmSum ∧ ¬ s.sup.mmLogged then
      (s.updSup fun u => { u with mmLogged := true }).raiseSv 0x4C [s.sup.mmSum, s.sup.mmRed, s.sup.mmBlue]
    else s
  if s.elapsed % 8000 = 0 then s.updSup fun u => { u with mmSum := 0, mmRed := 0, mmBlue := 0, mmLogged := false } else s

/-! ## Takeovers (R65, R185, R355) -/

/-- What an in-service core runs in Ell `n`: the structure of its data Ell, and that data Ell (R170). -/
def coreWork (s : State) (n i : Nat) : Option (Recs × Nat) :=
  if stageOf (s.recsAt n) (i / 5) (i % 5) = 1 then some (s.recsAt n, n)
  else if stageOf (s.recsAt (n - 1)) (i / 5) (i % 5) = 2 then some (s.recsAt (n - 1), n - 1)
  else none

/-- The tasks of an in-service core in Ell `n`. -/
def scheduleOf (s : State) (n i : Nat) : List (Nat × List Byte) :=
  match coreWork s n i with
  | some (r, _) => tasksOn r i
  | none => []

/-- In-service cores that carry tasks in Ell `n`, ascending. -/
def coresAt (s : State) (n : Nat) : List Nat :=
  (List.range 80).filter fun i => i % 5 != 4 && ((busyCores (s.recsAt n)).contains i || (busyCores (s.recsAt (n - 1))).contains i)

/-- Whether a delta that reaches a core in Ell `n` removes, replaces or moves a task of its schedule (R65). -/
def deltaBreaks (s : State) (n i : Nat) : Bool :=
  match s.cfg.deltaK with
  | none => false
  | some k =>
    let hit := match coreWork s n i with | some (_, d) => d == k | none => n == k
    hit && (tasksOn s.cfg.recs i).any fun e => recGet s.cfg.next tyTASK e.1 != some e.2

/-- Takeovers that end at a boundary: the core is released, or a delta changes its schedule; a standby core that is frozen
leaves its schedule without TAKEOVER_END. -/
def endTakeovers (n : Nat) (s : State) : State :=
  s.ha.take.foldl (fun s e =>
    let overOn := !s.isFrozen (32 + e.1) || deltaBreaks s n e.1
    let gone := overOn || s.isFrozen (32 + e.2)
    let s := if gone then { s with ha := { s.ha with take := s.ha.take.filter fun x => x != e } } else s
    if overOn then haEvent (e.1 / 5) (32 + e.1) 6 [e.1 % 5] s else s) s

/-- A standby core for the schedule of a frozen core: its holm's own, else that of the nearest powered holm above or below. -/
def standbyFor (s : State) (i : Nat) : Option Nat :=
  if standbyFree s (i / 5) then some (5 * (i / 5) + 4) else remoteStandby s 255 (i / 5)

/-- The frozen cores with a schedule are taken over, or stand uncovered. -/
def tickTakeover (n : Nat) (s : State) : State :=
  let s := endTakeovers n s
  let s := { s with ha := { s.ha with uncovered := [] } }
  if s.sup.frozen.isEmpty then s
  else
    (coresAt s n).foldl (fun s i =>
      if ¬ s.isFrozen (32 + i) ∨ (scheduleOf s n i).isEmpty ∨ (s.ha.take.any fun e => e.1 == i) then s
      else
        match standbyFor s i with
        | some sb => haEvent (i / 5) (32 + sb) 5 [i % 5] { s with ha := { s.ha with take := s.ha.take ++ [(i, sb)] } }
        | none => { s with ha := { s.ha with uncovered := s.ha.uncovered ++ [i] } }) s

/-! ## Overload of the holms (R375, R376, R378) -/

/-- The scale of a holm's reading: only a reading below floor pace scales. -/
def scaleOf (s : State) (h : Nat) : Nat :=
  let r := tget 0 s.ha.pace h
  if 0 < r ∧ r < 4096 then r else 4096

/-- The holm of the core that runs an in-service core's schedule. -/
def runsOn (s : State) (i : Nat) : Nat :=
  match s.ha.take.find? fun e => e.1 == i with
  | some (_, sb) => sb / 5
  | none => i / 5

/-- The scaled finish of some tasks, with the excess of the blocks on which they depend. -/
def scaledFinish (s : State) (i : Nat) (plan : Tbl (Option Nat)) (ts : List (Nat × List Byte)) : Nat :=
  if ts.isEmpty then 0
  else
    cdiv (lastFinish plan (ts.map (·.1)) * 4096) (scaleOf s (runsOn s i)) +
      (if ts.any fun e => bit (tkFlags e.2) 0 then s.sup.rcExcess else 0) +
      (if ts.any fun e => bit (tkFlags e.2) 1 then s.sup.mfExcess else 0)

/-- Spare tasks are refused from the last on until what is left fits. -/
def shedSpare (fin : List (Nat × List Byte) → Nat) :
    List (Nat × List Byte) → List (Nat × List Byte) → List (Nat × List Byte) × List Nat
  | [], left => (left, [])
  | t :: ts, left =>
    if fin left ≤ 125000 then (left, [])
    else
      let (l, r) := shedSpare fin ts (left.filter fun e => e.1 != t.1)
      (l, t.1 :: r)

/-- Standard tasks are delayed from the last on, while what is left does not fit and the window takes them. -/
def shedStandard (fin : List (Nat × List Byte) → Nat) (cost : List Byte → Nat) :
    Nat → List (Nat × List Byte) → List (Nat × List Byte) → List (Nat × List Byte) × List Nat
  | _, [], left => (left, [])
  | room, t :: ts, left =>
    if fin left ≤ 125000 ∨ room < cost t.2 then (left, [])
    else
      let (l, r) := shedStandard fin cost (room - cost t.2) ts (left.filter fun e => e.1 != t.1)
      (l, t.1 :: r)

/-- The scaled charge of a delayed task. -/
def delayCost (s : State) (h : Nat) (b : List Byte) : Nat := cdiv (chargeOf b * 4096) (scaleOf s h)

/-- What a holm's delay window still takes (R376). -/
def delayRoom (s : State) (n h : Nat) : Nat :=
  let sb := 5 * h + 4
  if (takenBy s sb).isSome ∨ s.isFrozen (32 + sb) then 0
  else
    let r := tget 0 s.ha.pace h
    let used := ([0, 1, 2, 3].flatMap fun c =>
      let i := 5 * h + c
      ((scheduleOf s n i).filter fun e => (tget {} s.sup.coreOvl i).delayed.contains e.1).map fun e => delayCost s h e.2).sum
    62500 * (if r = 0 then 4096 else r) / 4096 - used

/-- OVL_ON on the first declaration. -/
def declareOvl (s : State) : State :=
  if s.sup.ovl then s else (s.updSup fun u => { u with ovl := true }).raiseSv 0x60 [s.sup.rdSrc, s.sup.rd]

/-- Storing the overload state of a core. -/
def setOvl (i : Nat) (x : CoreOvl) (s : State) : State := s.updSup fun u => { u with coreOvl := tset {} u.coreOvl i x }

/-- OVL_REFUSE or OVL_DELAY of each task or context newly shed at data Ell `d`. -/
def logShed (code svc d : Nat) (l : List Nat) (s : State) : State :=
  l.foldl (fun s t => s.raise 15 (0xF00 + code) [t, d % 2 ^ 32] svc) s

/-- One core at a boundary: its overload, what it sheds, and the end of it. -/
def coreOverload (n : Nat) (planNew planOld : Tbl (Option Nat)) (s : State) (i : Nat) : State :=
  match coreWork s n i with
  | none => setOvl i {} s
  | some (r, d) =>
    let plan := if d = n then planNew else planOld
    let all := tasksOn r i
    let old := tget {} s.sup.coreOvl i
    let stay (t : Nat) : Bool :=
      (all.any fun e => e.1 == t) && !(s.cfg.deltaK == some d && recGet s.cfg.recs tyTASK t != recGet s.cfg.next tyTASK t)
    let x := { old with refused := old.refused.filter stay, delayed := old.delayed.filter stay }
    if s.ha.uncovered.contains i then setOvl i x (declareOvl s)
    else
      let fin := scaledFinish s i plan
      let full := fin all
      let calm := if full ≤ 125000 ∧ raiseRd s ≤ rdNow s then x.calm + 1 else 0
      if ¬ x.on ∧ full ≤ 125000 then setOvl i {} s
      else if x.on ∧ calmElls s < calm then (setOvl i {} s).raiseSv 0x63 [x.refused.length + x.delayed.length]
      else
        let s := declareOvl s
        let left := all.filter fun e => !x.refused.contains e.1 && !x.delayed.contains e.1
        let (left, ref) := shedSpare fin (left.filter fun e => tkClass e.2 == 2).reverse left
        let s := setOvl i { x with on := true } s
        let std := (left.filter fun e => tkClass e.2 == 1).reverse
        let (_, del) := shedStandard fin (delayCost s (i / 5)) (delayRoom s n (i / 5)) std left
        let s := setOvl i { x with on := true, refused := x.refused ++ ref, delayed := x.delayed ++ del, calm := calm } s
        logShed 0x62 1 d del (logShed 0x61 3 d ref s)

/-! ## Overload of the compression units (R329, R377) -/

/-- Whether the work of a kind exceeds its units: all of it, or its Guarded part, scaled by the unit's gauge. -/
def czOver (s : State) (dec : Bool) (w : List (Nat × List Byte × Nat)) : Bool :=
  let units := ((if dec then [2, 3] else [0, 1]).filter fun u => !bit s.sup.czRetired u).length
  let r := tget 0 s.sup.paceOf 8
  let sc := if 0 < r ∧ r < 4096 then r else 4096
  let (all, g) := czTotals w
  decide (100000 * units * sc < all * 4096) || decide (50000 * units * sc < g * 4096)

/-- Contexts are shed from the last on while what is left is too much. -/
def shedCz (overOn : List (Nat × List Byte × Nat) → Bool) :
    List (Nat × List Byte × Nat) → List (Nat × List Byte × Nat) → List (Nat × List Byte × Nat) × List Nat
  | [], left => (left, [])
  | t :: ts, left =>
    if ¬ overOn left then (left, [])
    else
      let (l, r) := shedCz overOn ts (left.filter fun e => e.1 != t.1)
      (l, t.1 :: r)

/-- One kind of unit: contexts newly refused and newly delayed. -/
def czKindShed (s : State) (dec : Bool) (all : List (Nat × List Byte × Nat)) : List Nat × List Nat :=
  let left := all.filter fun e => !s.cz.refused.contains e.1 && !s.cz.delayed.contains e.1
  let (left, ref) := shedCz (czOver s dec) (left.filter fun e => czClass e.2.1 == 2).reverse left
  let (_, del) := shedCz (czOver s dec) (left.filter fun e => czClass e.2.1 == 1).reverse left
  (ref, del)

/-- The compression units at a boundary. -/
def czOverload (n : Nat) (s : State) : State :=
  let enc := czWork (s.recsAt n) false
  let dec := czWork (s.recsAt n) true
  let live (c : Nat) : Bool := (enc ++ dec).any fun e => e.1 == c
  let s := { s with cz := { s.cz with refused := s.cz.refused.filter live, delayed := s.cz.delayed.filter live } }
  let full := czOver s false enc || czOver s true dec
  let calm := if ¬ full ∧ raiseRd s ≤ rdNow s then s.sup.czCalm + 1 else 0
  if ¬ s.sup.czOn ∧ ¬ full then s
  else if s.sup.czOn ∧ calmElls s < calm then
    let k := s.cz.refused.length + s.cz.delayed.length
    let s := { s with cz := { s.cz with refused := [], delayed := [] } }
    (s.updSup fun u => { u with czOn := false, czCalm := 0 }).raiseSv 0x63 [k]
  else
    let s := declareOvl s
    let (r1, d1) := czKindShed s false enc
    let (r2, d2) := czKindShed s true dec
    let s := { s with cz := { s.cz with refused := s.cz.refused ++ r1 ++ r2, delayed := s.cz.delayed ++ d1 ++ d2 } }
    let s := s.updSup fun u => { u with czOn := true, czCalm := calm }
    logShed 0x62 1 n (d1 ++ d2) (logShed 0x61 3 n (r1 ++ r2) s)

/-- Tasks delayed in the present Ell, with their data Ell. -/
def delayedNow (s : State) (n : Nat) : List (Nat × Nat) :=
  s.sup.coreOvl.flatMap fun e =>
    match coreWork s n e.1 with
    | some (_, d) => e.2.delayed.map fun t => (d, t)
    | none => []

/-- The delays of the last data Ells (R34), and the playouts that are held for them. -/
def noteDelays (n : Nat) (s : State) : State :=
  let now := delayedNow s n
  let at' (d : Nat) : List Nat := delayedAt s d ++ ((now.filter fun e => e.1 == d).map (·.2)).filter fun t => !(delayedAt s d).contains t
  let l := ((List.range 5).map fun k => (n - k, at' (n - k))).filter fun e => !e.2.isEmpty
  let s := s.updSup fun u => { u with delays := l }
  let fed := now.flatMap fun e => chainOf (s.recsAt e.1) (readSlots (s.recsAt e.1) e.2)
  (recsOf (s.recsAt n) tyRX).foldl (fun s e =>
    let held := ((streamSlots e.2).any fun k => fed.contains k) || (fmtOf (rxCtl e.2) == 2 && s.cz.delayed.contains (rxCzCtx e.2))
    let r := s.rx e.1
    if r.heldElls = b2n held then s else s.setRx e.1 { r with heldElls := b2n held }) s

/-- Overload at a boundary: every core, the compression units, and what is delayed. -/
def tickOverload (n : Nat) (s : State) : State :=
  let planNew := planOf (s.recsAt n)
  let planOld := if s.cfg.deltaK = some n then planOf (s.recsAt (n - 1)) else planNew
  let s := (List.range 80).foldl (fun s i =>
    if i % 5 ≠ 4 ∧ ((coresAt s n).contains i ∨ (s.sup.coreOvl.any fun e => e.1 == i)) then coreOverload n planNew planOld s i else s) s
  let s := czOverload n s
  let s := s.updSup fun u => { u with
    ovl := (u.coreOvl.any fun e => e.2.on) || u.czOn || !s.ha.uncovered.isEmpty, rcExcess := 0, mfExcess := 0 }
  noteDelays n s

/-! ## Opening the instances of an Ell (R170, R182-R186, R361, R376) -/

/-- An instance opens in Ell `n`; until an attempt is made its status shows its own core (DESIGN CHOICE, log 31). -/
def openInst (n d k cause : Nat) (b : List Byte) (s : State) : State :=
  s.setTask k { live := true, data := d, inEll := n, stageEnd := s.startOf (n + 1), cause := cause, lastCore := tkOwner b }

/-- Instance `k` is refused: its slots read zero with `c`. -/
def refuseTask (n d k cause : Nat) (r : Recs) (b : List Byte) (s : State) : State :=
  let s := (writeSlots r (k % 4096)).foldl (fun s e => ellRefuse (slotsEll k d) e s) (openInst n d k cause b s)
  finish k 3 (s.bump (haCtr (tkHolm b) 0x228))

/-- What a delayed task reads is kept for its attempts in the next Ell (R34). -/
def keepReads (d t : Nat) (r : Recs) (s : State) : State :=
  (readSlots r t).foldl (fun s e => putSlotWords (keptEll d) e (slotRead s d e) s) s

/-- An instance that is delayed: the Ell in which the delay begins is concealed (R34). -/
def delayTask (n d t : Nat) (r : Recs) (b : List Byte) (s : State) : State :=
  let s := keepReads d t r (openInst n d t 0 b s)
  let first := !(delayedAt s (d - 1)).contains t
  let s := if first then (writeSlots r t).foldl (fun s e => ellConceal d e s) s else s
  let s := finish t (if first then 2 else (s.tstat t).svc) s
  (s.bump (haCtr (tkHolm b) 0x22C)).bump (baseSV + 0x74C)

/-- Instance `k` is concealed without a log entry while its state region is zeroed (R184). -/
def zeroTask (n d k : Nat) (r : Recs) (b : List Byte) (s : State) : State :=
  finish k 2 ((writeSlots r (k % 4096)).foldl (fun s e => ellConceal (slotsEll k d) e s) (openInst n d k 3 b s))

/-- A new or moved task starts from the DATA image of its holm at its state region; words that no DATA record of the
structure covers keep what the holm's data memory holds (R60; DESIGN CHOICE, log 28). -/
def freshState (r : Recs) (t : Nat) (b : List Byte) (s : State) : State :=
  let s := s.setTstat t {}
  match recGet r tyDATA (tkHolm b) with
  | none => s
  | some img =>
    let lo := max (u32 img 0) (tkBase b)
    let hi := min (u32 img 0 + u32 img 4) (tkBase b + tkLen b)
    let ws := ((imageWords img).drop (lo - u32 img 0)).take (hi - lo)
    { s with ha := { s.ha with mem := tsets 0 s.ha.mem (memKey (tkHolm b) lo) ws } }

/-- One task of an in-service core in Ell `n`. -/
def openTask (n d i : Nat) (r : Recs) (s : State) (e : Nat × List Byte) : State :=
  let (t, b) := e
  let x := tget {} s.sup.coreOvl i
  let uncov := s.ha.uncovered.contains i
  let shed (s : State) : State := (refuseTask n d t 0 r b s).bump (baseSV + 0x748)
  let shedNow (s : State) : State := shed (if (s.tstat t).svc = 3 then s else logShed 0x61 3 d [t] s)
  let fresh := s.cfg.deltaK == some d && (recGet s.cfg.recs tyTASK t).map tkHolm != some (tkHolm b)
  let s := if fresh then freshState r t b s else s
  if s.sup.quarantined.contains t then refuseTask n d t 4 r b s
  else if x.refused.contains t then shed s
  else if (s.sup.thermShed ∧ tkClass b = 2) ∨ (uncov ∧ tkClass b ≠ 0) then shedNow s
  else if x.delayed.contains t then delayTask n d t r b s
  else if (s.tstat t).zero ≠ 0 then zeroTask n d t r b s
  else
    let s := openInst n d t 0 b s
    if uncov then abandon t 9 s else s

/-- A delayed instance opens in the Ell after its own (R376). -/
def openDelayed (n d t : Nat) (s : State) : State :=
  let r := s.recsAt d
  match recGet r tyTASK t with
  | none => s
  | some b =>
    if s.sup.quarantined.contains t then refuseTask n d (4096 + t) 4 r b s
    else if (s.tstat t).zero ≠ 0 then zeroTask n d (4096 + t) r b s
    else openInst n d (4096 + t) 0 b s

/-- A delta that reaches data Ell `d` releases the tasks of a stage that it removes or replaces from quarantine (R361). -/
def releaseQuarantine (d stage : Nat) (s : State) : State :=
  if s.cfg.deltaK ≠ some d then s
  else
    s.updSup fun u => { u with quarantined := u.quarantined.filter fun t =>
      !((recGet s.cfg.recs tyTASK t).any fun b => tkStage b == stage && recGet s.cfg.next tyTASK t != some b) }

/-- The instances of Ell `n`. -/
def openInstances (n : Nat) (s : State) : State :=
  let s := releaseQuarantine (n - 1) 2 (releaseQuarantine n 1 s)
  let s := { s with ha := { s.ha with insts := [] } }
  let s := (coresAt s n).foldl (fun s i =>
    match coreWork s n i with
    | some (r, d) => (tasksOn r i).foldl (openTask n d i r) s
    | none => s) s
  let late (stage d : Nat) : List Nat :=
    (delayedAt s d).filter fun t => (recGet (s.recsAt d) tyTASK t).any fun b => tkStage b == stage
  let s := (late 1 (n - 1)).foldl (fun s t => openDelayed n (n - 1) t s) s
  (late 2 (n - 2)).foldl (fun s t => openDelayed n (n - 2) t s) s

/-! ## Sheltered Service and Calibrate (R366, R389, R390) -/

/-- The conditions of Sheltered Service. -/
def shelter (s : State) : Bool :=
  !s.ha.take.isEmpty || s.sup.rcSpare == 2 || s.sup.scSpare == 2 || s.sup.mfSpare == 2 || netDown s 0 || netDown s 1 ||
    s.sup.paceLow || s.tb.st == 3 || (s.rfld baseTB 9 8 == 0 && s.tb.st == 0 && !s.tb.everLocked)

/-- SV_MODE_STATUS.`cal`: bit 0 `cal_avs`, 1 `cal_links`, 2 `cal_ptp`, 3 `cal_pace`. -/
def calNow (s : State) : Nat :=
  let u := s.sup
  let media := [0, 1, 2, 3].filter fun p => npRole s p == 1 || npRole s p == 2
  let ptp := match s.rfld baseTB 9 8 with
    | 0 => s.tb.st == 2
    | 1 => s.tb.ppsOk && !stepPending s
    | _ => true
  b2n (u.avs == 0 && (u.vset == vMin s || decide (16 ≤ u.lowRd))) + 2 * b2n (media.all fun p => (s.port p).link) + 4 * b2n ptp +
    8 * b2n (decide (800 ≤ u.noShort) && decide (raiseRd s ≤ rdNow s))

/-- Calibrate begins: its counts start (R389). -/
def beginCalibrate (s : State) : State :=
  setMode .calibrate 90 (s.updSup fun u => { u with calFrom := s.now, calBits := 0, highRd := 0, lowRd := 0 })

/-- Calibrate ends in Service or Sheltered Service; the packetiser's commit Ell is this one (R389, R390). -/
def enterService (n : Nat) (s : State) : State :=
  let s := setMode (if shelter s then .sheltered else .service) 90 s
  startTxFrom n (s.updSup fun u => { u with passThru := false })

/-! ## The choice of the mode (R388) -/

/-- Whether a cause is still one for the present mode (R386, R387). -/
def reqValid (s : State) (q : ModeReq) : Bool :=
  let m := s.sup.mode
  match q.rank with
  | 50 => !(m == .off || m == .standby || m == .boot || m == .test || m == .recovery || m == .lockdown)
  | 60 => requestAllowed m 5 == 1
  | 61 => requestAllowed m 2 == 1
  | 62 => requestAllowed m 1 == 1
  | 63 => requestAllowed m 3 == 1
  | 64 => requestAllowed m 4 == 1
  | 70 => m == .configure || m == .calibrate || m == .service || m == .sheltered || m == .reconfigure
  | _ =>
    match q.goTo with
    | .configure => m == .boot || m == .recovery
    | .calibrate => m == .configure
    | .service => m == .calibrate
    | _ => false

/-- The pipeline stops for Test (R399). -/
def stopPipeline (s : State) : State := { s with ha := { s.ha with cores := [], insts := [], take := [], uncovered := [] } }

/-- The cause that acts. -/
def actReq (n : Nat) (q : ModeReq) (s : State) : State :=
  match q.rank with
  | 50 => enterRecovery 50 s
  | 60 => bootReset 8 60 s
  | 61 => startDown .off 61 s
  | 62 => startDown .standby 62 s
  | 63 => setMode .test 63 (stopPipeline s)
  | 64 => enterRecovery 64 s
  | 70 => setMode .debug 70 s
  | 80 => setMode q.goTo 80 s
  | _ =>
    match q.goTo with
    | .calibrate => beginCalibrate s
    | .service => enterService n s
    | goTo => setMode goTo 90 s

/-- The Service and Sheltered Service choice as a cause. -/
def shelterReq (s : State) : List ModeReq :=
  if s.sup.mode = .service ∧ shelter s then [{ rank := 80, goTo := .sheltered, cause := 80 }]
  else if s.sup.mode = .sheltered ∧ ¬ shelter s then [{ rank := 80, goTo := .service, cause := 80 }]
  else []

/-- The first of some causes in the order of R388. -/
def firstReq : List ModeReq → Option ModeReq
  | [] => none
  | q :: r =>
    match firstReq r with
    | some x => if x.rank < q.rank then some x else some q
    | none => some q

/-- The mode changes of a boundary; host requests that do not act read SUPERSEDED. -/
def tickMode (n : Nat) (s : State) : State :=
  let s := if s.sup.mode = .calibrate then s.updSup fun u => { u with calBits := calNow s } else s
  let done : List ModeReq :=
    if s.sup.mode = .calibrate ∧ s.sup.calBits = 15 ∧ s.sup.calFrom < s.now then [{ rank := 90, goTo := .service, cause := 90 }] else []
  let all := s.sup.reqs
  let s := s.updSup fun u => { u with reqs := [] }
  match firstReq ((all.filter (reqValid s)) ++ shelterReq s ++ done) with
  | none => s
  | some q =>
    let lost := (all.erase q).any fun x => x.host
    let s := if lost ∧ q.rank ≠ 60 then modeResult 3 s else s
    actReq n q s

end Sys2Proof.Machine
end

