-- ==== Sys2Proof/Machine/Ticks.lean ====
section
/-! DEFINITION. The ticks of R339: the Ell boundary and the playout start, and the renumbering of a realignment (R338). -/

namespace Sys2Proof.Machine

/-! ## Realignment (R338) -/

/-- A count of elapsed Ells moved by `j`; zero means none. -/
def moveEll (j : Int) (n : Nat) : Nat := if n = 0 then 0 else max 1 ((n : Int) + j).toNat

/-- A number of an Ell moved by `j`. -/
def shiftEll (j : Int) (n : Nat) : Nat := ((n : Int) + j).toNat

/-- What the Supervisor remembers of past Ells counts elapsed Ells. -/
def renumberSup (j : Int) (u : Sup) : Sup :=
  let ells (t : Tbl (List Nat)) : Tbl (List Nat) := tmap [] t fun l => l.map (shiftEll j)
  { u with
    faultElls := ells u.faultElls, laneFails := ells u.laneFails, laneErrs := ells u.laneErrs
    blkViol := tmap 0 u.blkViol (moveEll j)
    bist := u.bist.map fun e => (e.1, shiftEll j e.2)
    hsLog := u.hsLog.map fun e => (shiftEll j e.1, e.2)
    hsResets := u.hsResets.map fun e => (e.1, shiftEll j e.2)
    delays := u.delays.map fun e => (shiftEll j e.1, e.2) }

/-- Ramps count elapsed Ells. -/
def renumberMf (j : Int) (m : MixF) : MixF :=
  { m with
    doneEll := 0
    pend := m.pend.map fun e => (e.1, shiftEll j e.2)
    xp := tmap {} m.xp fun x => { x with ramp := x.ramp.map fun r => { r with s := shiftEll j r.s } } }

/-- A task's gap and its zeroing count elapsed Ells. -/
def renumberTask (j : Int) (x : TaskStat) : TaskStat := { x with last := moveEll j x.last, zero := moveEll j x.zero }

/-- What the packetiser has collected counts on; groups are placed by the new numbers. -/
def renumberTx (j : Int) (x : TxStream) : TxStream :=
  { x with fromEll := shiftEll j x.fromEll, acc := x.acc.map fun e => (shiftEll j e.1, e.2) }

/-- The sample count of a local port's FIFO follows the media clock. -/
def renumberPort (j : Int) (s : State) (e : Nat × LPort) : State :=
  match s.recNow tyLOCAL e.1 with
  | some b => s.setLport e.1 { e.2 with idx := ((e.2.idx : Int) + j * kRate (lpRate b)).toNat }
  | none => s

/-- After a realignment by `j` the next Ell is numbered n + 1 + J: what counts elapsed Ells counts it as the next one. -/
def renumber (j : Int) (s : State) : State :=
  let s := s.host.ports.foldl (renumberPort j) s
  let s := s.updCfg fun c => { c with deltaK := c.deltaK.map (shiftEll j) }
  { s with
    sup := renumberSup j s.sup
    mf := renumberMf j s.mf
    rc := { s.rc with doneEll := moveEll j s.rc.doneEll }
    se := { s.se with tx := tmap {} s.se.tx (renumberTx j) }
    ha := { s.ha with stat := tmap {} s.ha.stat (renumberTask j) } }

/-- The realignment at a boundary whose old number is `n`: one that is due takes effect and a COMMIT that waited for it gets its
target; then one that is asked for is decided (R337, R338). -/
def tickRealign (n : Nat) (s : State) : State :=
  match realignDue n s with
  | some (j, r) =>
    let s := renumber j (takeRealign j r s)
    if s.load.st = 4 ∧ s.load.wait then s.updLoad fun l => { l with k := targetEll s s.ell, wait := false } else s
  | none => decideRealign n s

/-! ## ELL_TICK -/

/-- What the blocks do in Ell `n`, in the order of R18. -/
def tickPipeline (n : Nat) (rep : EllReport) (s : State) : State :=
  let s := localTick n rep.gpio.toNat s
  if ¬ s.audioOn then s
  else
    let s := (recsOf (s.recsAt n) tyRX).foldl tickStream s
    let s := gatherAll n s
    let s := rcTick n rep.rcBad rep.sinks s
    let s := scanTick n rep.scBad s
    let s := if n = 0 then s else formMix (n - 1) rep.mixBad s
    openInstances n s

/-- The Supervisor's decisions at E_n that need its firmware. -/
def tickPolicy (n : Nat) (rep : EllReport) (s : State) : State :=
  let s := tickRelease (tickDest (tickSuspect (tickLanes (tickPace rep (tickAvs rep (tickThermal s))))))
  if s.audioOn then tickOverload n (tickTakeover n s) else s

/-- Modes in which the blocks do not run at all (R386, R401). -/
def stopped (m : Mode) : Bool := m == .off || m == .standby || m == .lockdown

/-- The RS-FEC counters of the ports (R87). -/
def tickFec (rep : EllReport) (s : State) : State :=
  rep.fec.foldl (fun s e => (s.bumpBy (baseNP e.1.val + 0x248) e.2.1).bumpBy (baseNP e.1.val + 0x24C) e.2.2) s

/-- The tick at E_n: deadlines, realignment, the log, measurements, policy, deltas, the mode, and the work of the Ell. -/
def ellTick (rep : EllReport) (s : State) : State :=
  let n0 := s.ell
  if s.sup.tickEll = n0 + 1 ∨ stopped s.sup.mode then s
  else
    let s := applyDelta (settleStage s)
    let s := tickRealign n0 s
    let n := s.ell
    let s := tickLog (applyDelta (s.updSup fun u => { u with tickEll := n + 1 }))
    let s := tickMeasure rep (tickFec rep s)
    if (tTrip s : Int) ≤ s.sup.tj then tripNow s
    else
      let s := if s.sup.fwOk then tickPolicy n rep s else s
      let s := tickMode n (commitDelta s)
      tickPipeline n rep (s.updSup fun u => { u with tickEll := n + 1 })

/-- ELL_TICK (R339). -/
def execEllTick (t : Gts) (rep : EllReport) : State → Host.Outcome State Fault Refusal := act t (ellTick rep)

/-! ## PLAYOUT_START -/

/-- Playout of data Ell `n` under the structure that owns it: the numbers are those of the new numbering once a realignment
has been decided (R338). -/
def playout (n : Nat) (bad : List LaneBad) (s : State) : State :=
  let j : Int := match s.tb.realign with | some (j, _, at') => if at' ≤ s.ell + 1 then j else 0 | none => 0
  let s := s.updCfg fun c => { c with deltaK := c.deltaK.map (shiftEll j) }
  let s := rcPlayout n bad (localPlayout n (playAll n (deltaPlayout n s)))
  s.updCfg fun c => { c with deltaK := c.deltaK.map (shiftEll (-j)) }

/-- PLAYOUT_START (R18, R339): 40,000 grains before E_n. -/
def playoutStart (bad : List LaneBad) (s : State) : State :=
  let n := s.aheadEll 40000
  if s.se.playEll = n + 1 then s
  else
    let s := if s.audioOn then playout n bad s else s
    { s with se := { s.se with playEll := n + 1 } }

def execPlayoutStart (t : Gts) (bad : List LaneBad) : State → Host.Outcome State Fault Refusal := act t (playoutStart bad)

end Sys2Proof.Machine
end

