-- ==== Sys2Proof/Machine/Bus.lean ====
section
/-! DEFINITION. Bus accesses: what a write of each BAR0 offset does and what a read of it returns (R5-R7, R422-R429,
R441-R443, R447, and the register tables of the owning chapters). -/

namespace Sys2Proof.Machine

/-! ## Writes -/

/-- The event register that an event or enable register belongs to (R429). -/
def evOf (off : Nat) : Option Nat :=
  let b := blkOf off
  let o := off - b.base
  if evVectors b.base ≠ [] ∧ (o = 0x104 ∨ o = 0x108) then some (b.base + 0x104) else none

/-- A write of an event or enable register: the vector is signalled again if the AND stays nonzero (R429). Clearing
`wake_match` clears NP_STATUS.`wake` (R86). -/
def evStore (m : Master) (off v evOff : Nat) (s : State) : State :=
  let s := storeReg m off v s
  let s :=
    match blkOf off with
    | .np p => if off = evOff ∧ bit v 4 then s.updPort p fun x => { x with wake := false } else s
    | _ => s
  s.signalEv evOff fun _ => true

/-- The bytes of a word written to a byte window. -/
def putBytes (t : Tbl Byte) (i v : Nat) : Tbl Byte := tsets 0 t i (toLe 4 v)

/-- Whether the staging window, SV_CFG_LEN and SV_CFG_TARGET take a write from a master (R57). -/
def mayStage (m : Master) (s : State) : Bool := !loading s.load || s.load.owner == m

/-- Whether a slot is a host slot that a write arriving now reaches (R441, R442). -/
def hostSlot (s : State) (obj slot : Nat) : Bool :=
  let n := s.aheadOld 40000 + (if obj = 0x31 then 1 else 0)
  (s.recAt n tyLOCAL obj).any fun b => decide (hsFirst b ≤ slot) && decide (slot < hsFirst b + hsCount b)

/-- The windows that take requests of several dwords (R425). -/
def isWide (off : Nat) : Bool :=
  decide (0xF00000 ≤ off) || (decide (0x4C0000 ≤ off) && decide (off < 0x500000)) ||
    (decide (0x600000 ≤ off) && decide (off < 0x800000))

/-- A word stored into one of those windows. -/
def wideStore (m : Master) (off : Nat) (w : Word) (s : State) : State :=
  if 0xF00000 ≤ off then
    if mayStage m s then { s with staging := tset 0 s.staging ((off - 0xF00000) / 4) w } else s
  else if 0x600000 ≤ off then coefStore off w s
  else if 0x4E0000 ≤ off then
    let k := (off - 0x4E0000) / 4 + 8 * 12288
    if hostSlot s 0x32 (k / 8) ∧ k % 8 < 6 then s.updHost fun h => { h with slotInt := tset 0 h.slotInt k w } else s
  else
    let k := (off - 0x4C0000) / 4
    if hostSlot s 0x31 (k / 8) ∧ k % 8 < 6 then s.updHost fun h => { h with slotIn := tset 0 h.slotIn k w } else s

/-- A write of a ring's BASE and CFG: while `en` is set only `en`, `coal_n` and `coal_us` change (R447). -/
def ringStore (m : Master) (off v : Nat) (s : State) : State :=
  let r := (off - baseHP - 0x1000) / 0x40
  if ¬ ringOn s r then storeReg m off v s
  else if off % 0x40 = 8 then
    let old := s.reg off
    storeReg m off (fld v 31 31 * 2 ^ 31 + fld old 30 16 * 2 ^ 16 + fld v 15 0) s
  else s

/-- NP_WDOG: a `release` of zero leaves that field unchanged (R86). -/
def wdogStore (m : Master) (off v : Nat) (s : State) : State :=
  storeReg m off (if fld v 31 16 = 0 then fld (s.reg off) 31 16 * 2 ^ 16 + fld v 15 0 else v) s

/-- A write without an operation of its own, once it is allowed. -/
def plainWrite (m : Master) (off : Nat) (w : Word) (s : State) : State :=
  let v := w.toNat
  if isWide off then wideStore m off w s
  else if 0x14000 ≤ off ∧ off < 0x16000 then s.updTrust fun t => { t with xfer := putBytes t.xfer (off - 0x14000) v }
  else if baseCE + 0x1000 ≤ off ∧ off < baseCE + 0x1200 then
    s.updCe fun e => { e with xfer := putBytes e.xfer (off - baseCE - 0x1000) v }
  else if off = baseSV + 0x404 ∨ off = baseSV + 0x408 then (if mayStage m s then storeReg m off v s else s)
  else
    match evOf off with
    | some e => evStore m off v e s
    | none =>
      match blkOf off with
      | .hp =>
        if baseHP + 0x1000 ≤ off ∧ off < baseHP + 0x1400 then ringStore m off v s else storeReg m off v s
      | .np p =>
        if off = baseNP p + 0x38 then wdogStore m off v s
        else if off = baseNP p + 0x48 ∧ ¬ bit v 0 then storeReg m off v (leaveLpi p s)
        else storeReg m off v s
      | _ => storeReg m off v s

/-- QF_CTRL (R137). -/
def qfCtrl (m : Master) (v : Nat) : State → State :=
  let q := fld v 14 8
  match v % 16 with
  | 1 => opImmediateFlush (.bus m) q
  | 2 => opBoundaryFlush (.bus m) q
  | 3 => opMark (.bus m) q
  | 4 => opRelease (.bus m) q
  | 5 => opRewind (.bus m) q
  | _ => guardWrite m baseQF id

/-- SV_CFG_CTRL (R57). -/
def cfgCtrl (m : Master) (v : Nat) : State → State :=
  match v % 16 with
  | 1 => opBegin m
  | 2 => opPushPiece m
  | 3 => opFinish m
  | 4 => opCommit m
  | 5 => opAbort m
  | _ => guardWrite m (baseSV + 0x400) id

/-- MF_CTRL (R289). -/
def mfCtrl (m : Master) (v : Nat) : State → State :=
  match v % 16 with
  | 1 => opSwap m
  | 2 => opForce m
  | 3 => opCancel m
  | _ => guardWrite m baseMF id

/-- SV_FW_CTRL (R369). -/
def fwCtrl (m : Master) (v : Nat) : State → State :=
  match v % 16 with
  | 1 => opUnfreeze m (fld v 31 24)
  | 2 => opClearViol m (fld v 31 24)
  | _ => guardWrite m (baseSV + 0x604) id

/-- TB_CTRL (R348). -/
def tbCtrl (m : Master) (v : Nat) : State → State :=
  match v % 16 with
  | 1 => opRealign m
  | 2 => opSetTod m
  | _ => guardWrite m (baseTB + 0x10) id

/-- A write of one word by one master. Registers whose write performs an operation call that operation. -/
def writeWord (m : Master) (off : Nat) (w : Word) : State → State :=
  let v := w.toNat
  if off = baseTR then trOp m (v % 16) (fld v 23 16) (fld v 15 8)
  else if off = baseSV + 0x400 then cfgCtrl m v
  else if off = baseSV + 0x604 then fwCtrl m v
  else if off = baseSV + 0x894 then opLogRd m v
  else if off = baseSV + 0xA00 then
    (if 1 ≤ v % 16 ∧ v % 16 ≤ 6 then opMode m (v % 16) (fld v 15 8) else guardWrite m off id)
  else if off = baseTB + 0x10 then tbCtrl m v
  else if off = baseQF then qfCtrl m v
  else if off = baseCE then
    (if 1 ≤ v / 2 ^ 28 ∧ v / 2 ^ 28 ≤ 7 then opCeCmd m (v / 2 ^ 28) (fld v 26 26) (fld v 25 24) (fld v 15 0)
     else guardWrite m off id)
  else if baseCE + 0x10 ≤ off ∧ off < baseCE + 0x20 ∧ off % 4 = 0 then opLock m ((off - baseCE - 0x10) / 4) v
  else if off = baseRC then (if v % 16 = 1 then opRcReset m (fld v 15 8) else guardWrite m off id)
  else if off = baseMF then mfCtrl m v
  else if off = baseHP + 0x10 then opTest m (v % 16) (fld v 15 8)
  else if baseHP + 0x1000 ≤ off ∧ off < baseHP + 0x1400 ∧ off % 0x40 = 0xC then opTail m ((off - baseHP - 0x1000) / 0x40) v
  else guardWrite m off (plainWrite m off w)

/-- A write of one word. The fuse array is reached through TR_CTRL alone (R404, R421). -/
def busWord (m : Master) (off : Nat) (w : Word) (s : State) : State :=
  if off = baseTR then writeWord m off w s else { writeWord m off w s with fuses := s.fuses }

/-- `partial_wr` (R425). -/
def partialWr (s : State) : State := s.bump (baseHP + 0x21C)

/-- A write request of a master (R425). A PCIe request addresses whole dwords. -/
def busWrite (m : Master) (off : Nat) (allBytes : Bool) (data : List Word) (s : State) : State :=
  if m = .host then
    let off := off / 4 * 4
    let ws := (data.zipIdx).map fun e => (off + 4 * e.2, e.1)
    if ¬ allBytes then { guardAll m (ws.map (·.1)) partialWr s with fuses := s.fuses }
    else
      match data with
      | [w] => busWord m off w s
      | _ =>
        { guardAll m (ws.map (·.1)) (fun s =>
            if ws.all fun e => isWide e.1 then ws.foldl (fun s e => wideStore m e.1 e.2 s) s else partialWr s) s
          with fuses := s.fuses }
  else (data.zipIdx).foldl (fun s e => busWord m (off + 4 * e.2) e.1 s) s

/-- REGISTER_WRITE. -/
def execRegisterWrite (t : Gts) (m : Master) (off : Off) (allBytes : Bool) (data : List Word) :
    State → Host.Outcome State Fault Refusal :=
  actTrust t (busWrite m off.toNat allBytes data)

/-- EVENT_WRITE (R429). -/
def execEventWrite (t : Gts) (m : Master) (off : Off) (v : Word) : State → Host.Outcome State Fault Refusal :=
  act t fun s =>
    match evOf off.toNat with
    | some e => guardWrite m off.toNat (evStore m off.toNat v.toNat e) s
    | none => s

/-! ## Reads -/

/-- Word `o / 4` of a run of bytes, zero beyond its end. -/
def wordAt (l : List Byte) (o : Nat) : Nat := u32 l (o / 4 * 4)

/-- An entry of a table of record bodies, `size` bytes each, at byte `o` of its window. -/
def bodyAt (s : State) (ty size o : Nat) : Nat :=
  match s.recNow ty (o / size) with
  | some b => wordAt b (o % size)
  | none => 0

/-- The event log window (R383). -/
def logEntryBytes (e : LogEntry) : List Byte :=
  if e.ev.code = 0 then []
  else
    toLe 8 e.ev.gts ++ toLe 1 e.ev.source ++ toLe 1 e.ev.svc ++ toLe 2 e.ev.code ++ toLe 4 e.seq ++
      (List.range 4).flatMap fun i => toLe 4 (e.ev.d.getD i 0)

/-- The reading of an event register and its enable, as GL_IRQ_SUM0 shows it. -/
def pendingBit (s : State) (base mask i : Nat) : Nat := b2n (s.evAnd (base + 0x104) mask ≠ 0) * 2 ^ i

/-- Global block (R426). -/
def readGL (s : State) (o : Nat) : Nat :=
  match o with
  | 0x0 => glId
  | 0x4 => pstate s * 16 + s.sup.mode.code
  | 0x8 =>
    let all := 0xFFFFFFFF
    pendingBit s (baseNP 0) all 0 + pendingBit s (baseNP 1) all 1 + pendingBit s (baseNP 2) all 2 + pendingBit s (baseNP 3) all 3
      + pendingBit s baseSE all 4 + pendingBit s baseQF all 6 + pendingBit s baseCE all 7 + pendingBit s baseCZ all 8
      + pendingBit s baseRC 0xFFFF 9 + pendingBit s baseRC 0xFFFF0000 10 + pendingBit s baseMF all 11
      + pendingBit s baseTB all 12 + pendingBit s baseHP 0xFF 13 + pendingBit s baseHP 0xFF00 14 + pendingBit s baseSV all 15
      + pendingBit s baseTR all 16
  | 0xC =>
    ((List.range 16).map fun i => b2n ((s.ring i).wb ≠ 0) * 2 ^ (16 + i) + pendingBit s (baseHA i) 0xFFFFFFFF i).sum
  | _ => s.reg o

/-- Trust Block (R421). -/
def readTR (s : State) (o : Nat) : Nat :=
  match o with
  | 0x4 => trResultWord s
  | 0x8 => trStateWord s
  | 0xC => s.trust.bootSlot * 2 ^ 8 + s.trust.errA * 16 + s.trust.errB
  | 0x10 => trLeft s
  | _ =>
    if 0x200 ≤ o ∧ o < 0x220 then wordAt (nonceNow s) (o - 0x200)
    else if 0x1000 ≤ o ∧ o < 0x17A0 then (if s.trust.idReady ∧ ¬ s.trust.idErased then wordAt idKey (o - 0x1000) else 0)
    else if 0x2000 ≤ o ∧ o < 0x2E40 then wordAt s.trust.report (o - 0x2000)
    else if 0x4000 ≤ o then 0
    else s.reg (baseTR + o)

/-- Tasks refused now under overload or for heat, and tasks delayed (R375, R379, R383). -/
def tasksRefused (s : State) : List Nat :=
  let ts := recsOf s.cfg.recs tyTASK
  let heat := if s.sup.thermShed then (ts.filter fun e => tkClass e.2 == 2).map (·.1) else []
  let bare := (ts.filter fun e => tkClass e.2 != 0 && s.ha.uncovered.contains (tkOwner e.2)).map (·.1)
  ((s.sup.coreOvl.flatMap fun e => e.2.refused) ++ heat ++ bare).eraseDups

def tasksDelayed (s : State) : List Nat := (s.sup.coreOvl.flatMap fun e => e.2.delayed).eraseDups

/-- SV_FROZEN0-3. -/
def frozenWord (s : State) (j : Nat) : Nat := ((List.range 32).map fun i => b2n (s.isFrozen (32 * j + i)) * 2 ^ i).sum

/-- Supervisor (R57, R369, R383, R403). -/
def readSV (s : State) (o : Nat) : Nat :=
  let u := s.sup
  match o with
  | 0x40C => cfgStatus s
  | 0x410 => s.cfg.hdr.configId % 2 ^ 32
  | 0x414 => s.cfg.hdr.configId / 2 ^ 32
  | 0x418 => s.cfg.commitEll
  | 0x608 => u.fwResult * 2 ^ 28 + u.fwSource
  | 0x60C => u.violAddr
  | 0x610 => u.violInfo
  | 0x620 => frozenWord s 0
  | 0x624 => frozenWord s 1
  | 0x628 => frozenWord s 2
  | 0x62C => frozenWord s 3
  | 0x630 => u.rcSpare * 2 ^ 24 + u.scSpare * 2 ^ 20 + u.mfSpare * 2 ^ 16 + u.ceRetired * 2 ^ 8 + u.czRetired
  | 0x634 => u.netLost * 2 ^ 16 + (recsOf s.cfg.recs tyFIREWALL).length
  | 0x880 => u.avs * 2 ^ 29 + satN 10 u.vread * 2 ^ 16 + u.vset
  | 0x884 => u.rdSrc * 2 ^ 16 + satN 16 u.rd
  | 0x888 => u.tjSensor * 2 ^ 8 + wrap 8 u.tj
  | 0x88C =>
    b2n u.ovl * 2 ^ 31 + b2n u.thermShed * 2 ^ 30 + (tasksRefused s).length * 2 ^ 16 + (tasksDelayed s).length
  | 0x890 => s.log.wr
  | 0x894 => s.rfld (baseSV + 0x894) 25 16 * 2 ^ 16 + s.log.rd
  | 0xA08 =>
    u.prev.code * 2 ^ 28 + pstate s * 2 ^ 26 + u.calBits % 16 * 2 ^ 22 + u.result * 2 ^ 16 + u.bootErr * 2 ^ 12 +
      satN 8 (u.recov.filter fun g => decide (s.now < g + 600 * sec)).length
  | 0xA0C => u.resetCause
  | _ =>
    if 0x1000 ≤ o ∧ o < 0x2000 then bodyAt s tyFIREWALL 16 (o - 0x1000)
    else if 0x8000 ≤ o then wordAt (logEntryBytes (tget {} s.log.entries ((o - 0x8000) / 32))) (o % 32)
    else s.reg (baseSV + o)

/-- Time Base (R348, R349). -/
def readTB (s : State) (o : Nat) : Nat :=
  match o with
  | 0x20 => s.now % 2 ^ 32
  | 0x24 => s.tb.gtsHi.toNat
  | 0x28 => s.tb.ellLo.toNat
  | 0x2C => s.tb.ellHi.toNat
  | 0x100 => tbStatus s
  | _ => if 0x1000 ≤ o ∧ o < 0x1040 then ptpWord s ((o - 0x1000) / 32) (o % 32 / 4) else s.reg (baseTB + o)

/-- A network port (R86). -/
def readNP (s : State) (p o : Nat) : Nat :=
  match o with
  | 0x100 => npStatus s p
  | 0x10C => npGclState s p
  | _ => if 0x1000 ≤ o ∧ o < 0x1800 then npGcl s p (o - 0x1000) else s.reg (baseNP p + o)

/-- Stream Engine (R118-R120). -/
def readSE (s : State) (o : Nat) : Nat :=
  if o = 0x100 then seStatus s
  else if o < 0x10000 then s.reg (baseSE + o)
  else if o < 0x20000 then bodyAt s tyRX 64 (o - 0x10000)
  else if o < 0x30000 then bodyAt s tyTX 64 (o - 0x20000)
  else if o < 0x34000 then bodyAt s tyDIRECT 64 (o - 0x30000)
  else if o < 0x38000 then rxStat s ((o - 0x34000) / 16) (o % 16 / 4)
  else if o < 0x39000 then txStat s ((o - 0x38000) / 4)
  else if o < 0x3D000 then chStat s ((o - 0x39000) / 4)
  else 0

/-- Queue Fabric (R137, R138). -/
def readQF (s : State) (o : Nat) : Nat :=
  let built := recsOf s.cfg.recs tyQUEUE
  match o with
  | 0x4 => s.qfResult
  | 0x100 => (built.filter fun e => (s.queue e.1).pfcOn).length * 2 ^ 16 + built.length
  | _ =>
    if 0x1000 ≤ o ∧ o < 0x1600 then qStatus s ((o - 0x1000) / 16) (o % 16 / 4)
    else if 0x2000 ≤ o ∧ o < 0x2C00 then bodyAt s tyQUEUE 32 (o - 0x2000)
    else s.reg (baseQF + o)

/-- CE_LOCKn (R310). -/
def lockWord (s : State) (n : Nat) : Nat :=
  match (s.lane n).owner with
  | some o => 2 ^ 31 + o * 2 ^ 16
  | none => 0xFF * 2 ^ 16

/-- Cipher Engine (R310, R311). -/
def readCE (s : State) (o : Nat) : Nat :=
  let cmd := s.ce.cmd
  match o with
  | 0xC => s.ce.result * 2 ^ 28 + b2n cmd.isSome * 2 ^ 27 + ((cmd.map (·.ctx)).getD s.ce.resCtx)
  | 0x100 =>
    let keyed := (recsOf s.cfg.recs tyCIPHER).filter fun e => usable (s.ctx e.1).s0 || usable (s.ctx e.1).s1
    ((List.range 4).map fun n => b2n (s.lane n).owner.isSome * 2 ^ n).sum * 2 ^ 28 + s.sup.ceRetired * 2 ^ 24 +
      satN 12 keyed.length
  | _ =>
    if 0x10 ≤ o ∧ o < 0x20 then lockWord s ((o - 0x10) / 4)
    else if 0x1000 ≤ o ∧ o < 0x1200 then leNat (tgets 0 s.ce.xfer (o - 0x1000) 4)
    else if 0x2000 ≤ o ∧ o < 0x3000 then wordAt (ceSaWindow s ((o - 0x2000) / 128)) (o % 128)
    else if 0x8000 ≤ o then ceStatWord s ((o - 0x8000) / 16) (o % 16 / 4)
    else s.reg (baseCE + o)

/-- Rate Chain and Scanner (R164, R165). -/
def readRC (s : State) (o : Nat) : Nat :=
  match o with
  | 0x100 => rcStatus s
  | 0x110 => satN 16 s.rc.hcLast
  | _ =>
    if 0x2000 ≤ o ∧ o < 0x4000 then bodyAt s tyRATE 32 (o - 0x2000)
    else if 0x4000 ≤ o ∧ o < 0x5000 then rcStat s ((o - 0x4000) / 16) (o % 16 / 4)
    else if 0x8000 ≤ o ∧ o < 0xA000 then bodyAt s tySCANSET 1024 (o - 0x8000)
    else s.reg (baseRC + o)

/-- Mix Fabric (R289, R290). -/
def readMF (s : State) (o : Nat) : Nat :=
  match o with
  | 0x4 => mfBank s
  | 0x8 => s.mf.swapEll % 2 ^ 32
  | 0xC => ((s.mf.pend.map (·.2)).getD 0) % 2 ^ 32
  | 0x100 => mfStatus s
  | 0x110 => satN 16 s.mf.hcLast
  | _ => if 0x8000 ≤ o then busStatWord s ((o - 0x8000) / 8) (o % 8 / 4) else s.reg (baseMF + o)

/-- Lock bits of `n` local ports from a code on. -/
def lockBits (s : State) (code n : Nat) : Nat := ((List.range n).map fun i => b2n (s.lport (code + i)).locked * 2 ^ i).sum

/-- Host and local ports (R447, R448). -/
def readHP (s : State) (o : Nat) : Nat :=
  match o with
  | 0x8 => s.host.gpioIn.toNat
  | 0x14 => s.host.testResult * 2 ^ 28 + s.host.testItem
  | 0x100 => b2n (s.isFrozen 13) * 2 ^ 16 + lockBits s 0x20 2 * 2 ^ 12 + lockBits s 0x10 4 * 2 ^ 8 + lockBits s 0 8
  | _ =>
    if 0x1000 ≤ o ∧ o < 0x1400 then
      let r := (o - 0x1000) / 0x40
      match o % 0x40 with
      | 0xC => (s.ring r).tail
      | 0x10 => (s.ring r).head
      | _ => s.reg (baseHP + o)
    else if 0x3000 ≤ o ∧ o < 0x3100 then wordAt (s.lport ((o - 0x3000) / 32)).cs (o % 32)
    else s.reg (baseHP + o)

/-- A holm (R188). -/
def readHA (s : State) (h o : Nat) : Nat :=
  match o with
  | 0x0 => haCfg s h
  | 0x100 => haStatus s h
  | 0x110 => tget 0 s.ha.pace h
  | _ => if 0x120 ≤ o ∧ o < 0x134 then haCore s (5 * h + (o - 0x120) / 4) else s.reg (baseHA h + o)

/-- MF_SRCTAB: the source entry at a crosspoint index (R273). -/
def srcTab (s : State) (x : Nat) : Nat :=
  match (recsOf s.cfg.recs tyBUS).find? fun e => decide (buFirst e.2 ≤ x) && decide (x < buFirst e.2 + buN e.2) with
  | some (_, b) => wordAt b (0x10 + 4 * (x - buFirst b))
  | none => 0

/-- A word of a holm's data memory as the aperture shows it (R424). What a library task keeps in its private words is open (R251). -/
def holmWord (s : State) (h addr : Nat) : Nat :=
  match libPrivate s h addr with
  | some (t, off, last) => (Config.privateWord t off last).toNat * 16
  | none => memWord s h addr

/-- The memory windows of R423, and the aperture of R424. -/
def readMem (s : State) (off : Nat) : Nat :=
  if off < 0x480000 then
    let o := off - 0x400000
    if o % 32 / 4 < 6 then s.ellGet s.ell (o / 32) (o % 32 / 4) else 0
  else if off < 0x490000 then taskStat s ((off - 0x480000) / 16) (off % 16 / 4)
  else if off < 0x4B0000 then ((tget [] s.rc.results ((off - 0x490000) / 32)).getD (off % 32 / 4) 0) % 2 ^ 32
  else if off < 0x4C0000 then bodyAt s tyBUS 16 (off - 0x4B0000)
  else if off < 0x4E0000 then (tget 0 s.host.slotIn ((off - 0x4C0000) / 4)).toNat
  else if off < 0x500000 then (tget 0 s.host.slotInt ((off - 0x4E0000) / 4 + 8 * 12288)).toNat
  else if off < 0x580000 then srcTab s ((off - 0x500000) / 4)
  else if off < 0x600000 then mfGain s ((off - 0x580000) / 4)
  else if off < 0x800000 then
    coefWord s ((off - 0x600000) / 0x100000) ((off - 0x600000) % 0x100000 / 8) (off % 8 / 4)
  else if off < 0x880000 then wordAt (ceCtxWindow s ((off - 0x800000) / 256)) (off % 256)
  else if off < 0x888000 then bodyAt s tyCZCTX 16 (off - 0x880000)
  else if off < 0x890000 then czStatWord s ((off - 0x888000) / 16) (off % 16 / 4)
  else if 0xE00000 ≤ off ∧ off < 0xF00000 then
    let w := s.reg baseHP
    if fld w 2 0 < 6 then holmWord s (fld w 23 20) (fld w 2 0 * 262144 + (off - 0xE00000) / 4) else 0
  else 0

/-- The value of the word at an offset; counters and latches are read apart. -/
def readVal (s : State) (off : Nat) : Nat :=
  let b := blkOf off
  let o := off - b.base
  match b with
  | .gl => readGL s o | .tr => readTR s o | .sv => readSV s o | .tb => readTB s o | .np p => readNP s p o
  | .se => readSE s o | .qf => readQF s o | .ce => readCE s o
  | .cz => if o = 0x100 then czStatus s else s.reg off
  | .rc => readRC s o | .mf => readMF s o | .hp => readHP s o | .ha h => readHA s h o
  | .mem => readMem s off | .none => 0

/-- A number for each master: the key of its read data and of its latches. -/
def masterKey : Master → Nat
  | .host => 0 | .spi => 1 | .debug => 2 | .supervisor => 3 | .trust => 4

/-- The CNT_HI latch of a block for a master (R7). -/
def hiKey (off : Nat) (m : Master) : Nat := (blkOf off).base * 8 + masterKey m

/-- Whether a counter belongs to something that is built; others read zero (R120, R138). -/
def ctrBuilt (s : State) (off : Nat) : Bool :=
  let o := off - (blkOf off).base
  match blkOf off with
  | .se => decide (o < 0x4000) || (s.recNow tyRX ((o - 0x4000) / 48)).isSome
  | .qf => (s.recNow tyQUEUE ((o - 0x4000) / 64)).isSome
  | _ => true

/-- Whether a block has a CNT_HI register at an offset. -/
def isCntHi (off : Nat) : Bool :=
  off - (blkOf off).base == 0x1FC &&
    (match blkOf off with | .gl => false | .tr => false | .mem => false | .none => false | _ => true)

/-- A read that is allowed: the word, and what the read changes (R7, R348). -/
def readWord (m : Master) (off : Nat) (s : State) : Nat × State :=
  if isCounter off then
    if ctrBuilt s off then
      let c := s.ctr off
      (c % 2 ^ 32, { s with
        ctrs := tset 0 s.ctrs off 0
        cntHi := tset 0 s.cntHi (hiKey off m) (BitVec.ofNat 32 (c / 2 ^ 32)) })
    else (0, s)
  else if isCntHi off then ((tget 0 s.cntHi (hiKey off m)).toNat, s)
  else if off = baseTB + 0x20 then (s.now % 2 ^ 32, latchGts s)
  else if m = .debug ∧ s.trust.level < 2 ∧ baseCE + 0x1000 ≤ off ∧ off < baseCE + 0x1200 then (0, s)
  else (readVal s off, s)

/-- A read of one word; a refused one returns zero, and to the host nothing. -/
def busRead (m : Master) (off : Nat) (s : State) : List Word × State :=
  match access m off false (begun m s) with
  | (true, s) =>
    let (v, s) := readWord m off s
    ([BitVec.ofNat 32 v], s)
  | (false, s) => (if m = .host then [] else [0], s)

/-- The words that a read returned to a master. -/
def setRdata (m : Master) (ws : List Word) (s : State) : State := { s with rdata := tset [] s.rdata (masterKey m) ws }

/-- A read by a bus master. -/
def opRead (m : Master) (off : Nat) (s : State) : State :=
  let off := if m = .host then off / 4 * 4 else off
  let (ws, s) := busRead m off s
  setRdata m ws s

/-- COUNTER_LOW_READ (R7). The table has no other row for a read: one of any other offset returns that word (log 30). -/
def execCounterLowRead (t : Gts) (m : Master) (off : Off) : State → Host.Outcome State Fault Refusal :=
  act t (opRead m off.toNat)

/-- GTS_READ (R348). -/
def execGtsRead (t : Gts) (m : Master) : State → Host.Outcome State Fault Refusal := act t (opRead m (baseTB + 0x20))

/-! ## The management SPI (R443) -/

/-- The status byte of the previous transaction; what raises `busy` is not stated (log 9). -/
def spiBegin (s : State) : Word × State :=
  let old := s.spiStatus % 16
  let (b, s) := s.draw
  (BitVec.ofNat 32 (0xA0 + old / 4 * 4 + b2n (b.getLsbD 0) * 2 + old % 2), { s with spiStatus := 0 })

/-- The offsets of a transaction of `n` words. -/
def spiOffs (off n : Nat) : List Nat := (List.range n).map fun i => (off + 4 * i) % 2 ^ 24

/-- SPI_READ: the status byte, then the words. An unaligned transaction is refused once and returns zero words (R425). -/
def execSpiRead (t : Gts) (off : Off) (n : Nat) : State → Host.Outcome State Fault Refusal :=
  act t fun s =>
    if s.sup.mode = .off then s
    else
      let (st, s) := spiBegin s
      if off.toNat % 4 ≠ 0 then setRdata .spi (st :: List.replicate n 0) (spiRefuse 3 s)
      else
        let (ws, s) := (spiOffs off.toNat n).foldl (fun (a : List Word × State) o =>
          let (w, s) := busRead .spi o a.2
          (a.1 ++ w, s)) ([], s)
        setRdata .spi (st :: ws) s

/-- SPI_WRITE: each word acts in turn, a partial word is discarded. -/
def execSpiWrite (t : Gts) (off : Off) (bytes : List Byte) : State → Host.Outcome State Fault Refusal :=
  actTrust t fun s =>
    if s.sup.mode = .off then s
    else
      let (st, s') := spiBegin s
      let s' := setRdata .spi [st] s'
      if off.toNat % 4 ≠ 0 then spiRefuse 3 s'
      else
        let ws := wordsOf (bytes.take (bytes.length / 4 * 4))
        ((spiOffs off.toNat ws.length).zip ws).foldl (fun s e => busWord .spi e.1 (BitVec.ofNat 32 e.2) s) s'

end Sys2Proof.Machine
end

