-- ==== Sys2Proof/Machine/CipherOps.lean ====
section
/-! DEFINITION. Operations of the Cipher Engine on SRTP packets and MACsec frames, [12]: how they take lanes, what they check,
and where their output goes. -/

namespace Sys2Proof.Machine

/-! ## The input queues (R133, R308) -/

/-- The queues from which the engine reads what a source hands it. -/
def ceQueues (s : State) (src : Nat) : List (Nat × List Byte) :=
  (recsOf s.cfg.recs tyQUEUE).filter fun e => qCons e.2 == 7 && qProd e.2 == src

/-- The engine marks its input before an operation, and rewinds it to the mark on a mismatch. -/
def ceMark (src : Nat) (s : State) : State := (ceQueues s src).foldl (fun s e => s.updQueue e.1 markQueue) s
def ceRewind (src : Nat) (s : State) : State := (ceQueues s src).foldl (fun s e => s.updQueue e.1 rewindQueue) s

/-- The mark is released when no operation of the source is left. -/
def ceRelease (src : Nat) (s : State) : State :=
  if [0, 1, 2, 3].any fun n => (s.lane n).ops.any fun o => opSource o.op == src then s
  else (ceQueues s src).foldl (fun s e => s.updQueue e.1 releaseQueue) s

/-! ## Starting -/

/-- An operation takes a lane. Operations that started in the same grain for a higher source take their lanes after it (R27,
R291). -/
def laneStart (op : LaneOp) (s : State) : Option State :=
  let src := opSource op.op
  let mine (o : LaneOp) : Bool := o.start == s.now && !o.repeated && decide (src < opSource o.op)
  let later := (List.range 6).flatMap fun k =>
    [0, 1, 2, 3].flatMap fun n => (s.lane n).ops.filter fun o => mine o && opSource o.op == k
  if (pickLane s 4).isNone then none
  else
    let s1 := [0, 1, 2, 3].foldl (fun s n => s.setLane n { s.lane n with ops := (s.lane n).ops.filter fun o => !mine o }) s
    some (ceMark src ((op :: later).foldl (fun s o => laneAdd ((pickLane s 4).getD 0) o s) s1))

/-- A transmit packet starts on a lane, or is refused (R298, R301, R302). -/
def startTx (stream : Nat) (s : State) : State :=
  match takeFirst (fun p : TxPkt => p.stream == stream) s.se.txWait with
  | none => s
  | some (p, rest) =>
    match s.recNow tyTX stream with
    | none => s.updSe fun e => { e with txWait := rest }
    | some b =>
      let c := u16 b 0x18
      let v := txIndex s c p.seq
      match txSlot (s.ctx c) v, decide (v < 2 ^ 48) with
      | some (k, chg), true =>
        let header := rtpHeader b p
        let key := slotOf (s.ctx c) k
        let cb := (ceRec s c).getD []
        let out := header ++ gcmSeal (gcmKey (byteAt cb 1) key.key) key.salt (srtpIv header v) header p.payload
          ++ toBe (ceMkiLen cb) key.mki
        match laneStart { op := .srtpTx (BitVec.ofNat 10 stream), pkt := some p, ctx := c, slot := k, index := v, start := s.now,
                          out := out } s with
        | none => s
        | some s =>
          let s := s.updSe fun e => { e with txWait := rest }
          let s := if chg then txChange c k v s else s
          let s := useSlot c k s
          s.setCtx c { s.ctx c with index := some (v + 1) }
      | _, _ =>
        let s := s.updSe fun e => { e with txWait := rest }
        txRefuse stream c (s.setTx stream { s.tx stream with seq := p.seq })

/-- A verdict on a receive copy is handed back to the Stream Engine (R299). -/
def ceVerdict (cp : Copy) (s : State) : State := s.updCe fun e => { e with done := e.done ++ [cp] }

/-- A receive copy is checked for replay and for its key slot, and starts on a lane (R299). -/
def startRx (stream leg seq : Nat) (s : State) : State :=
  match takeFirst (fun c : Copy => c.stream == stream && c.leg == leg && c.seq == seq) s.ce.inq with
  | none => s
  | some (cp, rest) =>
    match s.recAt s.soon tyRX stream with
    | none => s.updCe fun e => { e with inq := rest }
    | some b =>
      let c := u16 b 0x1A
      let cb := (ceRec s c).getD []
      let v := rxIndex s c seq
      let x := s.ctx c
      if cp.role ≠ .compare ∧ x.index.any (fun i => decide (v + 2048 ≤ i)) then
        let s := (s.updCe fun e => { e with inq := rest }).bump (baseCE + 0x20C)
        let s' := s.setCtx c { x with replay := x.replay + 1, replayEll := s.ell + 1 }
        let s' := if x.replayEll = s.ell + 1 then s' else s'.raise 7 0x704 ([c] ++ lohi v)
        wakeWaiting b stream (updMerge stream seq emptied s')
      else
        match rxSlot cb x v cp.mki with
        | some k =>
          if (slotOf x k).used < (slotOf x k).limit then
            let key := slotOf x k
            let header := cp.rtp.take 12
            let text := cp.payload.take (cp.payload.length - ceMkiLen cb)
            let iv := srtpIv header v
            let gk := gcmKey (byteAt cb 1) key.key
            match laneStart { op := .srtpRx (BitVec.ofNat 10 stream) (if leg = 0 then .red else .blue) (BitVec.ofNat 16 seq)
                              copy := some cp, ctx := c, slot := k, index := v, start := s.now
                              out := gcmPlain gk key.salt iv header text, tagOk := Config.gcmOk gk key.salt iv header text } s with
            | none => s
            | some s => useSlot c k (s.updCe fun e => { e with inq := rest })
          else rxNoKey c v cp rest s
        | none => rxNoKey c v cp rest s
where
  /-- A copy without a usable slot fails (R299). -/
  rxNoKey (c v : Nat) (cp : Copy) (rest : List Copy) (s : State) : State :=
    let x := s.ctx c
    let s := (s.updCe fun e => { e with inq := rest }).bump (baseCE + 0x210)
    let s' := s.setCtx c { x with nokeyEll := s.ell + 1 }
    let s' := if x.nokeyEll = s.ell + 1 then s' else s'.raise 7 0x705 ([c] ++ lohi v)
    ceVerdict { cp with ok := false } s'

/-- CIPHER_OP_START (R291, R298, R299). A MACsec operation takes its place on a lane; its check is part of RX_FRAME and
its protection part of TX_START. -/
def execCipherOpStart (t : Gts) (op : CipherOp) : State → Host.Outcome State Fault Refusal :=
  act t fun s =>
    match op with
    | .srtpTx st => startTx st.toNat s
    | .srtpRx st leg seq => startRx st.toNat (if leg = .red then 0 else 1) seq.toNat s
    | .macsecTx _ _ => (laneStart { op := op, start := s.now } s).getD s
    | .macsecRx _ _ => (laneStart { op := op, start := s.now } s).getD s

/-! ## Completion -/

/-- A receive context after a copy of index `v` authenticates: `index`, and the end of a receive change (R299, R302). -/
def rxPassed (c v : Nat) (s : State) : State :=
  let x := s.ctx c
  let i := match x.index with | some i => max i v | none => v
  let x := { x with index := some i }
  match x.chg with
  | none => s.setCtx c x
  | some g =>
    let log := decide (g ≤ i) && !x.chgLogged
    let x := if g ≤ i then { x with chgLogged := true } else x
    let x' := if g + 2048 ≤ i then { (putSlot x x.act {}) with act := 1 - x.act, chg := none, chgLogged := false } else x
    let s := s.setCtx c x'
    if log then (s.raise 7 0x703 ([c, 1 - x.act] ++ lohi g)).bump (baseCE + 0x214) else s

/-- The end of a receive check (R97, R299, R300): the payload reaches Stream memory with `p` set, but for a COMPARE copy and a
Dalow payload, which is decoded first. -/
def doneRx (op : LaneOp) (cp : Copy) (ok : Bool) (s : State) : State :=
  let s := s.bump (baseCE + 0x204)
  let s :=
    if ok then (if cp.role ≠ .compare then rxPassed op.ctx op.index s else s)
    else (s.setCtx op.ctx { s.ctx op.ctx with tagFail := (s.ctx op.ctx).tagFail + 1 }).bump (baseCE + 0x208)
  let cp := { cp with ok := ok, payload := op.out }
  let s :=
    match rxEntry s cp.stream with
    | some b => if cp.role = .compare ∨ fmtOf (rxCtl b) = 2 then s else placePending b cp s
    | none => s
  ceVerdict cp s

/-- The end of a packet lost to its lane (R308). -/
def lostTx (_ : LaneOp) (s : State) : State := s.bump (baseCE + 0x228)

/-- A mismatch: the input is rewound, a Direct Path frame on the wire is stomped, and the operation is repeated on another lane
(R308). -/
def laneFault (n : Nat) (op : LaneOp) (s : State) : State :=
  let src := opSource op.op
  let s := (s.bump (baseCE + 0x224)).raise 7 0x706 [n, src]
  let s := ceRewind src (laneMismatch 7 n false s)
  let s :=
    match op.copy with
    | some cp =>
      if cp.role ≠ .compare ∧ onWire cp.stream cp.seq s then
        noteFailed cp ([0, 1, 2, 3].foldl (stompWire cp.stream cp.seq) s)
      else s
    | none => s
  laneAdd ((pickLane s n).getD n) { op with repeated := true } s

/-- CIPHER_OP_DONE (R291, R299, R308): the oldest operation of a lane ends, with a parity mismatch, or with its verdict and
output. A repeat that mismatches again is a FAIL for a receive copy and loses a transmit packet. A report of another verdict or output
than the engine's is no event of the device and changes nothing (DESIGN CHOICE, log 5). -/
def execCipherOpDone (t : Gts) (n : Fin 4) (parityBad tagOk : Bool) (out : List Byte) : State → Host.Outcome State Fault Refusal :=
  act t fun s =>
    match (s.lane n.val).ops with
    | [] => s
    | op :: rest =>
      let done := s.setLane n.val { s.lane n.val with ops := rest }
      if parityBad ∧ ¬ op.repeated then laneFault n.val op done
      else if ¬ parityBad ∧ (tagOk, out) ≠ (op.tagOk, op.out) then s
      else
        let s := done
        let s := ceRelease (opSource op.op) (if parityBad then laneMismatch 7 n.val true s else s)
        match op.op, op.copy with
        | .srtpRx _ _ _, some cp => doneRx op cp (op.tagOk && !parityBad) s
        | .srtpTx st, _ => if parityBad then lostTx op s else (sendTx st.toNat op.out s).bump (baseCE + 0x200)
        | _, _ => s

end Sys2Proof.Machine
end

