-- ==== Sys2Proof/Machine/Commit.lean ====
section
/-! DEFINITION. The commit of a task instance, [07]: what its stores and, for a library task, its function leave (R178-R180). -/

namespace Sys2Proof.Machine

/-- The commit of a slot: stored containers, zeros elsewhere, VALID, and the hold sample (R180). -/
def commitSlot (c : Core) (slot : Nat) (s : State) : State :=
  let n := slotsEll c.inst c.data
  let ws := (List.range 6).map fun j => ((tget none c.buf (slotAddr slot j)).getD 0).toNat
  ((putSlotWords n slot ws s).setMark n slot 0).setHold slot (ws.getD 5 0)

/-- The write pass of a commit; the two Ells that a join removes and joins read CONCEALED (R34). -/
def commitWrite (i : Nat) (s : State) : State :=
  let c := s.core i
  let x := s.task c.inst
  let t := c.inst % 4096
  let h := tkHolm (instBody s c.inst)
  let s := c.buf.foldl (fun s e =>
    match e.2 with
    | some w => if e.1 < 0x180000 then setMem h e.1 w s else s
    | none => s) s
  let s := (writeSlots (s.recsAt x.data) t).foldl (fun s e => commitSlot c e s) s
  let s := (clearCore i s).bump (haCtr h 0x204)
  let late (d : Nat) : Bool := (delayedAt s d).contains t
  let svc := if 4096 ≤ c.inst then (if late (x.data + 1) then 1 else 2) else if late (x.data - 1) then 2 else 0
  let s := finish c.inst svc s
  s.setTstat t { s.tstat t with
    ell := x.data % 2 ^ 32, commit := s.now - s.startOf x.inEll, last := max (s.tstat t).last (x.data + 1), lost := false }

/-- The cause for which an attempt cannot go on at GTS `g`: STAGE_END or DEADLINE (R175). -/
def deadCause (c : Core) (g : Nat) : Option Nat :=
  if c.stageDl ≤ g ∧ c.stageDl ≤ c.slotDl then some 10 else if c.slotDl ≤ g then some 5 else none

/-- Whether the write pass of an attempt may start at GTS `g` (R179): at floor pace it ends before both deadlines. -/
def passFits (s : State) (c : Core) (g : Nat) : Bool :=
  decide (g + 4 * (cdiv (tkFoot (instBody s c.inst)) 64 + 64) < min c.slotDl c.stageDl)

/-- TASK_COMMIT (R179): the check pass of an attempt that has executed YIELD, and its write pass. -/
def execTaskCommit (t : Gts) (core : CoreId) (pass : CommitPass) : State → Host.Outcome State Fault Refusal :=
  act t fun s =>
    let c := s.core core.val
    let stop (cause : Nat) : State := failAttempt core.val cause 0 false false s
    if c.st ≠ 2 then s
    else if pass.bufBad then
      -- the address of the bad word is not given: a free value (R351)
      let (v, s) := s.draw
      failAttempt core.val 2 0 false false (eccUncorr 1 (v.toNat % 2 ^ 22) s)
    else
      match deadCause c pass.start.toNat with
      | some e => stop e
      | none =>
        if ¬ passFits s c pass.start.toNat then stop 5
        else
          match deadCause c s.now with
          | some e => stop e
          | none => commitWrite core.val (libRun core.val s)

end Sys2Proof.Machine
end

