-- ==== Sys2Proof/Machine/GeldinWords.lean ====
section
/-! DEFINITION. The 32-bit words of the Geldin instruction set, [09]: the instruction that a word spells, and the word of an
instruction, field by field from the tables of R220 to R235. -/

namespace Sys2Proof.Machine

/-! ## Encoding -/

/-- Code of a product mode (R223). -/
def mulCode : MulMode → BitVec 2
  | .signed => 0
  | .su => 1
  | .uu => 2

/-- MAC group (R223). -/
def encMac (op : BitVec 3) (o : MacOps) : BitVec 32 :=
  0x0#4 ++ op ++ mulCode o.sm ++ BitVec.ofBool o.dual ++ o.aa ++ o.x0 ++ o.y0 ++ o.x1 ++ o.y1 ++ o.ab ++ 0#6

/-- The loads of a TAP-group word (R224). -/
def encLoads (l : TapLoads) : BitVec 12 := l.p0 ++ l.m0 ++ l.p1 ++ l.m1 ++ BitVec.ofBool l.nf0 ++ BitVec.ofBool l.nf1

/-- ALU group (R228). -/
def encAlu (op : BitVec 5) (o : AluOps) : BitVec 32 :=
  0x3#4 ++ op ++ o.form ++ o.dst ++ o.s1 ++ o.s2 ++ BitVec.ofBool o.ci ++ o.cnt ++ 0#5

/-- Memory group (R230). -/
def encMem (st mva : Bool) (o : MemOps) : BitVec 32 :=
  0x4#4 ++ BitVec.ofBool st ++ BitVec.ofBool o.nf ++ BitVec.ofBool mva ++ 0#1 ++ o.reg ++ 0#3 ++ o.mode ++ o.ea

/-- Paired-memory group (R231). -/
def encPair (st1 : Bool) (o : PairOps) : BitVec 32 :=
  0x5#4 ++ BitVec.ofBool st1 ++ BitVec.ofBool o.nf0 ++ BitVec.ofBool o.nf1 ++ o.reg0 ++ o.reg1 ++ o.ptr0 ++ o.mode0 ++ o.ptr1 ++
    o.mode1 ++ 0#3

/-- Move group (R233). -/
def encMove (op : BitVec 3) (dst src : BitVec 6) : BitVec 32 := 0x6#4 ++ op ++ dst ++ src ++ 0#13

/-- Control group (R235). -/
def encCtl (op : BitVec 4) (fields : BitVec 24) : BitVec 32 := 0x7#4 ++ op ++ fields

/-- The word of a Geldin instruction; none for any other command. -/
def encodeGeldin : Instr → Option (BitVec 32)
  | .mpy _ o => some (encMac 0 o)
  | .mpyr _ o => some (encMac 1 o)
  | .mac _ o => some (encMac 2 o)
  | .msu _ o => some (encMac 3 o)
  | .macr _ o => some (encMac 4 o)
  | .msur _ o => some (encMac 5 o)
  | .tap _ sub aa dc dx l => some (0x1#4 ++ 0#2 ++ BitVec.ofBool sub ++ aa ++ 0#2 ++ dc ++ dx ++ 0#3 ++ encLoads l)
  | .tap2 _ sub aa ab dc dx dy l => some (0x1#4 ++ 1#2 ++ BitVec.ofBool sub ++ aa ++ ab ++ dc ++ dx ++ dy ++ encLoads l)
  | .cmac _ sub aa ab u conj w l =>
    some (0x1#4 ++ 2#2 ++ BitVec.ofBool sub ++ aa ++ ab ++ u ++ BitVec.ofBool conj ++ w ++ 0#4 ++ encLoads l)
  | .add _ o => some (encAlu 0 o)
  | .sub _ o => some (encAlu 1 o)
  | .neg _ o => some (encAlu 2 o)
  | .abs _ o => some (encAlu 3 o)
  | .cmp _ o => some (encAlu 4 o)
  | .and _ o => some (encAlu 5 o)
  | .or _ o => some (encAlu 6 o)
  | .xor _ o => some (encAlu 7 o)
  | .shl _ o => some (encAlu 8 o)
  | .shr _ o => some (encAlu 9 o)
  | .mva _ o => some (encAlu 10 o)
  | .norm _ o => some (encAlu 11 o)
  | .divs _ o => some (encAlu 12 o)
  | .clr _ o => some (encAlu 13 o)
  | .ld _ o => some (encMem false false o)
  | .st _ o => some (encMem true false o)
  | .stMva _ o => some (encMem true true o)
  | .ldLd _ o => some (encPair false o)
  | .ldSt _ o => some (encPair true o)
  | .mov _ dst src => some (encMove 0 dst src)
  | .movTagToD _ dst src => some (encMove 1 dst src)
  | .movTagFromD _ dst src => some (encMove 2 dst src)
  | .moviD _ dst val => some (0b100#3 ++ dst ++ 0#2 ++ val)
  | .moviAddress _ cls idx val => some (0b101#3 ++ cls ++ idx ++ 0#2 ++ val)
  | .nop _ => some (encCtl 0x0 0)
  | .br _ target => some (encCtl 0x1 (0#7 ++ target))
  | .brc _ cond target => some (encCtl 0x2 (cond ++ 0#4 ++ target))
  | .call _ target => some (encCtl 0x3 (0#7 ++ target))
  | .ret _ => some (encCtl 0x4 0)
  | .repi _ m => some (encCtl 0x5 (0#12 ++ m))
  | .repd _ ds => some (encCtl 0x6 (0#12 ++ ds ++ 0#9))
  | .loopi _ e m => some (encCtl 0x7 (e ++ m))
  | .loopd _ e ds => some (encCtl 0x8 (e ++ ds ++ 0#9))
  | .endLoop _ => some (encCtl 0x9 0)
  | .waite _ dd mask => some (encCtl 0xA (0#12 ++ dd ++ 0#5 ++ mask))
  | .yield _ => some (encCtl 0xB 0)
  | _ => none

/-! ## Decoding -/

/-- Bit `i` of a word. -/
def wbit (w : BitVec 32) (i : Nat) : Bool := w.getLsbD i

/-- `n` bits of a word from bit `i` upward. -/
def wfld (w : BitVec 32) (i n : Nat) : BitVec n := w.extractLsb' i n

/-- MAC group. -/
def decMac (i : Issue) (w : BitVec 32) : Option Instr :=
  let rest (sm : MulMode) : Option Instr :=
    let o : MacOps := { sm, dual := wbit w 22, aa := wfld w 20 2, x0 := wfld w 17 3, y0 := wfld w 14 3, x1 := wfld w 11 3,
                        y1 := wfld w 8 3, ab := wfld w 6 2 }
    match (wfld w 25 3).toNat with
    | 0 => some (.mpy i o)
    | 1 => some (.mpyr i o)
    | 2 => some (.mac i o)
    | 3 => some (.msu i o)
    | 4 => some (.macr i o)
    | 5 => some (.msur i o)
    | _ => none
  if wfld w 0 6 ≠ 0 then none
  else
    match (wfld w 23 2).toNat with
    | 0 => rest .signed
    | 1 => rest .su
    | 2 => rest .uu
    | _ => none

/-- TAP group. -/
def decTap (i : Issue) (w : BitVec 32) : Option Instr :=
  let sub := wbit w 25
  let aa := wfld w 23 2
  let ab := wfld w 21 2
  let l : TapLoads := { p0 := wfld w 9 3, m0 := wfld w 7 2, p1 := wfld w 4 3, m1 := wfld w 2 2, nf0 := wbit w 1, nf1 := wbit w 0 }
  match (wfld w 26 2).toNat with
  | 0 => if ab ≠ 0 ∨ wfld w 12 3 ≠ 0 then none else some (.tap i sub aa (wfld w 18 3) (wfld w 15 3) l)
  | 1 => some (.tap2 i sub aa ab (wfld w 18 3) (wfld w 15 3) (wfld w 12 3) l)
  | 2 => if wfld w 12 4 ≠ 0 then none else some (.cmac i sub aa ab (wfld w 19 2) (wbit w 18) (wfld w 16 2) l)
  | _ => none

/-- ALU group. -/
def decAlu (i : Issue) (w : BitVec 32) : Option Instr :=
  let o : AluOps := { form := wfld w 21 2, dst := wfld w 18 3, s1 := wfld w 15 3, s2 := wfld w 12 3, ci := wbit w 11, cnt := wfld w 5 6 }
  if wfld w 0 5 ≠ 0 then none
  else
    match (wfld w 23 5).toNat with
    | 0 => some (.add i o)
    | 1 => some (.sub i o)
    | 2 => some (.neg i o)
    | 3 => some (.abs i o)
    | 4 => some (.cmp i o)
    | 5 => some (.and i o)
    | 6 => some (.or i o)
    | 7 => some (.xor i o)
    | 8 => some (.shl i o)
    | 9 => some (.shr i o)
    | 10 => some (.mva i o)
    | 11 => some (.norm i o)
    | 12 => some (.divs i o)
    | 13 => some (.clr i o)
    | _ => none

/-- Memory group. -/
def decMem (i : Issue) (w : BitVec 32) : Option Instr :=
  let o : MemOps := { nf := wbit w 26, reg := wfld w 18 6, mode := wfld w 12 3, ea := wfld w 0 12 }
  if wbit w 24 ∨ wfld w 15 3 ≠ 0 then none
  else
    match wbit w 27, wbit w 25 with
    | false, false => some (.ld i o)
    | true, false => some (.st i o)
    | true, true => some (.stMva i o)
    | false, true => none

/-- Paired-memory group. -/
def decPair (i : Issue) (w : BitVec 32) : Option Instr :=
  let o : PairOps := { nf0 := wbit w 26, nf1 := wbit w 25, reg0 := wfld w 19 6, reg1 := wfld w 13 6, ptr0 := wfld w 10 3,
                       mode0 := wfld w 8 2, ptr1 := wfld w 5 3, mode1 := wfld w 3 2 }
  if wfld w 0 3 ≠ 0 then none else some (if wbit w 27 then .ldSt i o else .ldLd i o)

/-- Move group. -/
def decMove (i : Issue) (w : BitVec 32) : Option Instr :=
  let dst := wfld w 19 6
  let src := wfld w 13 6
  if wfld w 0 13 ≠ 0 then none
  else
    match (wfld w 25 3).toNat with
    | 0 => some (.mov i dst src)
    | 1 => some (.movTagToD i dst src)
    | 2 => some (.movTagFromD i dst src)
    | _ => none

/-- Control group. -/
def decCtl (i : Issue) (w : BitVec 32) : Option Instr :=
  let only (zero : Bool) (c : Instr) : Option Instr := if zero then some c else none
  let ds := wfld w 9 3
  match (wfld w 24 4).toNat with
  | 0x0 => only (wfld w 0 24 == 0) (.nop i)
  | 0x1 => only (wfld w 17 7 == 0) (.br i (wfld w 0 17))
  | 0x2 => only (wfld w 17 4 == 0) (.brc i (wfld w 21 3) (wfld w 0 17))
  | 0x3 => only (wfld w 17 7 == 0) (.call i (wfld w 0 17))
  | 0x4 => only (wfld w 0 24 == 0) (.ret i)
  | 0x5 => only (wfld w 12 12 == 0) (.repi i (wfld w 0 12))
  | 0x6 => only (wfld w 12 12 == 0 && wfld w 0 9 == 0) (.repd i ds)
  | 0x7 => some (.loopi i (wfld w 12 12) (wfld w 0 12))
  | 0x8 => only (wfld w 0 9 == 0) (.loopd i (wfld w 12 12) ds)
  | 0x9 => only (wfld w 0 24 == 0) (.endLoop i)
  | 0xA => only (wfld w 12 12 == 0 && wfld w 4 5 == 0) (.waite i ds (wfld w 0 4))
  | 0xB => only (wfld w 0 24 == 0) (.yield i)
  | _ => none

/-- The instruction that a word spells when issue `i` executes it (R220); none for a reserved group or op, and for a reserved field
that is not zero. -/
def decodeGeldin (i : Issue) (w : BitVec 32) : Option Instr :=
  match (wfld w 28 4).toNat with
  | 0x0 => decMac i w
  | 0x1 => decTap i w
  | 0x3 => decAlu i w
  | 0x4 => decMem i w
  | 0x5 => decPair i w
  | 0x6 => decMove i w
  | 0x7 => decCtl i w
  | 0x8 => if wfld w 24 2 = 0 then some (.moviD i (wfld w 26 3) (wfld w 0 24)) else none
  | 0x9 => if wfld w 24 2 = 0 then some (.moviD i (wfld w 26 3) (wfld w 0 24)) else none
  | 0xA => if wfld w 22 2 = 0 then some (.moviAddress i (wfld w 27 2) (wfld w 24 3) (wfld w 0 22)) else none
  | 0xB => if wfld w 22 2 = 0 then some (.moviAddress i (wfld w 27 2) (wfld w 24 3) (wfld w 0 22)) else none
  | _ => none

end Sys2Proof.Machine
end

