-- ==== Sys2Proof/Machine/Geldin.lean ====
section
/-! DEFINITION. The Geldin instruction set, [09]: placement, issue, control, events, and one meaning per instruction.
An instruction of the table is issued on its core at the core's PC, and acts when the word that stands there spells it (log 25). -/

namespace Sys2Proof.Machine

/-! ## Encoding (R220-R235) -/

/-- Whether an ALU word's op, form and fields are defined together (R228, R229). -/
def aluOk (op form dst s1 s2 : Nat) (ci : Bool) (cnt : Nat) : Bool :=
  let acc := form == 1 || form == 2
  let shift := op == 8 || op == 9
  let forms : List Nat := if op ≤ 1 then [0, 1, 2] else if op ≤ 4 ∨ shift ∨ op = 13 then [0, 1] else if op ≤ 7 then [0]
    else if op = 12 then [2] else [3]
  decide (op ≤ 13) && forms.contains form &&
    (if op = 4 then dst == 0 else !acc || decide (dst < 4)) &&
    (if op = 12 ∨ op = 13 then s1 == 0 else form == 0 || decide (s1 < 4)) &&
    (if op = 2 ∨ op = 3 ∨ op = 10 ∨ op = 11 ∨ op = 13 then s2 == 0 else if shift then !ci || s2 == 0 else form != 1 || decide (s2 < 4)) &&
    (if shift then (if ci then form != 0 || decide (cnt < 32) else cnt == 0) else !ci && cnt == 0)

/-- Whether a 32-bit word is illegal by its encoding alone (R222). -/
def wordBad (w : Nat) : Bool :=
  match w / 2 ^ 28 with
  | 0 => decide (5 < fld w 27 25) || fld w 24 23 == 3 || w % 64 != 0 || (!bit w 22 && fld w 13 6 != 0)
  | 1 =>
    match fld w 27 26 with
    | 0 => fld w 22 21 != 0 || fld w 14 12 != 0
    | 1 => false
    | 2 => fld w 15 12 != 0
    | _ => true
  | 3 => w % 32 != 0 || !aluOk (fld w 27 23) (fld w 22 21) (fld w 20 18) (fld w 17 15) (fld w 14 12) (bit w 11) (fld w 10 5)
  | 4 =>
    let reg := fld w 23 18
    bit w 24 || fld w 17 15 != 0 || decide (0x39 < reg) || (bit w 25 && (!bit w 27 || reg / 4 != 2)) ||
      (match fld w 14 12 with | 7 => false | 4 => fld w 8 7 != 0 | _ => fld w 8 0 != 0)
  | 5 => w % 8 != 0 || decide (0x39 < fld w 24 19) || decide (0x39 < fld w 18 13)
  | 6 =>
    let dst := fld w 24 19
    let src := fld w 18 13
    w % 2 ^ 13 != 0 || (match fld w 27 25 with
      | 0 => decide (0x39 < dst) || decide (0x39 < src)
      | 1 => decide (7 < dst) || decide (11 < src)
      | 2 => decide (11 < dst) || decide (7 < src)
      | _ => true)
  | 7 =>
    match fld w 27 24 with
    | 0x1 => fld w 23 17 != 0
    | 0x2 => fld w 20 17 != 0
    | 0x3 => fld w 23 17 != 0
    | 0x5 => fld w 23 12 != 0
    | 0x6 => fld w 23 12 != 0 || fld w 8 0 != 0
    | 0x7 => false
    | 0x8 => fld w 8 0 != 0
    | 0xA => fld w 23 12 != 0 || fld w 8 4 != 0 || w % 16 == 0
    | 0x0 => fld w 23 0 != 0
    | 0x4 => fld w 23 0 != 0
    | 0x9 => fld w 23 0 != 0
    | 0xB => fld w 23 0 != 0
    | _ => true
  | 8 => fld w 25 24 != 0
  | 9 => fld w 25 24 != 0
  | 10 => fld w 23 22 != 0
  | 11 => fld w 23 22 != 0
  | _ => true

/-! ## Registers that an instruction reads (R209) -/

/-- Codes of D registers and of accumulators. -/
def dCode (i : BitVec 3) : Nat := i.toNat
def aCode (i : BitVec 2) : Nat := 8 + i.toNat

/-- Multiply operands: a value that a TAP has just loaded is no register (R243). -/
def mulReads (c : Core) (l : List (BitVec 3)) : List Nat := (l.map dCode).filter fun x => !(c.land.any fun y => y.tap && y.code == x)

/-- What an address is formed and a pointer modified from; `useM` where Mn counts. -/
def ptrReads (n : BitVec 3) (useM : Bool) : List Nat :=
  [0x18 + n.toNat, 0x20 + n.toNat, 0x28 + n.toNat] ++ if useM then [0x30 + n.toNat] else []

/-- The pointers of the two loads of a TAP-group word. -/
def tapReads (l : TapLoads) : List Nat := ptrReads l.p0 (l.m0 == 3) ++ ptrReads l.p1 (l.m1 == 3)

/-- The pointer of a memory-group word. -/
def memReads (o : MemOps) : List Nat :=
  if o.mode = 7 then [] else ptrReads (o.ea.extractLsb' 9 3) (o.mode == 3 || o.mode == 5 || o.mode == 6)

/-- The operands of an ALU-group word (R229). -/
def aluReads (op : Nat) (o : AluOps) : List Nat :=
  let src (acc : Bool) (x : BitVec 3) : Nat := if acc then aCode (x.setWidth 2) else dCode x
  let wide := o.form ≠ 0
  if op = 13 then []
  else if op = 12 then [aCode (o.dst.setWidth 2), dCode o.s2]
  else if op = 8 ∨ op = 9 then src wide o.s1 :: if o.ci then [] else [dCode o.s2]
  else if op = 2 ∨ op = 3 ∨ op = 10 ∨ op = 11 then [src wide o.s1]
  else [src wide o.s1, src (o.form == 1) o.s2]

/-- A register as the destination of a part transfer is read too (R197). -/
def partReads (dst : BitVec 6) : List Nat := if 0x0C ≤ dst.toNat ∧ dst.toNat < 0x18 then [dst.toNat] else []

/-- What an instruction of the MAC group reads. -/
def macReads (c : Core) (o : MacOps) (replace : Bool) : List Nat :=
  mulReads c ([o.x0, o.y0] ++ if o.dual then [o.x1, o.y1] else []) ++
    if replace then [] else aCode o.aa :: if o.dual then [aCode o.ab] else []

/-- The registers of a paired-memory word. -/
def pairReads (o : PairOps) (st1 : Bool) : List Nat :=
  (partReads o.reg0 ++ if st1 then [o.reg1.toNat] else partReads o.reg1) ++ ptrReads o.ptr0 (o.mode0 == 3) ++ ptrReads o.ptr1 (o.mode1 == 3)

/-- The real and imaginary registers of a pair (R227). -/
def pairReg (p : BitVec 2) (im : Nat) : BitVec 3 := BitVec.ofNat 3 (2 * p.toNat + im)

/-- The codes of the registers that an instruction reads. -/
def readsOf (c : Core) : Instr → List Nat
  | .mpy _ o => macReads c o true
  | .mpyr _ o => macReads c o true
  | .mac _ o => macReads c o false
  | .msu _ o => macReads c o false
  | .macr _ o => macReads c o false
  | .msur _ o => macReads c o false
  | .tap _ _ aa dc dx l => mulReads c [dc, dx] ++ aCode aa :: tapReads l
  | .tap2 _ _ aa ab dc dx dy l => mulReads c [dc, dx, dy] ++ aCode aa :: aCode ab :: tapReads l
  | .cmac _ _ aa ab u _ w l =>
    mulReads c [pairReg u 0, pairReg u 1, pairReg w 0, pairReg w 1] ++ aCode aa :: aCode ab :: tapReads l
  | .add _ o => aluReads 0 o
  | .sub _ o => aluReads 1 o
  | .neg _ o => aluReads 2 o
  | .abs _ o => aluReads 3 o
  | .cmp _ o => aluReads 4 o
  | .and _ o => aluReads 5 o
  | .or _ o => aluReads 6 o
  | .xor _ o => aluReads 7 o
  | .shl _ o => aluReads 8 o
  | .shr _ o => aluReads 9 o
  | .mva _ o => aluReads 10 o
  | .norm _ o => aluReads 11 o
  | .divs _ o => aluReads 12 o
  | .clr _ o => aluReads 13 o
  | .ld _ o => partReads o.reg ++ memReads o
  | .st _ o => o.reg.toNat :: memReads o
  | .stMva _ o => o.reg.toNat :: memReads o
  | .ldLd _ o => pairReads o false
  | .ldSt _ o => pairReads o true
  | .mov _ dst src => src.toNat :: partReads dst
  | .movTagToD _ _ src => [src.toNat]
  | .movTagFromD _ _ src => [src.toNat]
  | .brc _ _ _ => [0x39]
  | .repd _ ds => [dCode ds]
  | .loopi _ _ _ => [0x38]
  | .loopd _ _ ds => [0x38, dCode ds]
  | .endLoop _ => [0x38]
  | _ => []

/-! ## Placement and issue -/

/-- Kinds of instruction for the placement rules: ordinary, control, control transfer, END. -/
inductive Kind where
  | plain | control | transfer | loopEnd
  deriving DecidableEq, Repr

/-- Whether an instruction may stand where it is issued (R236, R238-R240). -/
def placed (c : Core) (k : Kind) : Bool :=
  let pc := c.regs.pc
  let top := c.loops.head?
  let atEnd := top.any fun f => f.endAt == pc
  let free := c.ds == 0 && c.rep == 0
  let last := top.any fun f => decide (f.start ≤ pc) && (pc + 1 == f.endAt || pc + 2 == f.endAt)
  match k with
  | .plain => !atEnd
  | .control => !atEnd && free
  | .transfer => !atEnd && free && !last
  | .loopEnd => atEnd && free

/-- Whether a core can issue an instruction. -/
def coreReady (s : State) (i : Nat) : Bool :=
  let c := s.core i
  c.st == 1 && !c.halted && c.wait.isNone && c.ecc.isNone && s.audioOn

/-- The instruction buffer at a fetch, and the hc that it costs (R245). The fill goes on in address order while that is no dearer than
a new one, and 512 lines stay; the oldest leaves first (DESIGN CHOICE, log 32). -/
def fetchCost (c : Core) (h : Nat) : (Nat × List Nat × Nat) × Nat :=
  let line := c.regs.pc.toNat / 8
  let held := if c.ibuf.1 = h then c.ibuf.2.1 else []
  let next := c.ibuf.2.2
  if held.contains line then (c.ibuf, 0)
  else if ¬ held.isEmpty ∧ next ≤ line ∧ line < next + 13 then
    let more := ((List.range (line + 1 - next)).map (next + ·)).reverse
    ((h, (more ++ held).take 512, line + 1), line + 1 - next)
  else ((h, (line :: held).take 512, line + 1), 13)

/-- The word at a core's PC (R220). -/
def fetchedWord (s : State) (c : Core) : Word := tget 0 s.ha.prog (tkHolm (instBody s c.inst) * 131072 + c.regs.pc.toNat)

/-- Whether the word at the PC spells the instruction of a command. -/
def spells (s : State) (c : Core) (i : Issue) (cmd : Instr) : Bool :=
  match cmd with
  | .illegalInstruction _ w => fetchedWord s c == w
  | _ => decodeGeldin i (fetchedWord s c) == some cmd

/-- Whether the fetch reads an uncorrectable word of program memory: found now, or known and not yet repaired (R353). -/
def fetchBad (s : State) (c : Core) (f : CoreFault) : Bool :=
  let h := tkHolm (instBody s c.inst)
  f == .progBad || (s.sup.badProg.contains (h, c.regs.pc.toNat) && (fetchCost c h).2 != 0)

/-- Loads of the instruction before land (R244). -/
def landAll (l : List Landing) (r : Regs) : Regs := l.foldl (fun r x => writeCode x.code { v := x.v, tag := x.tag } r) r

/-- The PC and delay slots after an instruction in sequence (R236, R238). -/
def nextPc (c : Core) : Core :=
  if 1 < c.rep then { c with rep := c.rep - 1 }
  else
    let go (p : BitVec 17) : Core := { c with rep := 0, regs := c.regs.setPc p }
    if c.ds = 1 then { go (c.target.getD (c.regs.pc + 1)) with ds := 0, target := none }
    else { go (c.regs.pc + 1) with ds := c.ds - 1 }

/-- Events that wait are taken at an event point; the boundary before END is judged after it (R246, R247). -/
def takeEvents (c : Core) : Core :=
  if ¬ eventPoint c ∨ (c.loops.head?.any fun f => f.endAt == c.regs.pc) ∨ c.st ≠ 1 then c
  else
    let c := if c.traceDue then { c with traceDue := false, trace := some (c.regs.pc.toNat, swWord c, c.hc) } else c
    if c.stop then { c with stop := false, halted := true } else c

/-- An illegal instruction (R222). -/
def illegal (i : Nat) (s : State) : State := failAttempt i 4 (s.core i).regs.pc.toNat false false s

/-- The issue of an instruction that the word at the PC spells: faults of the fetch, the placement rules, a residue mismatch of what it
reads or of what it computes (R209, R210), then its effect. -/
def issue (cmd : Instr) (i : Issue) (k : Kind) (legal : Bool) (f : Nat → Core → State → State) : State → Host.Outcome State Fault Refusal :=
  act i.t fun s =>
    let n := i.core.val
    let c := s.core n
    if ¬ coreReady s n ∨ ¬ spells s c i cmd then s
    else if i.fault = .ibufEcc then
      let s := failAttempt n 2 0 false false s
      s.setCore n { s.core n with ibuf := (0, [], 0) }
    else if fetchBad s c i.fault then
      failAttempt n 11 0 false false (badProgWord (tkHolm (instBody s c.inst)) c.regs.pc.toNat s)
    else if ¬ legal ∨ ¬ placed c k then illegal n s
    else if i.fault = .residue ∨ ¬ readsGood c.regs (readsOf c cmd) then failAttempt n 1 0 false true s
    else f n c s

/-- The first load of an instruction whose word is read from a memory array. -/
def arrayLoad (c : Core) (l : List Load1) : Option Load1 :=
  l.find? fun x => (isHolm x.addr || isEll x.addr) && (tget none c.buf x.addr).isNone

/-- Registers after an instruction, in the order of R244. -/
def regsAfter (c : Core) (e : Eff) : Regs :=
  let r := setNzv e.flags (e.apply (landAll c.land c.regs))
  let r := match e.move with | some (d, x) => r.setD d x | none => r
  (e.mods.foldl (fun r m => r.setP m.1 m.2) r).orCr e.cr

/-- An ordinary instruction: its accesses are checked, its loads read, its store buffered, its results written. -/
def perform (eccBad : Bool) (e : Eff) (n : Nat) (c : Core) (s : State) : State :=
  match e.loads.find? fun x => !mayAccess s c x.addr false with
  | some x => failAttempt n 4 x.addr false false s
  | none =>
    let badStore := match e.store with | some (a, _) => !mayAccess s c a true | none => false
    let overOn := match e.store with
      | some (a, _) => (tget none c.buf a).isNone && decide (tkFoot (instBody s c.inst) < 4 * (c.buf.length + 1))
      | none => false
    match (if eccBad then arrayLoad c e.loads else none) with
    | some x => s.setCore n { c with ecc := some x.addr, hc := c.hc + 8 }
    | none =>
      if badStore then failAttempt n 4 ((e.store.map (·.1)).getD 0) true false s
      else if overOn then failAttempt n 6 0 false false s
      else
        let (ib, fc) := fetchCost c (tkHolm (instBody s c.inst))
        let banks := banksOf s c e.loads
        let land := e.loads.map fun x =>
          let d := ofContainer (loadWord s c x.addr) x.nf
          { code := x.code, v := d.v, tag := d.tag, tap := x.tap : Landing }
        let buf := match e.store with | some (a, w) => tset none c.buf a (some w) | none => c.buf
        let c' := { c with
          regs := regsAfter c e, land := land, buf := buf, ibuf := ib
          hc := c.hc + e.cost + fc + loadWaits c e.loads + bankBusy s banks
          hcHi := if e.loads.any fun x => x.addr == 0x3FF008 then c.hc / 2 ^ 24 % 2 ^ 24 else c.hcHi }
        (useBanks banks s).setCore n (takeEvents (nextPc c'))

/-- An instruction whose effect is `f` of the core; none when it is illegal. -/
def dataInstr (cmd : Instr) (i : Issue) (f : Core → Option Eff) : State → Host.Outcome State Fault Refusal :=
  issue cmd i .plain true fun n c s =>
    match f c with
    | some e => perform (i.fault == .eccRead) e n c s
    | none => illegal n s

/-- A control instruction: loads land, then `f` moves the core; none when it is illegal. -/
def ctlInstr (cmd : Instr) (i : Issue) (k : Kind) (f : Core → Option Core) : State → Host.Outcome State Fault Refusal :=
  issue cmd i k true fun n c s =>
    let (ib, fc) := fetchCost c (tkHolm (instBody s c.inst))
    let c0 := { c with ibuf := ib, hc := c.hc + 1 + fc, land := [] }
    match f { c with land := [] } with
    | none => illegal n s
    | some _ =>
      match f { c0 with regs := landAll c.land c.regs } with
      | some c' => s.setCore n (takeEvents c')
      | none => illegal n s

/-! ## MAC group (R223) -/

/-- One operation of the MAC group. -/
def macOp (o : MacOps) (replace sub rounded : Bool) (c : Core) : Option Eff :=
  if !o.dual && !(o.x1 == 0 && o.y1 == 0 && o.ab == 0) then none
  else
    let rnd := c.regs.rnd
    let pr (x y : BitVec 3) : Int := product o.sm (mulOp c x).v (mulOp c y).v
    let tg (x y : BitVec 3) : BitVec 4 := (mulOp c x).tag ||| (mulOp c y).tag
    let fin (i : BitVec 2) (p : Int) : Int × Bool :=
      let a := (c.regs.ar i).v.toInt
      let x := if replace then p else if sub then a - p else a + p
      if rounded then roundedA rnd x else satA x
    let at' (i : BitVec 2) (t : BitVec 4) : BitVec 4 := if replace then t else (c.regs.ar i).tag ||| t
    let p0 := pr o.x0 o.y0
    let t0 := tg o.x0 o.y0
    if !o.dual then some (macEff o.aa o.aa (fin o.aa p0) (at' o.aa t0) none)
    else
      let p1 := pr o.x1 o.y1
      let t1 := tg o.x1 o.y1
      if o.aa = o.ab then some (macEff o.aa o.aa (fin o.aa (p0 + p1)) (at' o.aa (t0 ||| t1)) none)
      else some (macEff o.aa o.ab (fin o.aa p0) (at' o.aa t0) (some (fin o.ab p1, at' o.ab t1)))

/-- MPY. -/
def execMpy (i : Issue) (o : MacOps) := dataInstr (.mpy i o) i (macOp o true false false)
/-- MPYR. -/
def execMpyr (i : Issue) (o : MacOps) := dataInstr (.mpyr i o) i (macOp o true false true)
/-- MAC. -/
def execMac (i : Issue) (o : MacOps) := dataInstr (.mac i o) i (macOp o false false false)
/-- MSU. -/
def execMsu (i : Issue) (o : MacOps) := dataInstr (.msu i o) i (macOp o false true false)
/-- MACR. -/
def execMacr (i : Issue) (o : MacOps) := dataInstr (.macr i o) i (macOp o false false true)
/-- MSUR. -/
def execMsur (i : Issue) (o : MacOps) := dataInstr (.msur i o) i (macOp o false true true)

/-! ## TAP group (R224-R227) -/

/-- Sums of two units: p0 into `aa`, p1 into `ab`, one exact sum where they are equal. -/
def tapSums (sub : Bool) (aa ab : BitVec 2) (p0 p1 : Int) (t0 t1 : BitVec 4) (c : Core) : Eff :=
  let fin (i : BitVec 2) (p : Int) : Int × Bool := satA ((c.regs.ar i).v.toInt + if sub then -p else p)
  let tg (i : BitVec 2) (t : BitVec 4) : BitVec 4 := (c.regs.ar i).tag ||| t
  if aa = ab then macEff aa aa (fin aa (p0 + p1)) (tg aa (t0 ||| t1)) none
  else macEff aa ab (fin aa p0) (tg aa t0) (some (fin ab p1, tg ab t1))

/-- The two parallel loads of TAP and TAP2, into coefficient and sample registers. -/
def tapLoads (l : TapLoads) (dc dx : BitVec 3) (c : Core) (e : Eff) : Eff :=
  let x := pointerAccess c.regs l.p0 l.m0.toNat
  let y := pointerAccess c.regs l.p1 l.m1.toNat
  { e with
    loads := [{ addr := x.addr, code := dc.toNat, nf := l.nf0, tap := true }, { addr := y.addr, code := dx.toNat, nf := l.nf1, tap := true }]
    mods := x.mod.toList ++ y.mod.toList, cr := x.cr || y.cr }

/-- TAP (R225). -/
def execTap (i : Issue) (sub : Bool) (aa : BitVec 2) (dc dx : BitVec 3) (l : TapLoads) :=
  dataInstr (.tap i sub aa dc dx l) i fun c =>
    let p := product .signed (mulOp c dc).v (mulOp c dx).v
    some (tapLoads l dc dx c (tapSums sub aa aa p 0 ((mulOp c dc).tag ||| (mulOp c dx).tag) 0 c))

/-- TAP2 (R226). -/
def execTap2 (i : Issue) (sub : Bool) (aa ab : BitVec 2) (dc dx dy : BitVec 3) (l : TapLoads) :=
  dataInstr (.tap2 i sub aa ab dc dx dy l) i fun c =>
    let co := mulOp c dc
    let x := mulOp c dx
    let y := mulOp c dy
    some (tapLoads l dc dx c
      { tapSums sub aa ab (product .signed co.v x.v) (product .signed co.v y.v) (co.tag ||| x.tag) (co.tag ||| y.tag) c with
        move := some (dy, x) })

/-- The real and imaginary loads of a pair (R227). -/
def pairAccess (r : Regs) (n : BitVec 3) (mode : BitVec 2) : Access × Nat :=
  ({ addr := (r.pr n).toNat, mod := (stepOf r n mode.toNat 2).map fun p => (n, p), cr := !inWindow r n }, (offsetAt r n 1).toNat)

/-- CMAC (R227). -/
def execCmac (i : Issue) (sub : Bool) (aa ab : BitVec 2) (u : BitVec 2) (conj : Bool) (w : BitVec 2) (l : TapLoads) :=
  dataInstr (.cmac i sub aa ab u conj w l) i fun c =>
    let op (p : BitVec 2) (im : Nat) : DReg := mulOp c (pairReg p im)
    let m (a b : Nat) : Int := product .signed (op u a).v (op w b).v
    let t := (op u 0).tag ||| (op u 1).tag ||| (op w 0).tag ||| (op w 1).tag
    let p0 := if conj then m 0 0 + m 1 1 else m 0 0 - m 1 1
    let p1 := if conj then m 1 0 - m 0 1 else m 0 1 + m 1 0
    let (x, xi) := pairAccess c.regs l.p0 l.m0
    let (y, yi) := pairAccess c.regs l.p1 l.m1
    some { tapSums sub aa ab p0 p1 t t c with
      loads :=
        [{ addr := x.addr, code := (pairReg u 0).toNat, nf := l.nf0, tap := true },
         { addr := y.addr, code := (pairReg w 0).toNat, nf := l.nf1, tap := true },
         { addr := xi, code := (pairReg u 1).toNat, nf := l.nf0, hc := 1, tap := true },
         { addr := yi, code := (pairReg w 1).toNat, nf := l.nf1, hc := 1, tap := true }]
      mods := x.mod.toList ++ y.mod.toList, cr := x.cr || y.cr, cost := 2 }

/-! ## ALU group (R203-R207, R228, R229) -/

/-- The low two bits of a 3-bit field that names an accumulator. -/
def acc (i : BitVec 3) : BitVec 2 := i.setWidth 2

/-- An ALU instruction of op code `op` with the effect `f`. -/
def aluInstr (cmd : Instr) (i : Issue) (op : Nat) (o : AluOps) (f : Regs → Eff) : State → Host.Outcome State Fault Refusal :=
  dataInstr cmd i fun c =>
    if aluOk op o.form.toNat o.dst.toNat o.s1.toNat o.s2.toNat o.ci o.cnt.toNat then some (f c.regs) else none

/-- An exact two-operand result in the three forms of ADD and SUB. -/
def aluTwo (f : Int → Int → Int) (o : AluOps) (r : Regs) : Eff :=
  match o.form.toNat with
  | 0 => dEff o.dst (satD (f (r.dr o.s1).v.toInt (r.dr o.s2).v.toInt)) ((r.dr o.s1).tag ||| (r.dr o.s2).tag)
  | 1 => aEff (acc o.dst) (satA (f (r.ar (acc o.s1)).v.toInt (r.ar (acc o.s2)).v.toInt))
      ((r.ar (acc o.s1)).tag ||| (r.ar (acc o.s2)).tag)
  | _ => aEff (acc o.dst) (satA (f (r.ar (acc o.s1)).v.toInt ((r.dr o.s2).v.toInt * 2 ^ 24)))
      ((r.ar (acc o.s1)).tag ||| (r.dr o.s2).tag)

/-- An exact one-operand result in the two forms of NEG and ABS. -/
def aluOne (f : Int → Int) (o : AluOps) (r : Regs) : Eff :=
  if o.form = 0 then dEff o.dst (satD (f (r.dr o.s1).v.toInt)) (r.dr o.s1).tag
  else aEff (acc o.dst) (satA (f (r.ar (acc o.s1)).v.toInt)) (r.ar (acc o.s1)).tag

/-- A bitwise result on D registers. -/
def aluLogic (f : BitVec 24 → BitVec 24 → BitVec 24) (o : AluOps) (r : Regs) : Eff :=
  dEff o.dst ((f (r.dr o.s1).v (r.dr o.s2).v).toInt, false) ((r.dr o.s1).tag ||| (r.dr o.s2).tag)

/-- A shift; `dir` is 1 to the left and -1 to the right (R205). -/
def aluShift (dir : Int) (o : AluOps) (r : Regs) : Eff :=
  let n : Int := if o.ci then o.cnt.toNat else sgn 7 (r.dr o.s2).v.toNat
  let t : BitVec 4 := if o.ci then 0 else (r.dr o.s2).tag
  if o.form = 0 then dEff o.dst (satD (shiftBy (r.dr o.s1).v.toInt (dir * n))) ((r.dr o.s1).tag ||| t)
  else aEff (acc o.dst) (satA (shiftBy (r.ar (acc o.s1)).v.toInt (dir * n))) ((r.ar (acc o.s1)).tag ||| t)

/-- ADD. -/
def execAdd (i : Issue) (o : AluOps) := aluInstr (.add i o) i 0 o (aluTwo (· + ·) o)
/-- SUB. -/
def execSub (i : Issue) (o : AluOps) := aluInstr (.sub i o) i 1 o (aluTwo (· - ·) o)
/-- NEG. -/
def execNeg (i : Issue) (o : AluOps) := aluInstr (.neg i o) i 2 o (aluOne (- ·) o)
/-- ABS. -/
def execAbs (i : Issue) (o : AluOps) := aluInstr (.abs i o) i 3 o (aluOne (fun x => (x.natAbs : Int)) o)
/-- CMP. -/
def execCmp (i : Issue) (o : AluOps) :=
  aluInstr (.cmp i o) i 4 o fun r =>
    let x := if o.form = 0 then (r.dr o.s1).v.toInt - (r.dr o.s2).v.toInt else (r.ar (acc o.s1)).v.toInt - (r.ar (acc o.s2)).v.toInt
    { flags := some (nzvOf x false) }
/-- AND. -/
def execAnd (i : Issue) (o : AluOps) := aluInstr (.and i o) i 5 o (aluLogic (· &&& ·) o)
/-- OR. -/
def execOr (i : Issue) (o : AluOps) := aluInstr (.or i o) i 6 o (aluLogic (· ||| ·) o)
/-- XOR. -/
def execXor (i : Issue) (o : AluOps) := aluInstr (.xor i o) i 7 o (aluLogic (· ^^^ ·) o)
/-- SHL. -/
def execShl (i : Issue) (o : AluOps) := aluInstr (.shl i o) i 8 o (aluShift 1 o)
/-- SHR. -/
def execShr (i : Issue) (o : AluOps) := aluInstr (.shr i o) i 9 o (aluShift (-1) o)
/-- MVA (R201). -/
def execMva (i : Issue) (o : AluOps) :=
  aluInstr (.mva i o) i 10 o fun r => dEff o.dst (mvaOf r.rnd (r.ar (acc o.s1)).v.toInt) (r.ar (acc o.s1)).tag
/-- NORM (R206). -/
def execNorm (i : Issue) (o : AluOps) := aluInstr (.norm i o) i 11 o fun r => dEff o.dst (normOf (r.ar (acc o.s1)).v, false) (r.ar (acc o.s1)).tag
/-- DIVS (R207). -/
def execDivs (i : Issue) (o : AluOps) :=
  aluInstr (.divs i o) i 12 o fun r =>
    let a := r.ar (acc o.dst)
    let d := r.dr o.s2
    aEff (acc o.dst) ((divStep a.v d.v).toInt, false) (a.tag ||| d.tag)
/-- CLR. -/
def execClr (i : Issue) (o : AluOps) :=
  aluInstr (.clr i o) i 13 o fun _ => if o.form = 0 then dEff o.dst (0, false) 0 else aEff (acc o.dst) (0, false) 0

/-! ## Memory and moves (R230-R234) -/

/-- LD. -/
def execLd (i : Issue) (o : MemOps) :=
  dataInstr (.ld i o) i fun c =>
    if codeOk o.reg then (memAccess c.regs o.mode o.ea).map fun a =>
      { loads := [{ addr := a.addr, code := o.reg.toNat, nf := o.nf }], mods := a.mod.toList, cr := a.cr }
    else none

/-- ST. -/
def execSt (i : Issue) (o : MemOps) :=
  dataInstr (.st i o) i fun c =>
    if codeOk o.reg then (memAccess c.regs o.mode o.ea).map fun a =>
      { store := some (a.addr, toContainer (readCode c o.reg.toNat) o.nf), mods := a.mod.toList, cr := a.cr }
    else none

/-- ST with MVA. -/
def execStMva (i : Issue) (o : MemOps) :=
  dataInstr (.stMva i o) i fun c =>
    if o.reg.toNat / 4 = 2 then (memAccess c.regs o.mode o.ea).map fun a =>
      let r := c.regs.ar (BitVec.ofNat 2 o.reg.toNat)
      let x := mvaOf c.regs.rnd r.v.toInt
      let d : DReg := { v := BitVec.ofInt 24 x.1, tag := if x.2 then r.tag ||| tagS else r.tag }
      { store := some (a.addr, toContainer d o.nf), mods := a.mod.toList, cr := a.cr, flags := some (nzvOf x.1 x.2) }
    else none

/-- A paired-memory word (R231, R232). -/
def pairInstr (cmd : Instr) (i : Issue) (o : PairOps) (st1 : Bool) : State → Host.Outcome State Fault Refusal :=
  dataInstr cmd i fun c =>
    if codeOk o.reg0 && codeOk o.reg1 then
      let x := pointerAccess c.regs o.ptr0 o.mode0.toNat
      let y := pointerAccess c.regs o.ptr1 o.mode1.toNat
      let l0 : Load1 := { addr := x.addr, code := o.reg0.toNat, nf := o.nf0 }
      let l1 : Load1 := { addr := y.addr, code := o.reg1.toNat, nf := o.nf1 }
      some {
        loads := if st1 then [l0] else [l0, l1]
        store := if st1 then some (y.addr, toContainer (readCode c o.reg1.toNat) o.nf1) else none
        mods := x.mod.toList ++ y.mod.toList, cr := x.cr || y.cr }
    else none

/-- LD with LD. -/
def execLdLd (i : Issue) (o : PairOps) := pairInstr (.ldLd i o) i o false
/-- LD with ST. -/
def execLdSt (i : Issue) (o : PairOps) := pairInstr (.ldSt i o) i o true

/-- MOV. -/
def execMov (i : Issue) (dst src : BitVec 6) :=
  dataInstr (.mov i dst src) i fun c =>
    if ¬ codeOk dst ∨ ¬ codeOk src then none
    else if dst.toNat / 4 = 2 ∧ src.toNat / 4 = 2 then
      let x := c.regs.ar (BitVec.ofNat 2 src.toNat)
      some { apply := fun r => r.setA (BitVec.ofNat 2 dst.toNat) x }
    else
      let x := readCode c src.toNat
      some { apply := writeCode dst.toNat x }

/-- MOV Dd, TAG(src). -/
def execMovTagToD (i : Issue) (dst src : BitVec 6) :=
  dataInstr (.movTagToD i dst src) i fun c =>
    if dst.toNat < 8 ∧ src.toNat < 12 then
      let t := (readCode c src.toNat).tag
      some { apply := fun r => r.setD (BitVec.ofNat 3 dst.toNat) { v := t.setWidth 24 } }
    else none

/-- MOV TAG(dst), Ds. -/
def execMovTagFromD (i : Issue) (dst src : BitVec 6) :=
  dataInstr (.movTagFromD i dst src) i fun c =>
    if dst.toNat < 12 ∧ src.toNat < 8 then
      let t := (c.regs.dr (BitVec.ofNat 3 src.toNat)).v.setWidth 4
      some { apply := fun r =>
        if dst.toNat < 8 then r.setD (BitVec.ofNat 3 dst.toNat) { r.dr (BitVec.ofNat 3 dst.toNat) with tag := t }
        else r.setA (BitVec.ofNat 2 dst.toNat) { r.ar (BitVec.ofNat 2 dst.toNat) with tag := t } }
    else none

/-- MOVI to a D register. -/
def execMoviD (i : Issue) (dst : BitVec 3) (val : BitVec 24) :=
  dataInstr (.moviD i dst val) i fun _ => some { apply := fun r => r.setD dst { v := val } }

/-- MOVI to an address register. -/
def execMoviAddress (i : Issue) (cls : BitVec 2) (idx : BitVec 3) (val : BitVec 22) :=
  dataInstr (.moviAddress i cls idx val) i fun _ => some { apply := fun r =>
    match cls.toNat with
    | 0 => r.setP idx val
    | 1 => r.setB idx val
    | 2 => r.setL idx val
    | _ => r.setM idx val }

/-! ## Control (R235-R241) -/

/-- NOP. -/
def execNop (i : Issue) := ctlInstr (.nop i) i .control fun c => some (nextPc c)

/-- Two delay slots open; control then passes to `goTo`, or goes on in sequence (R236). -/
def delayTo (goTo : Option (BitVec 17)) (c : Core) : Core := { nextPc c with ds := 2, target := goTo }

/-- BR. -/
def execBr (i : Issue) (target : BitVec 17) := ctlInstr (.br i target) i .transfer fun c => some (delayTo (some target) c)

/-- BRC. SW is as the instruction before wrote it; a load to SW lands after the test. -/
def execBrc (i : Issue) (cond : BitVec 3) (target : BitVec 17) : State → Host.Outcome State Fault Refusal :=
  fun s =>
    let take := condOf (s.core i.core.val).regs cond.toNat
    ctlInstr (.brc i cond target) i .transfer (fun c => some (delayTo (if take then some target else none) c)) s

/-- CALL (R237). -/
def execCall (i : Issue) (target : BitVec 17) :=
  ctlInstr (.call i target) i .transfer fun c =>
    if c.ret.length < 8 then some { delayTo (some target) c with ret := (c.regs.pc + 3) :: c.ret } else none

/-- RET (R237). -/
def execRet (i : Issue) :=
  ctlInstr (.ret i) i .transfer fun c =>
    match c.ret with
    | [] => none
    | a :: rest => some { delayTo (some a) c with ret := rest }

/-- REPI and REPD (R238): with a count of 0 the next word is decoded and skipped; it must be legal where it stands (R222, R239). -/
def repeatInstr (cmd : Instr) (i : Issue) (count : Core → Nat) : State → Host.Outcome State Fault Refusal :=
  fun s =>
    let c0 := s.core i.core.val
    let n := count c0
    let next := c0.regs.pc + 1
    let word := (fetchedWord s { c0 with regs := c0.regs.setPc next }).toNat
    let atEnd := c0.loops.head?.any fun f => f.endAt == next
    ctlInstr cmd i .control (fun c =>
      if n = 0 then
        if wordBad word ∨ word / 2 ^ 28 = 7 ∨ atEnd then none else some { c with regs := c.regs.setPc (c.regs.pc + 2) }
      else some { nextPc c with rep := n }) s

/-- REPI. -/
def execRepi (i : Issue) (countM1 : BitVec 12) := repeatInstr (.repi i countM1) i fun _ => countM1.toNat + 1
/-- REPD. -/
def execRepd (i : Issue) (ds : BitVec 3) := repeatInstr (.repd i ds) i fun c => (c.regs.dr ds).v.toNat % 4096

/-- LOOPI and LOOPD (R239). The outer LC is the one that the instruction sees: a load of LC just before it lands too late (R242). -/
def loopInstr (cmd : Instr) (i : Issue) (e : BitVec 12) (count : Core → Nat) :
    State → Host.Outcome State Fault Refusal :=
  fun s =>
    let c0 := s.core i.core.val
    let n := count c0
    ctlInstr cmd i .control (fun c =>
      let a := c.regs.pc
      if 3 ≤ c.loops.length then none
      else if n = 0 then some { c with regs := c.regs.setPc (a + 3 + e.setWidth 17) }
      else
        let c' := nextPc c
        some { c' with
          loops := { lc := c0.regs.lc, start := a + 1, endAt := a + 2 + e.setWidth 17 } :: c.loops
          regs := c'.regs.setLc (BitVec.ofNat 16 n) }) s

/-- LOOPI. -/
def execLoopi (i : Issue) (e countM1 : BitVec 12) := loopInstr (.loopi i e countM1) i e fun _ => countM1.toNat + 1
/-- LOOPD. -/
def execLoopd (i : Issue) (e : BitVec 12) (ds : BitVec 3) := loopInstr (.loopd i e ds) i e fun c => (c.regs.dr ds).v.toNat % 65536

/-- END (R239, R242): no hc, and the loads of the last instruction of the body are still to land. LC is as the body
leaves it. -/
def execEndLoop (i : Issue) : State → Host.Outcome State Fault Refusal :=
  issue (.endLoop i) i .loopEnd true fun n c s =>
    let (ib, fc) := fetchCost c (tkHolm (instBody s c.inst))
    match c.loops with
    | [] => illegal n s
    | f :: rest =>
      let c := { c with ibuf := ib, hc := c.hc + fc }
      let c' :=
        if 1 < c.regs.lc.toNat then { c with regs := (c.regs.setLc (c.regs.lc - 1)).setPc f.start }
        else { c with loops := rest, regs := (c.regs.setLc f.lc).setPc (c.regs.pc + 1) }
      s.setCore n (takeEvents c')

/-- A WAITE that finds pending bits (R241). -/
def waiteTake (dd : BitVec 3) (mask : BitVec 4) (c : Core) : Core :=
  let x := c.sig &&& mask
  nextPc { c with wait := none, sig := c.sig &&& ~~~mask, regs := c.regs.setD dd { v := x.setWidth 24 } }

/-- WAITE (R241). -/
def execWaite (i : Issue) (dd : BitVec 3) (mask : BitVec 4) :=
  ctlInstr (.waite i dd mask) i .control fun c =>
    if mask = 0 then none
    else if c.sig &&& mask ≠ 0 then some (waiteTake dd mask c)
    else some { c with wait := some (dd, mask), waitFrom := i.t.toNat }

/-- YIELD (R240). -/
def execYield (i : Issue) := ctlInstr (.yield i) i .control fun c => some { c with st := 2, ret := [], loops := [] }

/-- A word in a reserved group, or with a reserved code or field (R222). -/
def execIllegalInstruction (i : Issue) (word : Word) : State → Host.Outcome State Fault Refusal :=
  if wordBad word.toNat then issue (.illegalInstruction i word) i .plain false fun _ _ s => s else act i.t id

/-! ## Events (R246-R248) -/

/-- An event on a running core, where the raiser's level and the core's holm allow it. -/
def coreEvent (t : Gts) (core : CoreId) (ok : State → Bool) (f : Core → Core) : State → Host.Outcome State Fault Refusal :=
  act t fun s =>
    let c := s.core core.val
    if ok s && c.st == 1 && !gated s (core.val / 5) then s.setCore core.val (f c) else s

/-- Whether the debug session is at Invasive level. -/
def invasive (s : State) : Bool := s.trust.level == 2

/-- HALT. -/
def execHalt (t : Gts) (core : CoreId) := coreEvent t core invasive fun c => takeEvents { c with stop := !c.halted }
/-- STEP. -/
def execStep (t : Gts) (core : CoreId) := coreEvent t core invasive fun c => { c with halted := false, stop := true }
/-- BREAK: a comparator on PC, or on a data address that has just been accessed (`pc` none). -/
def execBreakAt (t : Gts) (core : CoreId) (pc : Option (BitVec 17)) :=
  coreEvent t core invasive fun c =>
    match pc with
    | some p => if c.regs.pc = p ∧ ¬ c.halted then takeEvents { c with stop := true } else c
    | none => if c.halted then c else takeEvents { c with stop := true }
/-- TRACE. -/
def execTrace (t : Gts) (core : CoreId) := coreEvent t core (fun s => s.trust.level != 0) fun c => takeEvents { c with traceDue := true }

/-- The hc that a wait of some grains comes to, at the pace of the previous Ell as in R174 (DESIGN CHOICE, log 32). -/
def waitHc (s : State) (c : Core) (grains : Nat) : Nat :=
  let g := tget 0 s.ha.pace (tkHolm (instBody s c.inst))
  grains * (if g = 0 then 4096 else g) / 16384

/-- SIG0 to SIG3; a WAITE that finds its bit has cost its wait too (R217, R245). -/
def execSig (t : Gts) (core : CoreId) (b : Fin 4) (byDebug : Bool) : State → Host.Outcome State Fault Refusal :=
  fun s =>
    let cost := waitHc s (s.core core.val) (t.toNat - (s.core core.val).waitFrom)
    coreEvent t core (fun s => if byDebug then invasive s else s.sup.mode == .test) (fun c =>
      let c := { c with sig := c.sig ||| BitVec.ofNat 4 (2 ^ b.val) }
      match c.wait with
      | some (d, m) => if c.sig &&& m ≠ 0 then takeEvents (waiteTake d m { c with hc := c.hc + cost }) else c
      | none => c) s

end Sys2Proof.Machine
end

