-- ==== Sys2Proof/Machine/Dispatch.lean ====
section
/-! DEFINITION. The dispatch of a command to its meaning: one arm per constructor of Instr. -/

namespace Sys2Proof.Machine

/-- The effect of a command on everything but the queue. -/
def exec (i : Instr) (s : State) : Host.Outcome State Fault Refusal :=
  match i with
  | .registerWrite t m off allBytes data => Sys2Proof.Machine.execRegisterWrite t m off allBytes data s
  | .counterLowRead t m off => Sys2Proof.Machine.execCounterLowRead t m off s
  | .eventWrite t m off v => Sys2Proof.Machine.execEventWrite t m off v s
  | .cutOff t => Sys2Proof.Machine.execCutOff t s
  | .playoutStart t rcBad => Sys2Proof.Machine.execPlayoutStart t rcBad s
  | .ellTick t rep => Sys2Proof.Machine.execEllTick t rep s
  | .rateChainComplete t hc => Sys2Proof.Machine.execRateChainComplete t hc s
  | .mixComplete t hc => Sys2Proof.Machine.execMixComplete t hc s
  | .taskDispatch t task => Sys2Proof.Machine.execTaskDispatch t task s
  | .taskCommit t core pass => Sys2Proof.Machine.execTaskCommit t core pass s
  | .slotDeadline t core => Sys2Proof.Machine.execSlotDeadline t core s
  | .stageDeadline t => Sys2Proof.Machine.execStageDeadline t s
  | .eccRetry t core clean => Sys2Proof.Machine.execEccRetry t core clean s
  | .stateZeroingDone t task => Sys2Proof.Machine.execStateZeroingDone t task s
  | .delayedDispatch t task => Sys2Proof.Machine.execDelayedDispatch t task s
  | .beginLoad t m => Sys2Proof.Machine.execBeginLoad t m s
  | .push t m => Sys2Proof.Machine.execPush t m s
  | .pieceTaken t => Sys2Proof.Machine.execPieceTaken t s
  | .finishLoad t m => Sys2Proof.Machine.execFinishLoad t m s
  | .verifyDone t sigOk => Sys2Proof.Machine.execVerifyDone t sigOk s
  | .commit t m => Sys2Proof.Machine.execCommit t m s
  | .abort t m => Sys2Proof.Machine.execAbort t m s
  | .flashLoad t slotA slotB sigA sigB => Sys2Proof.Machine.execFlashLoad t slotA slotB sigA sigB s
  | .deltaApply t => Sys2Proof.Machine.execDeltaApply t s
  | .deltaCommit t => Sys2Proof.Machine.execDeltaCommit t s
  | .rxFrame t p bytes ts icv fcs => Sys2Proof.Machine.execRxFrame t p bytes ts icv fcs s
  | .pauseFrame t p k => Sys2Proof.Machine.execPauseFrame t p k s
  | .pauseExpiry t p c => Sys2Proof.Machine.execPauseExpiry t p c s
  | .pauseStorm t p c => Sys2Proof.Machine.execPauseStorm t p c s
  | .releaseWindowEnd t p c => Sys2Proof.Machine.execReleaseWindowEnd t p c s
  | .linkDown t p cause => Sys2Proof.Machine.execLinkDown t p cause s
  | .linkUp t p => Sys2Proof.Machine.execLinkUp t p s
  | .txStart t p => Sys2Proof.Machine.execTxStart t p s
  | .gateEntry t p => Sys2Proof.Machine.execGateEntry t p s
  | .lpiEntry t p => Sys2Proof.Machine.execLpiEntry t p s
  | .rxParse t p => Sys2Proof.Machine.execRxParse t p s
  | .tagResult t stream leg seq => Sys2Proof.Machine.execTagResult t stream leg seq s
  | .legLost t stream leg => Sys2Proof.Machine.execLegLost t stream leg s
  | .adaptPeriodEnd t stream => Sys2Proof.Machine.execAdaptPeriodEnd t stream s
  | .packetBuild t stream => Sys2Proof.Machine.execPacketBuild t stream s
  | .queuePush t src q tclass aux data ts => Sys2Proof.Machine.execQueuePush t src q tclass aux data ts s
  | .pushComplete t q rest err => Sys2Proof.Machine.execPushComplete t q rest err s
  | .queuePop t src q => Sys2Proof.Machine.execQueuePop t src q s
  | .popComplete t q => Sys2Proof.Machine.execPopComplete t q s
  | .stalledPushProceed t q => Sys2Proof.Machine.execStalledPushProceed t q s
  | .stalledPopProceed t q => Sys2Proof.Machine.execStalledPopProceed t q s
  | .idleTimeout t q => Sys2Proof.Machine.execIdleTimeout t q s
  | .immediateFlush t who q => Sys2Proof.Machine.execImmediateFlush t who q s
  | .boundaryFlush t who q => Sys2Proof.Machine.execBoundaryFlush t who q s
  | .flushPoint t q => Sys2Proof.Machine.execFlushPoint t q s
  | .flushForced t q => Sys2Proof.Machine.execFlushForced t q s
  | .mark t who q => Sys2Proof.Machine.execMark t who q s
  | .release t who q => Sys2Proof.Machine.execRelease t who q s
  | .rewind t who q => Sys2Proof.Machine.execRewind t who q s
  | .pfcRepeat t q => Sys2Proof.Machine.execPfcRepeat t q s
  | .rcReset t m inst => Sys2Proof.Machine.execRcReset t m inst s
  | .mpy iss o => Sys2Proof.Machine.execMpy iss o s
  | .mpyr iss o => Sys2Proof.Machine.execMpyr iss o s
  | .mac iss o => Sys2Proof.Machine.execMac iss o s
  | .msu iss o => Sys2Proof.Machine.execMsu iss o s
  | .macr iss o => Sys2Proof.Machine.execMacr iss o s
  | .msur iss o => Sys2Proof.Machine.execMsur iss o s
  | .tap iss sub aa dc dx l => Sys2Proof.Machine.execTap iss sub aa dc dx l s
  | .tap2 iss sub aa ab dc dx dy l => Sys2Proof.Machine.execTap2 iss sub aa ab dc dx dy l s
  | .cmac iss sub aa ab u conj w l => Sys2Proof.Machine.execCmac iss sub aa ab u conj w l s
  | .add iss o => Sys2Proof.Machine.execAdd iss o s
  | .sub iss o => Sys2Proof.Machine.execSub iss o s
  | .neg iss o => Sys2Proof.Machine.execNeg iss o s
  | .abs iss o => Sys2Proof.Machine.execAbs iss o s
  | .cmp iss o => Sys2Proof.Machine.execCmp iss o s
  | .and iss o => Sys2Proof.Machine.execAnd iss o s
  | .or iss o => Sys2Proof.Machine.execOr iss o s
  | .xor iss o => Sys2Proof.Machine.execXor iss o s
  | .shl iss o => Sys2Proof.Machine.execShl iss o s
  | .shr iss o => Sys2Proof.Machine.execShr iss o s
  | .mva iss o => Sys2Proof.Machine.execMva iss o s
  | .norm iss o => Sys2Proof.Machine.execNorm iss o s
  | .divs iss o => Sys2Proof.Machine.execDivs iss o s
  | .clr iss o => Sys2Proof.Machine.execClr iss o s
  | .ld iss o => Sys2Proof.Machine.execLd iss o s
  | .st iss o => Sys2Proof.Machine.execSt iss o s
  | .stMva iss o => Sys2Proof.Machine.execStMva iss o s
  | .ldLd iss o => Sys2Proof.Machine.execLdLd iss o s
  | .ldSt iss o => Sys2Proof.Machine.execLdSt iss o s
  | .mov iss dst src => Sys2Proof.Machine.execMov iss dst src s
  | .movTagToD iss dst src => Sys2Proof.Machine.execMovTagToD iss dst src s
  | .movTagFromD iss dst src => Sys2Proof.Machine.execMovTagFromD iss dst src s
  | .moviD iss dst val => Sys2Proof.Machine.execMoviD iss dst val s
  | .moviAddress iss cls idx val => Sys2Proof.Machine.execMoviAddress iss cls idx val s
  | .nop iss => Sys2Proof.Machine.execNop iss s
  | .br iss target => Sys2Proof.Machine.execBr iss target s
  | .brc iss cond target => Sys2Proof.Machine.execBrc iss cond target s
  | .call iss target => Sys2Proof.Machine.execCall iss target s
  | .ret iss => Sys2Proof.Machine.execRet iss s
  | .repi iss countM1 => Sys2Proof.Machine.execRepi iss countM1 s
  | .repd iss ds => Sys2Proof.Machine.execRepd iss ds s
  | .loopi iss e countM1 => Sys2Proof.Machine.execLoopi iss e countM1 s
  | .loopd iss e ds => Sys2Proof.Machine.execLoopd iss e ds s
  | .endLoop iss => Sys2Proof.Machine.execEndLoop iss s
  | .waite iss dd mask => Sys2Proof.Machine.execWaite iss dd mask s
  | .yield iss => Sys2Proof.Machine.execYield iss s
  | .halt t core => Sys2Proof.Machine.execHalt t core s
  | .step t core => Sys2Proof.Machine.execStep t core s
  | .breakAt t core pc => Sys2Proof.Machine.execBreakAt t core pc s
  | .trace t core => Sys2Proof.Machine.execTrace t core s
  | .sig t core bit byDebug => Sys2Proof.Machine.execSig t core bit byDebug s
  | .swap t m => Sys2Proof.Machine.execSwap t m s
  | .force t m => Sys2Proof.Machine.execForce t m s
  | .cancel t m => Sys2Proof.Machine.execCancel t m s
  | .coefWrite t m off data => Sys2Proof.Machine.execCoefWrite t m off data s
  | .claim t m lane => Sys2Proof.Machine.execClaim t m lane s
  | .lockRelease t m lane => Sys2Proof.Machine.execLockRelease t m lane s
  | .lockExpired t lane => Sys2Proof.Machine.execLockExpired t lane s
  | .cipherOpStart t op => Sys2Proof.Machine.execCipherOpStart t op s
  | .cipherOpDone t lane parityBad tagOk out => Sys2Proof.Machine.execCipherOpDone t lane parityBad tagOk out s
  | .keyload t m slot kek ctx => Sys2Proof.Machine.execKeyload t m slot kek ctx s
  | .change t m slot kek ctx => Sys2Proof.Machine.execChange t m slot kek ctx s
  | .discard t m slot kek ctx => Sys2Proof.Machine.execDiscard t m slot kek ctx s
  | .save t m slot kek ctx => Sys2Proof.Machine.execSave t m slot kek ctx s
  | .restore t m slot kek ctx => Sys2Proof.Machine.execRestore t m slot kek ctx s
  | .exportCtx t m slot kek ctx => Sys2Proof.Machine.execExportCtx t m slot kek ctx s
  | .importCtx t m slot kek ctx => Sys2Proof.Machine.execImportCtx t m slot kek ctx s
  | .cmdComplete t parityBad unwrapOk out => Sys2Proof.Machine.execCmdComplete t parityBad unwrapOk out s
  | .encode t ctx => Sys2Proof.Machine.execEncode t ctx s
  | .blockVerify t ctx bits decodedOk storedOk => Sys2Proof.Machine.execBlockVerify t ctx bits decodedOk storedOk s
  | .stagingResume t unit => Sys2Proof.Machine.execStagingResume t unit s
  | .encodeDone t ctx => Sys2Proof.Machine.execEncodeDone t ctx s
  | .decode t ctx leg seq => Sys2Proof.Machine.execDecode t ctx leg seq s
  | .decodeDone t ctx eccBad => Sys2Proof.Machine.execDecodeDone t ctx eccBad s
  | .sync t inst msg rxTs => Sys2Proof.Machine.execSync t inst msg rxTs s
  | .followUp t inst msg => Sys2Proof.Machine.execFollowUp t inst msg s
  | .delayReq t inst msg rxTs => Sys2Proof.Machine.execDelayReq t inst msg rxTs s
  | .delayResp t inst msg => Sys2Proof.Machine.execDelayResp t inst msg s
  | .announce t inst res => Sys2Proof.Machine.execAnnounce t inst res s
  | .syncTx t inst => Sys2Proof.Machine.execSyncTx t inst s
  | .delayReqTx t inst => Sys2Proof.Machine.execDelayReqTx t inst s
  | .egressTimestamp t inst ts => Sys2Proof.Machine.execEgressTimestamp t inst ts s
  | .tsDrop t inst => Sys2Proof.Machine.execTsDrop t inst s
  | .holdoverOn t => Sys2Proof.Machine.execHoldoverOn t s
  | .holdoverExpired t => Sys2Proof.Machine.execHoldoverExpired t s
  | .ptpStep t inst => Sys2Proof.Machine.execPtpStep t inst s
  | .refRevert t => Sys2Proof.Machine.execRefRevert t s
  | .realign t m => Sys2Proof.Machine.execRealign t m s
  | .setTod t m => Sys2Proof.Machine.execSetTod t m s
  | .ppsIn t => Sys2Proof.Machine.execPpsIn t s
  | .ppsLoss t tenMhz => Sys2Proof.Machine.execPpsLoss t tenMhz s
  | .gtsRead t m => Sys2Proof.Machine.execGtsRead t m s
  | .scrub t array addr find => Sys2Proof.Machine.execScrub t array addr find s
  | .progRepair t holm addr digestOk => Sys2Proof.Machine.execProgRepair t holm addr digestOk s
  | .hsTimeout t requester dest => Sys2Proof.Machine.execHsTimeout t requester dest s
  | .destResetDone t dest => Sys2Proof.Machine.execDestResetDone t dest s
  | .unfreeze t m source => Sys2Proof.Machine.execUnfreeze t m source s
  | .clearViol t m => Sys2Proof.Machine.execClearViol t m s
  | .coreBistDone t core pass => Sys2Proof.Machine.execCoreBistDone t core pass s
  | .hostThaw t => Sys2Proof.Machine.execHostThaw t s
  | .netLost t net => Sys2Proof.Machine.execNetLost t net s
  | .classBack t p c => Sys2Proof.Machine.execClassBack t p c s
  | .logRdWrite t m v => Sys2Proof.Machine.execLogRdWrite t m v s
  | .calTimeout t => Sys2Proof.Machine.execCalTimeout t s
  | .standby t m confirm => Sys2Proof.Machine.execStandby t m confirm s
  | .off t m confirm => Sys2Proof.Machine.execOff t m confirm s
  | .test t m confirm => Sys2Proof.Machine.execTest t m confirm s
  | .recover t m confirm => Sys2Proof.Machine.execRecover t m confirm s
  | .reset t m confirm => Sys2Proof.Machine.execReset t m confirm s
  | .wake t m confirm => Sys2Proof.Machine.execWake t m confirm s
  | .powerDownDone t => Sys2Proof.Machine.execPowerDownDone t s
  | .powerOnReset t => Sys2Proof.Machine.execPowerOnReset t s
  | .brownout t => Sys2Proof.Machine.execBrownout t s
  | .resetN t tjBelow => Sys2Proof.Machine.execResetN t tjBelow s
  | .debugReset t => Sys2Proof.Machine.execDebugReset t s
  | .watchdog t => Sys2Proof.Machine.execWatchdog t s
  | .perstN t => Sys2Proof.Machine.execPerstN t s
  | .trstN t => Sys2Proof.Machine.execTrstN t s
  | .wakePin t => Sys2Proof.Machine.execWakePin t s
  | .firmwareVerified t sensed slots => Sys2Proof.Machine.execFirmwareVerified t sensed slots s
  | .fuseCheck t differs => Sys2Proof.Machine.execFuseCheck t differs s
  | .idReady t => Sys2Proof.Machine.execIdReady t s
  | .attest t m => Sys2Proof.Machine.execAttest t m s
  | .reportReady t signature => Sys2Proof.Machine.execReportReady t signature s
  | .present t m => Sys2Proof.Machine.execPresent t m s
  | .certAccept t sigOk => Sys2Proof.Machine.execCertAccept t sigOk s
  | .openSession t m => Sys2Proof.Machine.execOpenSession t m s
  | .closeSession t m => Sys2Proof.Machine.execCloseSession t m s
  | .debugClose t => Sys2Proof.Machine.execDebugClose t s
  | .progSlot t m arg => Sys2Proof.Machine.execProgSlot t m arg s
  | .progKek t m arg => Sys2Proof.Machine.execProgKek t m arg s
  | .advance t m arg => Sys2Proof.Machine.execAdvance t m arg s
  | .provision t m confirm => Sys2Proof.Machine.execProvision t m confirm s
  | .deploy t m confirm => Sys2Proof.Machine.execDeploy t m confirm s
  | .lockdown t m confirm => Sys2Proof.Machine.execLockdown t m confirm s
  | .glitchDetect t => Sys2Proof.Machine.execGlitchDetect t s
  | .flashPass t m => Sys2Proof.Machine.execFlashPass t m s
  | .zeroizeComplete t => Sys2Proof.Machine.execZeroizeComplete t s
  | .tailWrite t m ring v => Sys2Proof.Machine.execTailWrite t m ring v s
  | .rxRingDeliver t ring descs => Sys2Proof.Machine.execRxRingDeliver t ring descs s
  | .txRingPush t ring descs data => Sys2Proof.Machine.execTxRingPush t ring descs data s
  | .ringSignal t ring => Sys2Proof.Machine.execRingSignal t ring s
  | .codedPlace t ring desc data => Sys2Proof.Machine.execCodedPlace t ring desc data s
  | .codedDeliver t ring slot desc => Sys2Proof.Machine.execCodedDeliver t ring slot desc s
  | .dmaErr t ring status => Sys2Proof.Machine.execDmaErr t ring status s
  | .localFrame t port samples cs => Sys2Proof.Machine.execLocalFrame t port samples cs s
  | .lpUnlock t port => Sys2Proof.Machine.execLpUnlock t port s
  | .spiRead t off n => Sys2Proof.Machine.execSpiRead t off n s
  | .spiWrite t off bytes => Sys2Proof.Machine.execSpiWrite t off bytes s
  | .bistSram t m => Sys2Proof.Machine.execBistSram t m s
  | .bistLanes t m => Sys2Proof.Machine.execBistLanes t m s
  | .bistCore t m arg => Sys2Proof.Machine.execBistCore t m arg s
  | .pcsLoopback t m arg => Sys2Proof.Machine.execPcsLoopback t m arg s
  | .localLoopback t m => Sys2Proof.Machine.execLocalLoopback t m s
  | .endLoopbacks t m => Sys2Proof.Machine.execEndLoopbacks t m s
  | .testDone t pass item => Sys2Proof.Machine.execTestDone t pass item s
  | .illegalInstruction iss word => Sys2Proof.Machine.execIllegalInstruction iss word s
  | .announceReceiptTimeout t inst => Sys2Proof.Machine.execAnnounceReceiptTimeout t inst s
  | .fuseOperationDone t => Sys2Proof.Machine.execFuseOperationDone t s
  | .serdesAndPcieRailsUp t => Sys2Proof.Machine.execSerdesAndPcieRailsUp t s
  | .tenMhzInputPresent t => Sys2Proof.Machine.execTenMhzInputPresent t s
  | .lowPowerIdleFromPartner t p enter => Sys2Proof.Machine.execLowPowerIdleFromPartner t p enter s

end Sys2Proof.Machine
end

