-- ==== Sys2Proof/WellFormed.lean ====
section
/-! DEFINITION. Well-formed commands: operands that name something the TD4096 has. The types bound most operands; the
checks here are those that a type does not make. -/

namespace Sys2Proof

/-- A queue of the fabric (R121). -/
def queueOk (q : BitVec 7) : Bool := q.toNat < 96

/-- A local audio port: AES3, MADI or TDM (R437). -/
def localCodeOk (p : Byte) : Bool := p.toNat < 0x14 || p == 0x20 || p == 0x21

/-- A context of a Cipher Engine command: SRTP, or a MACsec association of a port (R306, R310). -/
def ceCtxOk (c : BitVec 16) : Bool := c.toNat < 2048 || (0x8000 ≤ c.toNat && c.toNat < 0x8020)

/-- A pause frame: a PFC frame carries eight quanta (R77). -/
def pauseOk : PauseKind → Bool
  | .link _ => true
  | .pfc _ qs => qs.length == 8

/-- The instants at which the stretches of a push are written do not fall (R129). -/
def stretchesOk (t : Gts) : List (Gts × List Byte) → Bool
  | [] => true
  | (g, _) :: r => decide (t.toNat ≤ g.toNat) && stretchesOk g r

/-- Whether a command is well formed. -/
def Instr.wf : Instr → Bool
  | .registerWrite _ _ _ _ data => !data.isEmpty
  | .coefWrite _ _ a data => !data.isEmpty && 0x600000 ≤ a.toNat && a.toNat < 0x800000
  | .pauseFrame _ _ k => pauseOk k
  | .queuePush t _ q _ _ data _ => queueOk q && stretchesOk t data.later
  | .pushComplete _ q _ _ => queueOk q
  | .queuePop _ _ q => queueOk q
  | .popComplete _ q => queueOk q
  | .stalledPushProceed _ q => queueOk q
  | .stalledPopProceed _ q => queueOk q
  | .idleTimeout _ q => queueOk q
  | .immediateFlush _ _ q => queueOk q
  | .boundaryFlush _ _ q => queueOk q
  | .flushPoint _ q => queueOk q
  | .flushForced _ q => queueOk q
  | .mark _ _ q => queueOk q
  | .release _ _ q => queueOk q
  | .rewind _ _ q => queueOk q
  | .pfcRepeat _ q => queueOk q
  | .taskCommit t _ pass => decide (pass.start.toNat ≤ t.toNat)
  | .keyload _ _ _ _ c => ceCtxOk c
  | .change _ _ _ _ c => ceCtxOk c
  | .discard _ _ _ _ c => ceCtxOk c
  | .save _ _ _ _ c => ceCtxOk c
  | .restore _ _ _ _ c => ceCtxOk c
  | .exportCtx _ _ _ _ c => ceCtxOk c
  | .importCtx _ _ _ _ c => ceCtxOk c
  | .localFrame _ p _ _ => localCodeOk p
  | .lpUnlock _ p => localCodeOk p
  | _ => true

end Sys2Proof
end

