-- ==== Sys2Proof/Safety.lean ====
section
/-! DEFINITION. The terms in which claims are stated: what it is for a command to do something, and what a safe run keeps. -/

namespace Sys2Proof

open Machine

/-- A command answers a next state, and that state satisfies `P`. -/
def Does (c : Instr) (s : State) (P : State → Prop) : Prop := ∃ s', exec c s = .next s' ∧ P s'

/-- A command has no effect but the passing of time: it answers the state in which it arrived at its GTS. -/
def Idles (c : Instr) (t : Gts) (s : State) : Prop := exec c s = .next (s.advance t)

/-- The event that a command logs is the newest one that waits for the log. -/
def Logs (s s' : State) (source code : Nat) (d : List Nat) : Prop :=
  s'.log.fresh = s.log.fresh ++ [{ gts := s.now, source := source, code := code, d := d }]

/-- The two commands that restart GTS from zero (R334, R392). -/
def restarts : Instr → Bool
  | .powerOnReset _ => true
  | .brownout _ => true
  | _ => false

/-- The fuse array only advances (R404): the count never falls, a revoked slot stays revoked, a programmed slot or KEK keeps
its value, a KEK that is off stays off, and the lifecycle never goes back. -/
def FusesAdvance (a b : Fuses) : Prop :=
  a.lifecycle ≤ b.lifecycle ∧ a.rollback ≤ b.rollback ∧ (∀ i, a.revoked.getLsbD i = true → b.revoked.getLsbD i = true) ∧
    (∀ i, a.kekOff.getLsbD i = true → b.kekOff.getLsbD i = true) ∧
    (∀ i, tget [] a.slots i ≠ [] → tget [] b.slots i = tget [] a.slots i) ∧
    (∀ i, tget [] a.keks i ≠ [] → tget [] b.keks i = tget [] a.keks i)

/-! ## Registers -/

/-- A register whose write has no effect of its own: no operation, event register, window, staging, ring, watchdog or NP_EEE. -/
def ordinary (off : Nat) : Bool :=
  decide (regDef off ≠ {}) && (evOf off).isNone && off != baseSV + 0x404 && off != baseSV + 0x408 && off != baseSV + 0x894 &&
    !(decide (baseHP + 0x1000 ≤ off) && decide (off < baseHP + 0x1400)) &&
    !(match blkOf off with | .np p => off == baseNP p + 0x38 || off == baseNP p + 0x48 | _ => false)

/-- Whether bit `i` of a register takes a master's write (R6): RW bits always; RWL bits until the lock, which binds the host
and the management SPI alone (R84). -/
def bitWritable (s : State) (m : Master) (off i : Nat) : Bool :=
  bit (regDef off).rw i || (bit (regDef off).rwl i && !(s.sup.rwlLocked && (m == .host || m == .spi)))

/-- From `a` to `b`, the register at `off` took the writable bits of `v`, and no other register changed. -/
def Stored (m : Master) (off : Nat) (v : Word) (a b : State) : Prop :=
  (∀ o, o ≠ off → b.reg o = a.reg o) ∧
    ∀ i, i < 32 → bit (b.reg off) i = if bitWritable a m off i then v.getLsbD i else bit (a.reg off) i

/-- The words of the last read of a master. -/
def readBack (s : State) (m : Master) : List Word := tget [] s.rdata (masterKey m)

/-! ## Frames of one block among many -/

/-- No port but `p` changed. -/
def OnlyPort (p : Nat) (a b : State) : Prop := ∀ j, j ≠ p → b.port j = a.port j

/-- No queue but `q` changed. -/
def OnlyQueue (q : Nat) (a b : State) : Prop := ∀ j, j ≠ q → b.queue j = a.queue j

/-- A state in which queue `q` stands as it does by now: what has been written has come, and windows that have ended have timed out
(R129, R130). -/
def queueNow (q : Nat) (d : List Byte) (s : State) : State := qWrite q d (s.queue q).coming s

/-- Nothing changed but queues, counters, ports that send PFC, free values used up, and what events leave. -/
def QueueFrame (a b : State) : Prop :=
  b = { a with queues := b.queues, ctrs := b.ctrs, ports := b.ports, freeN := b.freeN, log := b.log, regs := b.regs, msix := b.msix }

/-- Nothing changed but ports, counters, and what the events of the command leave. -/
def PortFrame (a b : State) : Prop :=
  b = { a with ports := b.ports, ctrs := b.ctrs, log := b.log, regs := b.regs, msix := b.msix }

/-- A counter counted `n` more. -/
def Counted (a b : State) (off n : Nat) : Prop := b.ctr off = (a.ctr off + n) % 2 ^ 64

/-! ## Geldin instructions -/

/-- What the issue of an instruction needs, wherever it stands: its core can issue, no detector reports, the word at the PC spells
it, and the fetch is good. -/
abbrev Fetches (c : Instr) (i : Issue) (s : State) : Prop :=
  coreReady (s.advance i.t) i.core.val = true ∧ i.fault = .none ∧
    spells (s.advance i.t) ((s.advance i.t).core i.core.val) i c = true ∧
    fetchBad (s.advance i.t) ((s.advance i.t).core i.core.val) .none = false

/-- An instruction is issued normally: it is fetched, an instruction of its kind may stand at the PC, and what it reads agrees with
its residues and parity. -/
abbrev Issues (c : Instr) (i : Issue) (k : Kind) (s : State) : Prop :=
  Fetches c i s ∧ placed ((s.advance i.t).core i.core.val) k = true ∧
    readsGood ((s.advance i.t).core i.core.val).regs (readsOf ((s.advance i.t).core i.core.val) c) = true

/-- An instruction completes and changes its core alone: the core before and the core after satisfy `P`. -/
def Retires (c : Instr) (i : Issue) (s : State) (P : Core → Core → Prop) : Prop :=
  ∃ y, exec c s = .next ((s.advance i.t).setCore i.core.val y) ∧ P ((s.advance i.t).core i.core.val) y

/-- An instruction that loads from `addrs` completes: it changes its core, and the banks that it reads are in use in this grain. -/
def RetiresLoading (addrs : List Nat) (c : Instr) (i : Issue) (s : State) (P : Core → Core → Prop) : Prop :=
  ∃ y, exec c s = .next
      ((useBanks (banksOf (s.advance i.t) ((s.advance i.t).core i.core.val) (addrs.map fun a => { addr := a, code := 0 }))
        (s.advance i.t)).setCore i.core.val y) ∧
    P ((s.advance i.t).core i.core.val) y

/-- An instruction fails its attempt with a cause, and an address where the cause shows one (R181, R182). -/
def Fails (cause addr : Nat) (recur : Bool) (c : Instr) (i : Issue) (s : State) : Prop :=
  exec c s = .next { failAttempt i.core.val cause addr false recur (s.advance i.t) with
    pending := s.pending, gts := (s.advance i.t).gts, fuses := (s.advance i.t).fuses }

/-- What a core keeps of its attempt through every instruction but YIELD. -/
def SameAttempt (c y : Core) : Prop :=
  y.inst = c.inst ∧ y.attempt = c.attempt ∧ y.data = c.data ∧ y.strait = c.strait ∧ y.disp = c.disp ∧ y.slotDl = c.slotDl ∧
    y.stageDl = c.stageDl ∧ y.entryW = c.entryW ∧ y.gap = c.gap ∧ y.ecc = c.ecc

/-- The frame of an instruction that is no control instruction: loops, return stack, signals and waits stay. -/
def SameControl (c y : Core) : Prop :=
  SameAttempt c y ∧ y.st = c.st ∧ y.ret = c.ret ∧ y.loops = c.loops ∧ y.sig = c.sig ∧ y.wait = c.wait

/-- An instruction that only computes: `f` of the registers before it gives the registers after the loads in flight have
landed; nothing is stored or loaded. -/
def Computes (f : Core → Regs → Regs) (c y : Core) : Prop :=
  y.regs = (f c (landAll c.land c.regs)).setPc y.regs.pc ∧ y.buf = c.buf ∧ y.land = [] ∧ SameControl c y

/-- The nearest value between two limits. -/
def nearest (lo hi x : Int) : Int := max lo (min hi x)

/-- SW after a result `y` whose exact value is `x` (R195). -/
def withFlags (x y : Int) (r : Regs) : Regs :=
  { r with n := decide (y < 0), z := decide (y = 0), v := decide (y ≠ x), sf := r.sf || decide (y ≠ x) }.sealSw

/-- The tag of a result: `s` is added when it saturated (R192). -/
def resTag (x y : Int) (t : BitVec 4) : BitVec 4 := if y ≠ x then t ||| 2 else t

/-- An exact result `x` written to a D register. -/
def resD (d : BitVec 3) (x : Int) (t : BitVec 4) (r : Regs) : Regs :=
  let y := nearest (-(2 ^ 23)) (2 ^ 23 - 1) x
  withFlags x y (r.setD d { v := BitVec.ofInt 24 y, tag := resTag x y t })

/-- An exact result `x` written to an accumulator whose greatest value is `hi`. -/
def resAccum (hi : Int) (a : BitVec 2) (x : Int) (t : BitVec 4) (r : Regs) : Regs :=
  let y := nearest (-(2 ^ 55)) hi x
  withFlags x y (r.setA a { v := BitVec.ofInt 56 y, tag := resTag x y t })

/-- An exact result `x` written to an accumulator. -/
def resA (a : BitVec 2) (x : Int) (t : BitVec 4) (r : Regs) : Regs := resAccum (2 ^ 55 - 1) a x t r

end Sys2Proof
end

