-- ==== Sys2Proof/Certificates/Slice0/Obligations.lean ====
section
/-! DEFINITION. What is claimed of the TD4096, one proposition per claim. Each docstring names the rules of the spec that it rests on
and, as "log n", the entries of the assumption log whose choices it repeats: those are the model's, not the spec's. -/

open Sys2Proof Sys2Proof.Machine Sys2Proof.Machine.State

/-! ### The bus -/

/-- R5, R6, R82, R84: a write of an ordinary register stores its writable bits and changes no other register and nothing else; a write
of NP_EEE that clears `eee_en` also ends low-power idle on the port. (The model's choices: log 30, log 35.) -/
def Obligations.RegisterWriteStoresWritableBits : Prop :=
  ∀ (t : Gts) (m : Master) (off : Off) (w : Word) (s : State), allows m off.toNat true (s.advance t) = true →
    (ordinary off.toNat = true → Does (.registerWrite t m off true [w]) s fun b =>
      Stored m off.toNat w (s.advance t) b ∧ b = { begun m (s.advance t) with regs := b.regs }) ∧
    (∀ p : Fin 4, off.toNat = baseNP p.val + 0x48 → Does (.registerWrite t m off true [w]) s fun b =>
      Stored m off.toNat w (s.advance t) b ∧ b = { begun m (s.advance t) with regs := b.regs, ports := b.ports } ∧
      OnlyPort p.val (s.advance t) b ∧ (w.getLsbD 0 = true → b.port p.val = (s.advance t).port p.val) ∧
      (w.getLsbD 0 = false → b.port p.val = if ((s.advance t).port p.val).lpiTx then { (s.advance t).port p.val with
        lpiTx := false, idleFrom := (s.advance t).now,
        txReady := (s.advance t).now + (s.advance t).rfld (baseNP p.val + 0x48) 31 16 * 4000 } else (s.advance t).port p.val))

/-- R425: a write that the order of R425 turns away stores nothing: no register changes but through the events of the refusal, and no
block's state but those that the refusal names. (The model's choices: log 7, log 8, log 35.) -/
def Obligations.RefusedWriteReachesNoBlock : Prop :=
  ∀ (t : Gts) (m : Master) (off : Off) (w : Word) (s : State), ordinary off.toNat = true →
    allows m off.toNat true (s.advance t) = false →
    Does (.registerWrite t m off true [w]) s fun b =>
      let a := s.advance t
      b = { a with regs := b.regs, ctrs := b.ctrs, msix := b.msix, log := b.log, sup := b.sup, trust := b.trust,
                   host := b.host, spiStatus := b.spiStatus } ∧ b.reg off.toNat = a.reg off.toNat ∧ b.sup.mode = a.sup.mode

/-- R6, R429: a write of an event register clears the bits written as ones, one of its enable stores; each vector of the block is
signalled once more exactly when its AND stays nonzero. -/
def Obligations.EventWriteClearsAndSignals : Prop :=
  ∀ (t : Gts) (m : Master) (off : Off) (v : Word) (e : Nat) (s : State), evOf off.toNat = some e →
    allows m off.toNat true (s.advance t) = true →
    Does (.eventWrite t m off v) s fun b =>
      let a := s.advance t
      b = { begun m a with regs := b.regs, msix := b.msix, ports := b.ports } ∧
      (∀ o, o ≠ off.toNat → b.reg o = a.reg o) ∧
      (off.toNat = e → b.reg e = a.reg e &&& (0xFFFFFFFF ^^^ (v.toNat &&& (regDef e).w1c))) ∧
      (off.toNat = e + 4 → b.reg (e + 4) = v.toNat &&& (regDef (e + 4)).rw ||| (a.reg (e + 4) &&& (0xFFFFFFFF ^^^ (regDef (e + 4)).rw))) ∧
      (∀ q ∈ evVectors e, tget 0 b.msix q.1 = tget 0 a.msix q.1 + if b.evAnd e q.2 = 0 then 0 else 1) ∧
      (∀ p, b.port p = if off.toNat = e ∧ blkOf e = .np p ∧ bit v.toNat 4 then { a.port p with wake := false } else a.port p)

/-- R7: the low word of a counter is returned, the high word latched for the reading master alone, and the counter cleared; a later
read of CNT_HI by that master returns the latch, and what is counted after the read stands in the new period. -/
def Obligations.CounterReadLatchesAndClears : Prop :=
  ∀ (t t' : Gts) (m : Master) (off hi : Off) (n : Nat) (s : State), isCounter off.toNat = true → off.toNat % 4 = 0 →
    hi.toNat = (blkOf off.toNat).base + 0x1FC → ctrBuilt (s.advance t) off.toNat = true →
    allows m off.toNat false (s.advance t) = true →
    Does (.counterLowRead t m off) s fun b =>
      let a := s.advance t
      readBack b m = [BitVec.ofNat 32 (a.ctr off.toNat)] ∧ b.ctr off.toNat = 0 ∧
      (b.bumpBy off.toNat n).ctr off.toNat = n % 2 ^ 64 ∧
      (∀ o, o ≠ off.toNat → b.ctr o = a.ctr o) ∧
      (∀ m' o, hiKey o m' ≠ hiKey off.toNat m → tget 0 b.cntHi (hiKey o m') = tget 0 a.cntHi (hiKey o m')) ∧
      b = { begun m a with ctrs := b.ctrs, cntHi := b.cntHi, rdata := b.rdata } ∧
      (allows m hi.toNat false (b.advance t') = true → Does (.counterLowRead t' m hi) b fun d =>
        readBack d m = [BitVec.ofNat 32 (a.ctr off.toNat / 2 ^ 32)] ∧ d.ctrs = b.ctrs ∧ d.cntHi = b.cntHi)

/-- R348: a read of TB_GTS_LO returns GTS [31:0] and latches GTS [63:32] and the Ell count of that grain. -/
def Obligations.GtsReadLatchesOneGrain : Prop :=
  ∀ (t : Gts) (m : Master) (s : State), allows m 0x30020 false (s.advance t) = true →
    Does (.gtsRead t m) s fun b =>
      let a := s.advance t
      readBack b m = [a.gts.setWidth 32] ∧ b.tb.gtsHi = a.gts.extractLsb' 32 32 ∧
      b.tb.ellLo = BitVec.ofNat 32 a.ell ∧ b.tb.ellHi = BitVec.ofNat 32 (a.ell / 2 ^ 32 % 2 ^ 16) ∧
      b = { begun m a with rdata := b.rdata, tb := { a.tb with gtsHi := b.tb.gtsHi, ellLo := b.tb.ellLo, ellHi := b.tb.ellHi } }

/-- R425, R443: the management SPI. A transaction returns the status of the one before, then its words; a write acts word by word and
drops a partial word; an address that is no multiple of 4 is refused once. (The model's choices: log 8, log 9, log 35.) -/
def Obligations.SpiTransactionsReadAndWrite : Prop :=
  ∀ (t : Gts) (off : Off) (s : State),
    (s.sup.mode = .off → ∀ n bytes, Idles (.spiRead t off n) t s ∧ Idles (.spiWrite t off bytes) t s) ∧ (s.sup.mode ≠ .off →
    let a := s.advance t
    let begin := { a with spiStatus := 0, freeN := a.freeN + 1 }
    let status (b : State) : Prop := ∃ st, (readBack b .spi).head? = some st ∧ st.extractLsb' 4 28 = 0xA ∧
      st.getLsbD 3 = bit a.spiStatus 3 ∧ st.getLsbD 2 = bit a.spiStatus 2 ∧ st.getLsbD 0 = bit a.spiStatus 0
    (∀ n, Does (.spiRead t off n) s fun b => status b ∧ (readBack b .spi).length = n + 1) ∧
    (off.toNat % 4 = 0 → allows .spi off.toNat false begin = true → isCounter off.toNat = false → off.toNat ≠ 0x30020 →
      Does (.spiRead t off 1) s fun b =>
        (readBack b .spi).tail = [BitVec.ofNat 32 (readWord .spi off.toNat begin).1] ∧ b = { begin with rdata := b.rdata }) ∧
    (∀ bytes : List Byte, off.toNat % 4 = 0 → ordinary off.toNat = true → allows .spi off.toNat true begin = true →
      4 ≤ bytes.length → bytes.length < 8 → Does (.spiWrite t off bytes) s fun b =>
        status b ∧ Stored .spi off.toNat (BitVec.ofNat 32 (leNat (bytes.take 4))) a b ∧
          b = { begin with rdata := b.rdata, regs := b.regs }) ∧
    (∀ bytes : List Byte, bytes.length < 4 → off.toNat % 4 = 0 → Does (.spiWrite t off bytes) s fun b =>
      status b ∧ b = { begin with rdata := b.rdata }) ∧
    (off.toNat % 4 ≠ 0 →
      (∀ n, Does (.spiRead t off n) s fun b => (readBack b .spi).tail = List.replicate n 0 ∧ b.spiStatus = 8 ∧
        b = { (begin.bump (baseHP + 0x22C)) with rdata := b.rdata, spiStatus := 8 }) ∧
      (∀ bytes, Does (.spiWrite t off bytes) s fun b => b.spiStatus = 8 ∧
        b = { (begin.bump (baseHP + 0x22C)) with rdata := b.rdata, spiStatus := 8 })))

/-! ### Geldin: arithmetic of the MAC and ALU groups -/

/-- R198, R199, R201, R223: the six instructions of the MAC group. `k` keeps the old accumulator, `g` is the sign of the product,
`rnd` the rounding form; a multiply operand is the register, or the value that a TAP just loaded (R243). (The model's choices: log
25, log 32.) -/
def Obligations.MacGroupWritesTheExactSum : Prop :=
  ∀ (i : Issue) (o : MacOps) (s : State),
    ∀ e ∈ [(Instr.mpy i o, (0 : Int), (1 : Int), false), (Instr.mpyr i o, 0, 1, true), (Instr.mac i o, 1, 1, false),
        (Instr.msu i o, 1, -1, false), (Instr.macr i o, 1, 1, true), (Instr.msur i o, 1, -1, true)], Issues e.1 i .plain s →
      let pr (c : Core) (x y : BitVec 3) : Int := e.2.2.1 * product o.sm (mulOp c x).v (mulOp c y).v
      let tag (c : Core) (a : BitVec 2) (t : BitVec 4) : BitVec 4 := if e.2.1 = 0 then t else (c.regs.ar a).tag ||| t
      let tg (c : Core) (x y : BitVec 3) : BitVec 4 := (mulOp c x).tag ||| (mulOp c y).tag
      let val (c : Core) (a : BitVec 2) (p : Int) : Int :=
        let x := e.2.1 * (c.regs.ar a).v.toInt + p
        if e.2.2.2 then roundQ c.regs.rnd x * 2 ^ 24 else x
      let put := resAccum (if e.2.2.2 then 2 ^ 55 - 2 ^ 24 else 2 ^ 55 - 1)
      (o.dual = false → o.x1 = 0 → o.y1 = 0 → o.ab = 0 → Retires e.1 i s (Computes fun c =>
        put o.aa (val c o.aa (pr c o.x0 o.y0)) (tag c o.aa (tg c o.x0 o.y0)))) ∧
      (o.dual = true → o.aa = o.ab → Retires e.1 i s (Computes fun c =>
        put o.aa (val c o.aa (pr c o.x0 o.y0 + pr c o.x1 o.y1)) (tag c o.aa (tg c o.x0 o.y0 ||| tg c o.x1 o.y1)))) ∧
      (o.dual = true → o.aa ≠ o.ab → Retires e.1 i s fun c y =>
        let r := put o.ab (val c o.ab (pr c o.x1 o.y1)) (tag c o.ab (tg c o.x1 o.y1)) (landAll c.land c.regs)
        let w := put o.aa (val c o.aa (pr c o.x0 o.y0)) (tag c o.aa (tg c o.x0 o.y0)) r
        y.regs = ({ w with v := r.v || w.v }.sealSw).setPc y.regs.pc ∧ y.buf = c.buf ∧ y.land = [] ∧ SameControl c y)

/-- R225 to R227: TAP, TAP2 and CMAC accumulate from the registers before them and load two operands, or two pairs. (The model's
choices: log 25, log 32.) -/
def Obligations.TapGroupAccumulatesAndLoads : Prop :=
  ∀ (i : Issue) (s : State) (sub : Bool) (aa ab : BitVec 2) (dc dx dy : BitVec 3) (u w : BitVec 2) (conj : Bool)
    (l : TapLoads),
    let A := s.advance i.t
    let c := A.core i.core.val
    let g : Int := if sub then -1 else 1
    let x := pointerAccess c.regs l.p0 l.m0.toNat
    let y := pointerAccess c.regs l.p1 l.m1.toNat
    let val (a : BitVec 2) (p : Int) : Int := (c.regs.ar a).v.toInt + g * p
    let tg (a : BitVec 2) (t : BitVec 4) : BitVec 4 := (c.regs.ar a).tag ||| t
    let m (p q : DReg) : Int := product .signed p.v q.v
    let arrives (a : Nat) (code : Nat) (nf : Bool) : Landing :=
      { code, v := (ofContainer (loadWord A c a) nf).v, tag := (ofContainer (loadWord A c a) nf).tag, tap := true }
    (mayAccess A c x.addr false = true → mayAccess A c y.addr false = true →
      (Issues (.tap i sub aa dc dx l) i .plain s → RetiresLoading [x.addr, y.addr] (.tap i sub aa dc dx l) i s fun c z =>
        let r := resA aa (val aa (m (mulOp c dc) (mulOp c dx))) (tg aa ((mulOp c dc).tag ||| (mulOp c dx).tag))
          (landAll c.land c.regs)
        z.regs = (((x.mod.toList ++ y.mod.toList).foldl (fun r m => r.setP m.1 m.2) r).orCr (x.cr || y.cr)).setPc z.regs.pc ∧
        z.land = [arrives x.addr dc.toNat l.nf0, arrives y.addr dx.toNat l.nf1] ∧ z.buf = c.buf ∧ SameControl c z) ∧
      (Issues (.tap2 i sub aa ab dc dx dy l) i .plain s →
        RetiresLoading [x.addr, y.addr] (.tap2 i sub aa ab dc dx dy l) i s fun c z =>
        let p0 := m (mulOp c dc) (mulOp c dx)
        let p1 := m (mulOp c dc) (mulOp c dy)
        let t0 := (mulOp c dc).tag ||| (mulOp c dx).tag
        let t1 := (mulOp c dc).tag ||| (mulOp c dy).tag
        let r0 := landAll c.land c.regs
        let one := resA aa (val aa (p0 + p1)) (tg aa (t0 ||| t1)) r0
        let b := resA ab (val ab p1) (tg ab t1) r0
        let two := resA aa (val aa p0) (tg aa t0) b
        let r := (if aa = ab then one else { two with v := b.v || two.v }.sealSw).setD dy (mulOp c dx)
        z.regs = (((x.mod.toList ++ y.mod.toList).foldl (fun r m => r.setP m.1 m.2) r).orCr (x.cr || y.cr)).setPc z.regs.pc ∧
        z.land = [arrives x.addr dc.toNat l.nf0, arrives y.addr dx.toNat l.nf1] ∧ z.buf = c.buf ∧ SameControl c z)) ∧
    (let re (p : BitVec 2) : BitVec 3 := BitVec.ofNat 3 (2 * p.toNat)
     let im (p : BitVec 2) : BitVec 3 := BitVec.ofNat 3 (2 * p.toNat + 1)
     let (x, xi) := pairAccess c.regs l.p0 l.m0
     let (y, yi) := pairAccess c.regs l.p1 l.m1
     mayAccess A c x.addr false = true → mayAccess A c xi false = true → mayAccess A c y.addr false = true →
     mayAccess A c yi false = true → Issues (.cmac i sub aa ab u conj w l) i .plain s →
      RetiresLoading [x.addr, y.addr, xi, yi] (.cmac i sub aa ab u conj w l) i s (fun c z =>
        let q (a b : BitVec 3) : Int := m (mulOp c a) (mulOp c b)
        let sg : Int := if conj then 1 else -1
        let p0 := q (re u) (re w) + sg * q (im u) (im w)
        let p1 := if conj then q (im u) (re w) - q (re u) (im w) else q (re u) (im w) + q (im u) (re w)
        let t := (mulOp c (re u)).tag ||| (mulOp c (im u)).tag ||| (mulOp c (re w)).tag ||| (mulOp c (im w)).tag
        let r0 := landAll c.land c.regs
        let one := resA aa (val aa (p0 + p1)) (tg aa t) r0
        let b := resA ab (val ab p1) (tg ab t) r0
        let two := resA aa (val aa p0) (tg aa t) b
        let r := if aa = ab then one else { two with v := b.v || two.v }.sealSw
        z.regs = (((x.mod.toList ++ y.mod.toList).foldl (fun r m => r.setP m.1 m.2) r).orCr (x.cr || y.cr)).setPc z.regs.pc ∧
        z.land = [arrives x.addr (re u).toNat l.nf0, arrives y.addr (re w).toNat l.nf1, arrives xi (im u).toNat l.nf0,
          arrives yi (im w).toNat l.nf1] ∧ z.buf = c.buf ∧ SameControl c z))

/-- R203, R204, R228, R229: ADD and SUB in three forms, NEG, ABS and CMP in two. (The model's choices: log 25, log 32.) -/
def Obligations.SumsNegationsAndCompares : Prop :=
  ∀ (i : Issue) (o : AluOps) (s : State),
    let ok (op : Nat) (k : Instr) : Prop :=
      aluOk op o.form.toNat o.dst.toNat o.s1.toNat o.s2.toNat o.ci o.cnt.toNat = true ∧ Issues k i .plain s
    let d (c : Core) (x : BitVec 3) : Int := (c.regs.dr x).v.toInt
    let a (c : Core) (x : BitVec 3) : Int := (c.regs.ar (acc x)).v.toInt
    let td (c : Core) (x : BitVec 3) : BitVec 4 := (c.regs.dr x).tag
    let ta (c : Core) (x : BitVec 3) : BitVec 4 := (c.regs.ar (acc x)).tag
    (∀ e ∈ [(0, Instr.add i o, (1 : Int)), (1, Instr.sub i o, -1)], ok e.1 e.2.1 →
      (o.form = 0 → Retires e.2.1 i s (Computes fun c =>
        resD o.dst (d c o.s1 + e.2.2 * d c o.s2) (td c o.s1 ||| td c o.s2))) ∧
      (o.form = 1 → Retires e.2.1 i s (Computes fun c =>
        resA (acc o.dst) (a c o.s1 + e.2.2 * a c o.s2) (ta c o.s1 ||| ta c o.s2))) ∧
      (o.form = 2 → Retires e.2.1 i s (Computes fun c =>
        resA (acc o.dst) (a c o.s1 + e.2.2 * (d c o.s2 * 2 ^ 24)) (ta c o.s1 ||| td c o.s2)))) ∧
    (∀ e ∈ [(2, Instr.neg i o, fun x : Int => -x), (3, Instr.abs i o, fun x : Int => max x (-x))], ok e.1 e.2.1 →
      (o.form = 0 → Retires e.2.1 i s (Computes fun c => resD o.dst (e.2.2 (d c o.s1)) (td c o.s1))) ∧
      (o.form = 1 → Retires e.2.1 i s (Computes fun c => resA (acc o.dst) (e.2.2 (a c o.s1)) (ta c o.s1)))) ∧
    (ok 4 (.cmp i o) → Retires (.cmp i o) i s (Computes fun c r =>
      let x := if o.form = 0 then d c o.s1 - d c o.s2 else a c o.s1 - a c o.s2
      { r with n := decide (x < 0), z := decide (x = 0), v := false }.sealSw))

/-- R205, R228, R229: AND, OR and XOR on D registers; SHL and SHR of a D register or an accumulator, by a signed count. (The model's
choices: log 25, log 32.) -/
def Obligations.LogicAndShifts : Prop :=
  ∀ (i : Issue) (o : AluOps) (s : State),
    let ok (op : Nat) (k : Instr) : Prop :=
      aluOk op o.form.toNat o.dst.toNat o.s1.toNat o.s2.toNat o.ci o.cnt.toNat = true ∧ Issues k i .plain s
    (∀ e ∈ [(5, Instr.and i o, fun x y : BitVec 24 => x &&& y), (6, Instr.or i o, fun x y => x ||| y),
        (7, Instr.xor i o, fun x y => x ^^^ y)], ok e.1 e.2.1 →
      Retires e.2.1 i s (Computes fun c r =>
        let x := e.2.2 (c.regs.dr o.s1).v (c.regs.dr o.s2).v
        { r.setD o.dst { v := x, tag := (c.regs.dr o.s1).tag ||| (c.regs.dr o.s2).tag } with
          n := x.msb, z := x == 0, v := false }.sealSw)) ∧
    (∀ e ∈ [(8, Instr.shl i o, (1 : Int)), (9, Instr.shr i o, -1)], ok e.1 e.2.1 →
      let n (c : Core) : Int := e.2.2 * (if o.ci then (o.cnt.toNat : Int) else ((c.regs.dr o.s2).v.setWidth 7).toInt)
      let moved (n x : Int) : Int := if 0 ≤ n then x * 2 ^ n.toNat else x / 2 ^ (-n).toNat
      let t (c : Core) : BitVec 4 := if o.ci then 0 else (c.regs.dr o.s2).tag
      (o.form = 0 → Retires e.2.1 i s (Computes fun c =>
        resD o.dst (moved (n c) (c.regs.dr o.s1).v.toInt) ((c.regs.dr o.s1).tag ||| t c))) ∧
      (o.form = 1 → Retires e.2.1 i s (Computes fun c =>
        resA (acc o.dst) (moved (n c) (c.regs.ar (acc o.s1)).v.toInt) ((c.regs.ar (acc o.s1)).tag ||| t c))))

/-- R200, R201, R206, R207: MVA rounds and saturates, NORM counts sign bits, DIVS makes one quotient bit, CLR clears. (The model's
choices: log 25, log 32.) -/
def Obligations.RoundNormDivideClear : Prop :=
  ∀ (i : Issue) (o : AluOps) (s : State),
    let ok (op : Nat) (k : Instr) : Prop :=
      aluOk op o.form.toNat o.dst.toNat o.s1.toNat o.s2.toNat o.ci o.cnt.toNat = true ∧ Issues k i .plain s
    let a (c : Core) (x : BitVec 3) : AReg := c.regs.ar (acc x)
    (ok 10 (.mva i o) → Retires (.mva i o) i s (Computes fun c =>
      resD o.dst (roundQ c.regs.rnd (a c o.s1).v.toInt) (a c o.s1).tag)) ∧
    (ok 11 (.norm i o) → Retires (.norm i o) i s (Computes fun c => resD o.dst (signRun (a c o.s1).v 55 - 8 : Int) (a c o.s1).tag)) ∧
    (ok 12 (.divs i o) → Retires (.divs i o) i s (Computes fun c r =>
      let d := (c.regs.dr o.s2).v
      let x := (a c o.dst).v <<< 1
      let top := x.extractLsb' 24 32
      let q : BitVec 56 := if d.toInt ≤ top.toInt then (top - d.signExtend 32) ++ ((x.extractLsb' 0 24) + 1) else x
      { r.setA (acc o.dst) { v := q, tag := (a c o.dst).tag ||| (c.regs.dr o.s2).tag } with
        n := q.msb, z := q == 0, v := false }.sealSw)) ∧
    (ok 13 (.clr i o) → Retires (.clr i o) i s (Computes fun _ r =>
      { (if o.form = 0 then r.setD o.dst { v := 0, tag := 0 } else r.setA (acc o.dst) { v := 0, tag := 0 }) with
        n := false, z := true, v := false }.sealSw))

/-! ### Geldin: memory, moves, control, events -/

/-- R192, R193, R230 to R232, R244: a load lands after the next instruction, with the value and tag of the container read. (The
model's choices: log 25, log 32.) -/
def Obligations.LoadsLandAfterTheNextInstruction : Prop :=
  ∀ (i : Issue) (s : State),
    let A := s.advance i.t
    let c := A.core i.core.val
    let arrives (a : Nat) (code : BitVec 6) (nf : Bool) : Landing :=
      { code := code.toNat, v := (ofContainer (loadWord A c a) nf).v, tag := (ofContainer (loadWord A c a) nf).tag, tap := false }
    let after (l : List (BitVec 3 × BitVec 22)) (cr : Bool) (y : Core) : Prop :=
      y.regs = ((l.foldl (fun r m => r.setP m.1 m.2) (landAll c.land c.regs)).orCr cr).setPc y.regs.pc
    (∀ (o : MemOps) (a : Access), codeOk o.reg = true → memAccess c.regs o.mode o.ea = some a →
      mayAccess A c a.addr false = true → Issues (.ld i o) i .plain s → RetiresLoading [a.addr] (.ld i o) i s fun c y =>
        y.land = [arrives a.addr o.reg o.nf] ∧ after a.mod.toList a.cr y ∧ y.buf = c.buf ∧ SameControl c y) ∧
    (∀ (o : PairOps), codeOk o.reg0 = true → codeOk o.reg1 = true →
      let x := pointerAccess c.regs o.ptr0 o.mode0.toNat
      let z := pointerAccess c.regs o.ptr1 o.mode1.toNat
      mayAccess A c x.addr false = true → mayAccess A c z.addr false = true → Issues (.ldLd i o) i .plain s →
      RetiresLoading [x.addr, z.addr] (.ldLd i o) i s fun c y =>
        y.land = [arrives x.addr o.reg0 o.nf0, arrives z.addr o.reg1 o.nf1] ∧
          after (x.mod.toList ++ z.mod.toList) (x.cr || z.cr) y ∧ y.buf = c.buf ∧ SameControl c y)

/-- R177, R201, R230 to R232: ST, ST with MVA, and LD with ST complete: the store reaches the commit buffer alone, within the task's
footprint, and no memory changes; pointers and SW take what the access and the rounding give. (The model's choices: log 25, log
32.) -/
def Obligations.StoresReachTheCommitBuffer : Prop :=
  ∀ (i : Issue) (s : State),
    let A := s.advance i.t
    let c := A.core i.core.val
    let n := i.core.val
    let fits (a : Nat) : Prop := mayAccess A c a true = true ∧
      ((tget none c.buf a).isSome = true ∨ 4 * (c.buf.length + 1) ≤ tkFoot (instBody A c.inst))
    let kept (a : Nat) (w : Word) (y : Core) : Prop :=
      tget none y.buf a = some w ∧ ∀ b, b ≠ a → tget none y.buf b = tget none c.buf b
    let after (l : List (BitVec 3 × BitVec 22)) (cr : Bool) (r : Regs) (y : Core) : Prop :=
      y.regs = ((l.foldl (fun r m => r.setP m.1 m.2) r).orCr cr).setPc y.regs.pc
    (∀ (o : MemOps) (a : Access), memAccess c.regs o.mode o.ea = some a → fits a.addr →
      (codeOk o.reg = true → Issues (.st i o) i .plain s → ∃ y, exec (.st i o) s = .next (A.setCore n y) ∧
        kept a.addr (toContainer (readCode c o.reg.toNat) o.nf) y ∧ after a.mod.toList a.cr (landAll c.land c.regs) y ∧
        y.land = [] ∧ SameControl c y) ∧
      (o.reg.toNat / 4 = 2 → Issues (.stMva i o) i .plain s → ∃ y, exec (.stMva i o) s = .next (A.setCore n y) ∧
        let r := c.regs.ar (BitVec.ofNat 2 o.reg.toNat)
        let q := roundQ c.regs.rnd r.v.toInt
        let x := nearest (-(2 ^ 23)) (2 ^ 23 - 1) q
        kept a.addr (toContainer { v := BitVec.ofInt 24 x, tag := resTag q x r.tag } o.nf) y ∧
          after a.mod.toList a.cr (withFlags q x (landAll c.land c.regs)) y ∧ y.land = [] ∧ SameControl c y)) ∧
    (∀ (o : PairOps), codeOk o.reg0 = true → codeOk o.reg1 = true →
      let x := pointerAccess c.regs o.ptr0 o.mode0.toNat
      let z := pointerAccess c.regs o.ptr1 o.mode1.toNat
      mayAccess A c x.addr false = true → fits z.addr → Issues (.ldSt i o) i .plain s →
      ∃ y, exec (.ldSt i o) s = .next ((useBanks (banksOf A c [{ addr := x.addr, code := 0 }]) A).setCore n y) ∧
        kept z.addr (toContainer (readCode c o.reg1.toNat) o.nf1) y ∧
          after (x.mod.toList ++ z.mod.toList) (x.cr || z.cr) (landAll c.land c.regs) y ∧
          y.land = [{ code := o.reg0.toNat, v := (ofContainer (loadWord A c x.addr) o.nf0).v,
                      tag := (ofContainer (loadWord A c x.addr) o.nf0).tag, tap := false }] ∧ SameControl c y)

/-- R197, R221, R233, R234: MOV, MOVI and the two tag moves. (The model's choices: log 25, log 32.) -/
def Obligations.MovesCopyValueAndTag : Prop :=
  ∀ (i : Issue) (s : State),
    (∀ dst src : BitVec 6, codeOk dst = true → codeOk src = true → Issues (.mov i dst src) i .plain s →
      ((dst.toNat / 4 = 2 ∧ src.toNat / 4 = 2) → Retires (.mov i dst src) i s (Computes fun c r =>
        r.setA (BitVec.ofNat 2 dst.toNat) (c.regs.ar (BitVec.ofNat 2 src.toNat)))) ∧
      (¬ (dst.toNat / 4 = 2 ∧ src.toNat / 4 = 2) → Retires (.mov i dst src) i s (Computes fun c r =>
        writeCode dst.toNat (readCode c src.toNat) r))) ∧
    (∀ dst src : BitVec 6, dst.toNat < 8 → src.toNat < 12 → Issues (.movTagToD i dst src) i .plain s →
      Retires (.movTagToD i dst src) i s (Computes fun c r =>
      r.setD (BitVec.ofNat 3 dst.toNat) { v := (readCode c src.toNat).tag.setWidth 24, tag := 0 })) ∧
    (∀ dst src : BitVec 6, dst.toNat < 12 → src.toNat < 8 → Issues (.movTagFromD i dst src) i .plain s →
      Retires (.movTagFromD i dst src) i s (Computes fun c r =>
      let t := (c.regs.dr (BitVec.ofNat 3 src.toNat)).v.setWidth 4
      let d := BitVec.ofNat 3 dst.toNat
      let a := BitVec.ofNat 2 dst.toNat
      if dst.toNat < 8 then r.setD d { r.dr d with tag := t } else r.setA a { r.ar a with tag := t })) ∧
    (∀ (dst : BitVec 3) (val : BitVec 24), Issues (.moviD i dst val) i .plain s →
      Retires (.moviD i dst val) i s (Computes fun _ r =>
      r.setD dst { v := val, tag := 0 })) ∧
    (∀ (cls : BitVec 2) (idx : BitVec 3) (val : BitVec 22), Issues (.moviAddress i cls idx val) i .plain s →
      Retires (.moviAddress i cls idx val) i s (Computes fun _ r =>
      if cls = 0 then r.setP idx val else if cls = 1 then r.setB idx val else if cls = 2 then r.setL idx val
      else r.setM idx val))

/-- R235 to R237: NOP goes on; BR, BRC, CALL and RET open two delay slots, after which the target is fetched. Each completes wherever
its word may stand, and CALL and RET fail the attempt where the return stack is full or empty. (The model's choices: log 25, log
32.) -/
def Obligations.BranchesOpenTwoDelaySlots : Prop :=
  ∀ (i : Issue) (s : State),
    let A := s.advance i.t
    let n := i.core.val
    let c := A.core n
    let jumps (ret : List (BitVec 17)) (goTo : Option (BitVec 17)) (y : Core) : Prop :=
      y.ds = 2 ∧ y.target = goTo ∧ y.ret = ret ∧ y.regs = (landAll c.land c.regs).setPc (c.regs.pc + 1) ∧ y.land = [] ∧
        y.buf = c.buf ∧ y.loops = c.loops ∧ y.st = c.st ∧ y.sig = c.sig ∧ SameAttempt c y
    (Issues (.nop i) i .control s → ∃ y, exec (.nop i) s = .next (A.setCore n y) ∧
      y.regs = (landAll c.land c.regs).setPc (c.regs.pc + 1) ∧ y.ds = 0 ∧ y.rep = 0 ∧ y.land = [] ∧ y.buf = c.buf ∧
        SameControl c y) ∧
    (∀ target, Issues (.br i target) i .transfer s →
      ∃ y, exec (.br i target) s = .next (A.setCore n y) ∧ jumps c.ret (some target) y) ∧
    (∀ cond target, Issues (.brc i cond target) i .transfer s →
      ∃ y, exec (.brc i cond target) s = .next (A.setCore n y) ∧
        jumps c.ret (if condOf c.regs cond.toNat then some target else none) y) ∧
    (∀ target, Issues (.call i target) i .transfer s →
      (c.ret.length < 8 →
        ∃ y, exec (.call i target) s = .next (A.setCore n y) ∧ jumps ((c.regs.pc + 3) :: c.ret) (some target) y) ∧
      (8 ≤ c.ret.length → Fails 4 c.regs.pc.toNat false (.call i target) i s)) ∧
    (Issues (.ret i) i .transfer s →
      (∀ a rest, c.ret = a :: rest → ∃ y, exec (.ret i) s = .next (A.setCore n y) ∧ jumps rest (some a) y) ∧
      (c.ret = [] → Fails 4 c.regs.pc.toNat false (.ret i) i s))

/-- R238, R239, R242: the repeat and loop instructions, with a nonzero count and with a count of zero, and END. A word that a repeat
of zero skips must be legal where it stands (DEDUCED, log 32). (The model's choices: log 25, log 32.) -/
def Obligations.RepeatsAndLoopsCountDown : Prop :=
  ∀ (i : Issue) (s : State),
    let A := s.advance i.t
    let n := i.core.val
    let c := A.core n
    let on (y : Core) : Prop := y.land = [] ∧ y.buf = c.buf ∧ y.ret = c.ret ∧ y.st = c.st ∧ SameAttempt c y
    let r := landAll c.land c.regs
    let repeats (k : Nat) (y : Core) : Prop := y.rep = k ∧ y.regs = r.setPc (c.regs.pc + 1) ∧ y.loops = c.loops ∧ on y
    let loops (e : BitVec 12) (k : Nat) (y : Core) : Prop :=
      y.regs = (r.setPc (c.regs.pc + 1)).setLc (BitVec.ofNat 16 k) ∧
        y.loops = { lc := c.regs.lc, start := c.regs.pc + 1, endAt := c.regs.pc + 2 + e.setWidth 17 } :: c.loops ∧ on y
    let skips (p : BitVec 17) (y : Core) : Prop := y.regs = r.setPc p ∧ y.rep = 0 ∧ y.loops = c.loops ∧ on y
    (∀ m1, Issues (.repi i m1) i .control s →
      ∃ y, exec (.repi i m1) s = .next (A.setCore n y) ∧ repeats (m1.toNat + 1) y) ∧
    (∀ d, Issues (.repd i d) i .control s →
      let k := (c.regs.dr d).v.toNat % 4096
      let w := (tget 0 s.ha.prog (tkHolm (instBody s c.inst) * 131072 + (c.regs.pc + 1).toNat)).toNat
      let bad := wordBad w = true ∨ w / 2 ^ 28 = 7 ∨ (c.loops.head?.any fun f => f.endAt == c.regs.pc + 1) = true
      (k ≠ 0 → ∃ y, exec (.repd i d) s = .next (A.setCore n y) ∧ repeats k y) ∧
      (k = 0 → ¬ bad → ∃ y, exec (.repd i d) s = .next (A.setCore n y) ∧ skips (c.regs.pc + 2) y) ∧
      (k = 0 → bad → Fails 4 c.regs.pc.toNat false (.repd i d) i s)) ∧
    (∀ e m1, Issues (.loopi i e m1) i .control s →
      (c.loops.length < 3 → ∃ y, exec (.loopi i e m1) s = .next (A.setCore n y) ∧ loops e (m1.toNat + 1) y) ∧
      (3 ≤ c.loops.length → Fails 4 c.regs.pc.toNat false (.loopi i e m1) i s)) ∧
    (∀ e d, Issues (.loopd i e d) i .control s → c.loops.length < 3 →
      let k := (c.regs.dr d).v.toNat % 65536
      (k ≠ 0 → ∃ y, exec (.loopd i e d) s = .next (A.setCore n y) ∧ loops e k y) ∧
      (k = 0 → ∃ y, exec (.loopd i e d) s = .next (A.setCore n y) ∧ skips (c.regs.pc + 3 + e.setWidth 17) y)) ∧
    (Issues (.endLoop i) i .loopEnd s → ∀ f rest, c.loops = f :: rest → ∃ y, exec (.endLoop i) s = .next (A.setCore n y) ∧
      (1 < c.regs.lc.toNat → y.regs = (c.regs.setLc (c.regs.lc - 1)).setPc f.start ∧ y.loops = c.loops) ∧
      (c.regs.lc.toNat ≤ 1 → y.regs = (c.regs.setLc f.lc).setPc (c.regs.pc + 1) ∧ y.loops = rest) ∧
      y.land = c.land ∧ y.buf = c.buf ∧ y.ret = c.ret ∧ y.st = c.st ∧ SameAttempt c y) ∧
    (∀ e d, Issues (.loopd i e d) i .control s → 3 ≤ c.loops.length → Fails 4 c.regs.pc.toNat false (.loopd i e d) i s)

/-- R240, R241: WAITE takes pending bits at once or waits for one; YIELD ends the attempt's run. (The model's choices: log 25, log
32.) -/
def Obligations.WaitsAndYields : Prop :=
  ∀ (i : Issue) (s : State),
    let A := s.advance i.t
    let n := i.core.val
    let c := A.core n
    let r := landAll c.land c.regs
    (∀ (d : BitVec 3) (m : BitVec 4), m ≠ 0 → Issues (.waite i d m) i .control s →
      ∃ y, exec (.waite i d m) s = .next (A.setCore n y) ∧
        let x := c.sig &&& m
        (x ≠ 0 → y.wait = none ∧ y.sig = c.sig &&& ~~~m ∧ y.regs = (r.setD d { v := x.setWidth 24, tag := 0 }).setPc (r.pc + 1)) ∧
        (x = 0 → y.wait = some (d, m) ∧ y.waitFrom = i.t.toNat ∧ y.sig = c.sig ∧ y.regs = r) ∧
        y.land = [] ∧ y.buf = c.buf ∧ y.loops = c.loops ∧ y.ret = c.ret ∧ y.st = c.st ∧ SameAttempt c y) ∧
    (∀ d, Issues (.waite i d 0) i .control s → Fails 4 c.regs.pc.toNat false (.waite i d 0) i s) ∧
    (Issues (.yield i) i .control s → ∃ y, exec (.yield i) s = .next (A.setCore n y) ∧
      y.st = 2 ∧ y.ret = [] ∧ y.loops = [] ∧ y.regs = r ∧ y.land = [] ∧ y.buf = c.buf ∧ SameAttempt c y)

/-- R246, R247: HALT, STEP, BREAK, TRACE and the signals on a running core that is not at rest. (The model's choices: log 7, log 32.) -/
def Obligations.DebugEventsReachARunningCore : Prop :=
  ∀ (t : Gts) (core : CoreId) (s : State),
    let A := s.advance t
    let c := A.core core.val
    let becomes (k : Instr) (P : Core → Prop) : Prop :=
      ∃ y, exec k s = .next (A.setCore core.val y) ∧ P y ∧ y.regs = c.regs ∧ y.buf = c.buf ∧ y.land = c.land ∧ SameControl c y
    let point : Prop := eventPoint c = true ∧ (c.loops.head?.any fun f => f.endAt == c.regs.pc) = false
    c.st = 1 → gated A (core.val / 5) = false →
      (invasive A = true → c.halted = false → c.traceDue = false →
        (point → becomes (.halt t core) (fun y => y.halted = true ∧ y.stop = false)) ∧
        (point → becomes (.breakAt t core none) (fun y => y.halted = true ∧ y.stop = false)) ∧
        (point → becomes (.breakAt t core (some c.regs.pc)) (fun y => y.halted = true ∧ y.stop = false)) ∧
        (¬ point → becomes (.halt t core) (fun y => y.halted = false ∧ y.stop = true))) ∧
      (invasive A = true → c.halted = true → becomes (.step t core) (fun y => y.halted = false ∧ y.stop = true)) ∧
      (A.trust.level ≠ 0 → point → c.stop = false → becomes (.trace t core)
        (fun y => y.trace = some (c.regs.pc.toNat, swWord c, c.hc) ∧ y.traceDue = false ∧ y.halted = c.halted)) ∧
      (∀ (b : Fin 4) (byDebug : Bool), (if byDebug then invasive A else A.sup.mode == .test) = true → c.wait = none →
        exec (.sig t core b byDebug) s = .next (A.setCore core.val { c with sig := c.sig ||| BitVec.ofNat 4 (2 ^ b.val) })) ∧
      (∀ (b : Fin 4) (byDebug : Bool) (d : BitVec 3) (m : BitVec 4), (if byDebug then invasive A else A.sup.mode == .test) = true →
        c.wait = some (d, m) →
        let x := (c.sig ||| BitVec.ofNat 4 (2 ^ b.val)) &&& m
        ∃ y, exec (.sig t core b byDebug) s = .next (A.setCore core.val y) ∧
          (x = 0 → y = { c with sig := c.sig ||| BitVec.ofNat 4 (2 ^ b.val) }) ∧
          (x ≠ 0 → y.wait = none ∧ y.sig = (c.sig ||| BitVec.ofNat 4 (2 ^ b.val)) &&& ~~~m ∧
            (y.regs.dr d).v = x.setWidth 24 ∧ y.buf = c.buf ∧ SameAttempt c y))

/-- R181, R209, R210, R220, R222: the word of every instruction spells it, and a command whose word does not stand at the PC has no
effect; a word that is illegal by its encoding fails the attempt with cause 4, and so does an instruction that stands where its
kind may not; a word that is not illegal is no such row; a residue or parity that does not agree fails it with cause 1. (The
model's choices: log 7, log 25, log 32.) -/
def Obligations.IllegalInstructionsFailTheAttempt : Prop :=
  (∀ (k : Instr) (w : Word), encodeGeldin k = some w → ∃ j, decodeGeldin j w = some k) ∧
  ∀ (i : Issue) (s : State),
    let A := s.advance i.t
    let c := A.core i.core.val
    let fails (k : Instr) : Prop := Fails 4 c.regs.pc.toNat false k i s
    (∀ w : Word, wordBad w.toNat = true → Fetches (.illegalInstruction i w) i s → fails (.illegalInstruction i w)) ∧
    (∀ w : Word, wordBad w.toNat = false → Idles (.illegalInstruction i w) i.t s) ∧
    (∀ o, spells A c i (.add i o) = false → Idles (.add i o) i.t s) ∧
    (placed c .plain = false → ∀ o, Fetches (.add i o) i s → fails (.add i o)) ∧
    (placed c .control = false → Fetches (.nop i) i s → fails (.nop i)) ∧
    (placed c .transfer = false → ∀ target, Fetches (.br i target) i s → fails (.br i target)) ∧
    (placed c .loopEnd = false → Fetches (.endLoop i) i s → fails (.endLoop i)) ∧
    (∀ o : AluOps, Issues (.add i o) i .plain s →
      aluOk 0 o.form.toNat o.dst.toNat o.s1.toNat o.s2.toNat o.ci o.cnt.toNat = false → fails (.add i o)) ∧
    (∀ o : AluOps, Fetches (.add i o) i s → placed c .plain = true → readsGood c.regs (aluReads 0 o) = false →
      Fails 1 0 true (.add i o) i s)

/-! ### The Time Base -/

/-- R337, R342, R343: what the messages of a PTP instance change: that instance, its counter, and, where it is the reference of a
LOCKED Time Base, the phase error that is slewed. (The model's choices: log 6, log 24.) -/
def Obligations.PtpMessagesUpdateTheirInstance : Prop :=
  ∀ (t rx : Gts) (i : Fin 2) (m : PtpMsg) (s : State),
    let a := s.advance t
    let x := a.inst i.val
    let only (b : State) : Prop :=
      (∀ j, j ≠ i.val → b.inst j = a.inst j) ∧ b = { a with tb := { a.tb with inst := b.tb.inst }, ctrs := b.ctrs }
    let measured (th t1 t2 : Int) (b : State) : Prop :=
      let big : Bool := decide (stepThr a ≤ th.natAbs)
      b.inst i.val = { x with t1 := t1, t2 := t2, syncSeq := none, theta := th, lastSync := a.now,
                              stepFrom := if big then (if x.stepFrom = 0 then a.now + 1 else x.stepFrom) else 0,
                              stepLog := if big ∧ x.stepFrom ≠ 0 then x.stepLog else 0 } ∧
        b.ctr (baseTB + 0x200 + 4 * i.val) = (a.ctr (baseTB + 0x200 + 4 * i.val) + 1) % 2 ^ 64
    (isFollower a i.val = true → m.twoStep = true → Does (.sync t i m rx) s fun b =>
      b.inst i.val = { x with syncSeq := some m.seq, t2 := a.mediaOf rx.toNat, t1 := m.corr } ∧ only b ∧ b.ctrs = a.ctrs) ∧
    (isFollower a i.val = true → m.twoStep = false → a.tb.ref ≠ some i.val → Does (.sync t i m rx) s fun b =>
      let t2 := a.mediaOf rx.toNat
      measured (m.origin + m.corr + x.delay - t2) (m.origin + m.corr) t2 b ∧ only b) ∧
    (isFollower a i.val = true → m.twoStep = false → a.tb.ref = some i.val → x.pstate = 9 → a.tb.st = 2 →
      let t2 := a.mediaOf rx.toNat
      let th := m.origin + m.corr + x.delay - t2
      th.natAbs < stepThr a → th.natAbs < 4000 → Does (.sync t i m rx) s fun b =>
        measured th (m.origin + m.corr) t2 b ∧ b.tb.theta = th ∧ b.tb.st = 2 ∧ b.tb.ref = some i.val ∧ b.tb.ofs = a.tb.ofs ∧
          b.log = a.log) ∧
    (isFollower a i.val = true → x.syncSeq = some m.seq → a.tb.ref ≠ some i.val → Does (.followUp t i m) s fun b =>
      measured (x.t1 + m.origin + m.corr + x.delay - x.t2) (x.t1 + m.origin + m.corr) x.t2 b ∧ only b) ∧
    (isFollower a i.val = true → Does (.delayResp t i m) s fun b =>
      b.inst i.val = { x with delay := ((x.t2 - x.t1) + (m.origin - m.corr - x.t3)) / 2 } ∧ only b ∧ b.ctrs = a.ctrs) ∧
    (∀ r, ptpRec a i.val = some r → ptpRole r = 2 → Does (.delayReq t i m rx) s fun b =>
      b.inst i.val = { x with sentResp := x.sentResp + 1 } ∧ only b ∧ b.ctrs = a.ctrs)

/-- R340, R342 to R344: a port state that best-master selection concludes, and an Announce receipt timeout; the first usable instance
becomes the reference, and losing the only one from LOCKED enters HOLDOVER. (The model's choices: log 6, log 7.) -/
def Obligations.AnnounceChoosesTheReference : Prop :=
  ∀ (t : Gts) (i : Fin 2) (r : BmcResult) (s : State),
    let a := s.advance t
    let x := a.inst i.val
    (ptpRec a i.val).isSome = true →
    (x.pstate ≠ 9 → r.pstate ≠ 9 → Does (.announce t i r) s fun b =>
      b.inst i.val = { x with steps := r.steps.toNat, gmId := r.gmId, pstate := r.pstate.toNat, slaveFrom := 0 } ∧
        b = { a with tb := { a.tb with inst := b.tb.inst } } ∧ ∀ j, j ≠ i.val → b.inst j = a.inst j) ∧
    (x.pstate ≠ 9 → r.pstate = 9 → x.stepFrom = 0 → a.tb.ref = none → a.tb.st = 0 → ptpPref a = i.val →
      Does (.announce t i r) s fun b =>
        b.tb.ref = some i.val ∧ b.tb.st = 1 ∧ (b.inst i.val).pstate = 9 ∧ (b.inst i.val).slaveFrom = a.now + 1 ∧
          b = { a with tb := b.tb }) ∧
    (x.pstate ≠ 9 → Does (.announceReceiptTimeout t i) s fun b =>
      b.inst i.val = { x with pstate := 4, slaveFrom := 0 } ∧ b = { a with tb := { a.tb with inst := b.tb.inst } }) ∧
    (x.pstate = 9 → a.tb.ref = some i.val → a.tb.st = 2 → usableInst a (1 - i.val) = false →
      Does (.announceReceiptTimeout t i) s fun b =>
        b.tb.st = 3 ∧ b.tb.holdFrom = a.now ∧ (b.inst i.val).pstate = 4 ∧ Logs a b 12 0xC04 [i.val] ∧
          b.ctr (baseTB + 0x218) = (a.ctr (baseTB + 0x218) + 1) % 2 ^ 64)

/-- R81, R342, R349: what the Time Base sends, the egress timestamps that it awaits, and their loss. (The model's choices: log 6, log
18.) -/
def Obligations.PtpTransmissionAwaitsItsTimestamp : Prop :=
  ∀ (t ts : Gts) (i : Fin 2) (s : State),
    let a := s.advance t
    let x := a.inst i.val
    let only (b : State) : Prop := (∀ j, j ≠ i.val → b.inst j = a.inst j) ∧
      b = { a with tb := { a.tb with inst := b.tb.inst }, ctrs := b.ctrs }
    (∀ r, ptpRec a i.val = some r → ptpRole r = 2 → Does (.syncTx t i) s fun b =>
      b.inst i.val = { x with sentSync := x.sentSync + 1, txReq := false, txFrom := if bit (ptpOpts r) 0 then a.now + 1 else 0 } ∧
        only b ∧ b.ctrs = a.ctrs) ∧
    (isFollower a i.val = true → Does (.delayReqTx t i) s fun b =>
      b.inst i.val = { x with txFrom := a.now + 1, txReq := true } ∧ only b ∧
        b.ctr (baseTB + 0x208 + 4 * i.val) = (a.ctr (baseTB + 0x208 + 4 * i.val) + 1) % 2 ^ 64) ∧
    (x.txFrom ≠ 0 → a.now ≤ x.txFrom - 1 + 4000000 → Does (.egressTimestamp t i ts) s fun b =>
      let g := a.mediaOf (ts.toNat + txLat a i.val)
      b.inst i.val = (if x.txReq then { x with txFrom := 0, t3 := g } else { x with txFrom := 0, sentAt := g }) ∧ only b ∧
        b.ctrs = a.ctrs) ∧
    Does (.tsDrop t i) s fun b =>
      b.inst i.val = { x with txFrom := 0, syncSeq := none, dropSec := a.now / 4000000000 + 1 } ∧
        b.ctr (baseTB + 0x210) = (a.ctr (baseTB + 0x210) + 1) % 2 ^ 64 ∧
        (x.dropSec = a.now / 4000000000 + 1 → only b) ∧ (x.dropSec ≠ a.now / 4000000000 + 1 → Logs a b 12 0xC0A [i.val])

/-- R337, R343 to R345, R380: HOLDOVER begins and expires, a step is confirmed, and the preferred instance returns. (The model's
choices: log 7.) -/
def Obligations.HoldoverStepsAndReversion : Prop :=
  ∀ (t : Gts) (i : Fin 2) (s : State),
    let a := s.advance t
    (∀ r rec, a.tb.ref = some r → r < 2 → ptpRec a r = some rec → a.tb.st = 2 → usableInst a (1 - r) = false →
      (a.inst r).lastSync + 4 * logInterval (byteAt rec 4) ≤ a.now → Does (.holdoverOn t) s fun b =>
        b.tb = { a.tb with st := 3, holdFrom := a.now, lockFrom := 0 } ∧ Logs a b 12 0xC04 [r] ∧
          b = { a with tb := b.tb, ctrs := b.ctrs, log := b.log, regs := b.regs, msix := b.msix }) ∧
    (a.tb.st = 3 → a.tb.expired = false →
      let e := 50 + a.rfld (baseTB + 8) 15 0 * (a.now - a.tb.holdFrom) / 4000000000
      a.rfld (baseTB + 8) 31 16 < e → Does (.holdoverExpired t) s fun b =>
        b.tb = { a.tb with expired := true } ∧ Logs a b 12 0xC06 [e] ∧
          b = { a with tb := b.tb, log := b.log, regs := b.regs, msix := b.msix }) ∧
    (let x := a.inst i.val
     let since := if x.stepLog = 0 then x.stepFrom else x.stepLog
     a.tb.ref = some i.val → x.stepFrom ≠ 0 → since - 1 + stepConfirm a ≤ a.now → Does (.ptpStep t i) s fun b =>
        (b.inst i.val).stepLog = a.now + 1 ∧ Logs a b 12 0xC07 ([i.val] ++ words64 x.theta) ∧
          b.tb.realignReq = (a.tb.realignReq || bit (a.reg (baseTB + 4)) 15 || decide (a.sup.mode = .calibrate)) ∧
            b.tb.ofs = a.tb.ofs) ∧
    (let p := ptpPref a
     let rv := a.rfld (baseSV + 0x814) 15 8
     rv ≠ 0 → a.tb.ref = some (1 - p) → a.tb.st = 2 → usableInst a p = true → (a.inst p).slaveFrom ≠ 0 →
      (a.inst p).slaveFrom - 1 + rv * 4000000000 ≤ a.now → Does (.refRevert t) s fun b =>
        b.tb.ref = some p ∧ b.tb.refNew = true ∧ b.tb.theta = (a.inst p).theta ∧ b.tb.st = 2 ∧
          Logs a b 12 0xC03 ([1 - p, p] ++ words64 (a.inst p).theta) ∧
            b.ctr (baseTB + 0x214) = (a.ctr (baseTB + 0x214) + 1) % 2 ^ 64)

/-- R334, R337, R346: REALIGN, SET_TOD, the pulses of PPS in and their loss, and the 10 MHz input. (The model's choices: log 7, log
13.) -/
def Obligations.RealignTimeOfDayAndPps : Prop :=
  ∀ (t : Gts) (m : Master) (s : State),
    let a := s.advance t
    (allows m 0x30010 true a = true →
      (stepPending a = true → exec (.realign t m) s = .next { begun m a with tb := { a.tb with realignReq := true } }) ∧
      (stepPending a = false → exec (.realign t m) s = .next (begun m a)) ∧
      exec (.setTod t m) s = .next { begun m a with
        tb := { a.tb with tod := some (a.reg 0x30014 + 2 ^ 32 * a.reg 0x30018) } }) ∧
    ((a.rfld baseTB 9 8 ≠ 1 ∨ a.tb.st ≠ 0 ∨ a.tb.tod = none) →
      exec (.ppsIn t) s = .next { a with tb := { a.tb with ppsOk := true, lastPps := a.now } }) ∧
    (∀ d, a.rfld baseTB 9 8 = 1 → a.tb.st = 0 → a.tb.tod = some d →
      let th : Int := (d * 4000000000 : Nat) - a.mediaOf (a.now - a.rfld (baseTB + 0xC) 15 0)
      th.natAbs < stepThr a → exec (.ppsIn t) s = .next { a with
        tb := { a.tb with ppsOk := true, lastPps := a.now, tod := some (d + 1), theta := th, ppsStepFrom := 0 } }) ∧
    (a.tb.ppsOk = true → a.tb.lastPps + 4000000000 + 40000000 ≤ a.now → Does (.ppsLoss t false) s fun b =>
      b.tb = { a.tb with ppsOk := false } ∧ Logs a b 12 0xC09 [0] ∧
        b = { a with tb := b.tb, log := b.log, regs := b.regs, msix := b.msix }) ∧
    (a.tb.ref10Ok = true → Does (.ppsLoss t true) s fun b =>
      b.tb = { a.tb with ref10Ok := false } ∧ Logs a b 12 0xC09 [1] ∧
        b = { a with tb := b.tb, log := b.log, regs := b.regs, msix := b.msix }) ∧
    exec (.tenMhzInputPresent t) s = .next { a with tb := { a.tb with ref10Ok := bit (a.reg baseTB) 4 } }

/-! ### Network ports -/

/-- R69 to R71, R85: a received frame is counted out by length, checked, filtered by destination, and stored as an item of the queue
that its kind selects; a port without a link, or a Spare one, only looks for the wake pattern. (The model's choices: log 6, log
18.) -/
def Obligations.ReceivedFramesAreFilteredAndQueued : Prop :=
  ∀ (t ts : Gts) (p : PortId) (body icv fcs : List Byte) (s : State),
    let a := s.advance t
    let bytes := body ++ icv ++ fcs
    let n := bytes.length
    let base := baseNP p.val
    let cmd := Instr.rxFrame t p body ts icv fcs
    let b := bytes.take (n - 4)
    let f := parseFrame b
    let port := n16 b (f.l4 + 2)
    let ptp : Bool := f.etype == 0x88F7 || (isUdp f && (port == 319 || port == 320))
    let media : Bool := isUdp f && (npRole a p.val == 1 || npRole a p.val == 2)
    let q := if ptp then rxQueue a p.val 22 16 else if media then rxQueue a p.val 6 0 else rxQueue a p.val 14 8
    ((a.port p.val).link = true → npRole a p.val ≠ 0 →
      (n < 64 → exec cmd s = .next (a.bump (base + 0x20C))) ∧
      (64 ≤ n → npFld a p.val 0x40 13 0 < n → exec cmd s = .next (a.bump (base + 0x210))) ∧
      (64 ≤ n → n ≤ npFld a p.val 0x40 13 0 → fcsOk bytes = true → npMacsec a p.val = false →
        (dstOk a p.val (b.take 6) = false → exec cmd s = .next (a.bump (base + 0x214))) ∧
        (dstOk a p.val (b.take 6) = true → q = 127 → exec cmd s = .next (a.bump (base + 0x21C))) ∧
        (∀ d, dstOk a p.val (b.take 6) = true → q ≠ 127 → qDesc a q = some d → qPfc d = false →
          let x := a.queue q
          x.push = none → x.dropPend = false → qDepth d x < qSlots d → qOcc d x < qSlots d → Does cmd s fun c =>
            (c.queue q).w = (x.w + 1) % qMod d ∧ (c.queue q).rd = x.rd ∧
            tget {} (c.queue q).slots (x.w % qSlots d) =
              { src := p.val, tclass := rxClass a p.val f, gts := if ptp then ts.toNat - npFld a p.val 0x44 15 0 else a.now, data := b } ∧
            Counted a c (base + 0x200) 1 ∧ Counted a c (base + 0x204) n ∧ OnlyQueue q a c ∧
            c = { a with queues := c.queues, ctrs := c.ctrs }))) ∧
    ((a.port p.val).link = false → detectorOn a p.val = false → Idles cmd t s) ∧
    ((a.port p.val).link = false → a.sup.mode = .standby → fcsOk bytes = true → bit (a.reg (base + 0x4C)) 31 = true →
      wakeHit a p.val b = true → Does cmd s fun c =>
        (c.port p.val).wake = true ∧ Counted a c (base + 0x240) 1 ∧ OnlyPort p.val a c ∧ c.sup.mode = .boot ∧
          { gts := a.now, source := p.val, code := p.val * 256 + 4, d := [n] } ∈ c.log.fresh)

/-- R77, R78, R381: received pause holds classes, holds expire, a storm breaks the hold and opens a release window, and a moved class
comes back. (The model's choices: log 7, log 18.) -/
def Obligations.PauseHoldsAndReleasesClasses : Prop :=
  ∀ (t : Gts) (p : PortId) (s : State),
    let a := s.advance t
    let base := baseNP p.val
    let held (on : Nat → Bool) (q : Nat → Nat) (b : State) : Prop := ∀ c, c < 8 →
      let hit : Bool := on c && bit (npFld a p.val 0x34 15 8) c && !inRelease a p.val c
      tget 0 (b.port p.val).hold c =
        (if hit then (if q c = 0 then 0 else a.now + pauseGrains (tenG a p.val) (q c)) else tget 0 (a.port p.val).hold c) ∧
      tget 0 (b.port p.val).heldTo c =
        (if hit then (if q c = 0 then (if isPaused a p.val c then a.now else tget 0 (a.port p.val).heldTo c)
                      else a.now + pauseGrains (tenG a p.val) (q c)) else tget 0 (a.port p.val).heldTo c) ∧
      -- a hold that begins where the last one ended leaves no instant without a hold
      tget 0 (b.port p.val).pausedFrom c =
        (if hit ∧ q c ≠ 0 ∧ (tget 0 (a.port p.val).pausedFrom c = 0 ∨ tget 0 (a.port p.val).heldTo c < a.now) then a.now + 1
         else tget 0 (a.port p.val).pausedFrom c)
    let quiet (b : State) : Prop := OnlyPort p.val a b ∧ b = { a with ports := b.ports, ctrs := b.ctrs } ∧
      Counted a b (base + 0x220) 1
    ((a.port p.val).link = true → npRole a p.val ≠ 0 →
      (bit (a.reg (base + 0x34)) 0 = false → ∀ k, exec (.pauseFrame t p k) s = .next (a.bump (base + 0x220))) ∧
      (bit (a.reg (base + 0x34)) 0 = true →
        (∀ q, Does (.pauseFrame t p (.link q)) s fun b => held (fun _ => true) (fun _ => q.toNat) b ∧ quiet b) ∧
        (∀ e qs, Does (.pauseFrame t p (.pfc e qs)) s fun b =>
          held (fun c => e.getLsbD c) (fun c => (qs.getD c 0).toNat) b ∧ quiet b))) ∧
    (∀ c : Fin 8,
      let x := a.port p.val
      (isPaused a p.val c.val = false → exec (.pauseExpiry t p c) s = .next (a.setPort p.val
        { x with hold := tset 0 x.hold c.val 0 })) ∧
      (isPaused a p.val c.val = true → Idles (.pauseExpiry t p c) t s) ∧
      (inRelease a p.val c.val = false → exec (.releaseWindowEnd t p c) s = .next (a.setPort p.val
        { x with relEnd := tset 0 x.relEnd c.val 0 })) ∧
      (npFld a p.val 0x38 15 0 ≠ 0 → tget 0 x.pausedFrom c.val ≠ 0 → isPaused a p.val c.val = true →
        tget 0 x.pausedFrom c.val - 1 + npFld a p.val 0x38 15 0 * 4000 ≤ a.now → npRole a p.val = 3 →
        Does (.pauseStorm t p c) s fun b =>
          b.port p.val = { x with hold := tset 0 x.hold c.val 0, heldTo := tset 0 x.heldTo c.val 0, pausedFrom := tset 0 x.pausedFrom c.val 0,
                                  relEnd := tset 0 x.relEnd c.val (a.now + npFld a p.val 0x38 31 16 * 4000) } ∧
          Counted a b (base + 0x23C) 1 ∧ Logs a b p.val (p.val * 256 + 3) [c.val, a.now % 2 ^ 32, a.now / 2 ^ 32] ∧
          OnlyPort p.val a b ∧ PortFrame a b) ∧
      (let g := tget 0 a.sup.moved (8 * p.val + c.val)
       g ≠ 0 → g ≤ a.now → Does (.classBack t p c) s fun b =>
          tget 0 b.sup.moved (8 * p.val + c.val) = 0 ∧ Logs a b 15 0xF6A [c.val, p.val] ∧
          b = { a with sup := { a.sup with moved := b.sup.moved, movedAt := b.sup.movedAt }, log := b.log, regs := b.regs, msix := b.msix }))

/-- R68, R363: a link that goes down or comes up, and the loss of a media network. (The model's choices: log 7, log 18.) -/
def Obligations.LinksAndNetworksGoDownAndUp : Prop :=
  ∀ (t : Gts) (p : PortId) (s : State),
    let a := s.advance t
    let x := a.port p.val
    let base := baseNP p.val
    (∀ cause, x.link = true → x.txq = [] → npRole a p.val = 3 → recsOf a.cfg.recs tyQUEUE = [] →
      Does (.linkDown t p cause) s fun b =>
        b.port p.val = { x with link := false, fecLock := false, lpiTx := false, lpiRx := false, txCur := none } ∧
        Counted a b (base + 0x250) 1 ∧ Logs a b p.val (p.val * 256 + 1) [match cause with | .blockLock => 0 | .localFault => 1 | .remoteFault => 2] ∧
        OnlyPort p.val a b ∧ PortFrame a b) ∧
    (∀ cause, x.link = false → Idles (.linkDown t p cause) t s) ∧
    (∀ r cause, npRole a p.val = r + 1 → r < 2 → x.link = true → bit a.sup.netLost r = false → Does (.linkDown t p cause) s fun b =>
      (b.port p.val).link = false ∧ bit b.sup.netLost r = true ∧
        { gts := a.now, source := 15, code := 0xF4A, d := [r] } ∈ b.log.fresh) ∧
    (x.link = false → x.txq = [] → npRole a p.val = 3 → recsOf a.cfg.recs tyQUEUE = [] → a.sup.mode = .service →
      let fec := bit (a.reg base) 3 && !bit (a.reg base) 2
      ∀ eee, Does (.linkUp t ⟨p, eee⟩) s fun b =>
        b.port p.val = { x with link := true, fecLock := fec, eeePartner := eee, idleFrom := a.now, txEnd := a.now, txReady := a.now } ∧
        Logs a b p.val (p.val * 256 + 2) [b2n (bit (a.reg base) 2), b2n fec] ∧ OnlyPort p.val a b ∧ PortFrame a b) ∧
    ((npRole a p.val = 0 ∨ a.sup.mode = .standby ∨ a.sup.mode = .off ∨ a.sup.mode = .lockdown) →
      ∀ eee, Idles (.linkUp t ⟨p, eee⟩) t s) ∧
    (∀ net : Leg,
      let n := if net = .red then 0 else 1
      portOfRole a (n + 1) = some p.val → x.link = false → bit a.sup.netLost n = false → a.tb.ref ≠ some n →
      Does (.netLost t net) s fun b =>
        b.sup = { a.sup with netLost := a.sup.netLost ||| 2 ^ n } ∧ Counted a b (baseSV + 0x724) 1 ∧ Logs a b 15 0xF4A [n] ∧
        b = { a with sup := b.sup, ctrs := b.ctrs, log := b.log, regs := b.regs, msix := b.msix })

/-- R72, R75, R77: the frame that starts is the head of the highest class whose head is not held by pause and fits its gate; its wire
time follows from its length, and it is counted. (The model's choices: log 6, log 18.) -/
def Obligations.TransmissionStartsTheHighestAdmittedClass : Prop :=
  ∀ (t : Gts) (p : PortId) (s : State),
    let a := s.advance t
    let r := prepared p.val a
    let base := baseNP p.val
    let secured (f : TxFrame) : Bool := npMacsec r p.val && !macsecFree r p.val f.bytes
    let length (f : TxFrame) : Nat := max 60 f.bytes.length + (if secured f then 36 else 4)
    (a.port p.val).link = true → txMute a.sup.mode = false → npRole a p.val ≠ 0 →
    (r.port p.val).txEnd ≤ r.now → (r.port p.val).txReady ≤ r.now → (r.port p.val).lpiTx = false →
    ∀ c f, c < 8 → headOf r p.val c = some f →
      let len := length f
      let stop := r.now + txGrains (tenG r p.val) (len + 8)
      let sends (bytes : List Byte) (b : State) : Prop :=
        (b.port p.val).txCur = some f ∧ (b.port p.val).txEnd = stop ∧ (b.port p.val).txReady = stop + txGrains (tenG r p.val) 12 ∧
        (b.port p.val).wire = some { f with bytes := withFcs (bytes ++ List.replicate (len - 4 - bytes.length) 0) f.stomp } ∧
        tget [] (b.port p.val).txq c = (tget [] (r.port p.val).txq c).tail ∧
        (∀ c', c' ≠ c → tget [] (b.port p.val).txq c' = tget [] (r.port p.val).txq c') ∧
        Counted r b (base + 0x224) 1 ∧ Counted r b (base + 0x228) len ∧ OnlyPort p.val r b
      isPaused r p.val c = false → gateFits r p.val c (txGrains (tenG r p.val) (len + 8)) = true →
      (∀ c', c' < 8 → c < c' → ∀ g, headOf r p.val c' = some g → isPaused r p.val c' = true ∨
        gateFits r p.val c' (txGrains (tenG r p.val) (length g + 8)) = false) →
      (secured f = false → Does (.txStart t p) s fun b =>
        sends (oneStep r p.val f.bytes) b ∧ (ptpAt f.bytes = none → sends f.bytes b) ∧ PortFrame r b) ∧
      (secured f = true → 
        let q := popHead p.val c (r.setPort p.val { r.port p.val with txCur := none })
        (∀ b z, macsecSeal p.val f.bytes q = some (b, z) → Does (.txStart t p) s (sends b)) ∧
        (macsecSeal p.val f.bytes q = none → Does (.txStart t p) s fun b =>
          Counted r b (baseCE + 0x220) 1 ∧ (b.port p.val).wire = (r.port p.val).wire ∧ OnlyPort p.val r b))

/-- R68, R74, R76, R82: a port without a link discards what it would send; a gate list that is due comes into force; low-power idle is
entered after the idle time, and taken from the partner at once. (The model's choices: log 18.) -/
def Obligations.GatesAndLowPowerIdle : Prop :=
  ∀ (t : Gts) (p : PortId) (s : State),
    let a := s.advance t
    let x := a.port p.val
    (x.link = false → recsOf a.cfg.recs tyQUEUE = [] → exec (.txStart t p) s = .next
      ((a.setPort p.val { x with txq := [] }).bumpBy (baseNP p.val + 0x230) (x.txq.map fun e => e.2.length).sum)) ∧
    (∀ g l, x.gclNext = [(g, l)] →
      (g ≤ a.now → exec (.gateEntry t p) s = .next (a.setPort p.val { x with gcl := l, gclNext := [] })) ∧
      (a.now < g → Idles (.gateEntry t p) t s)) ∧
    (∀ g l g' l', x.gclNext = [(g, l), (g', l')] → g ≤ a.now → a.now < g' →
      exec (.gateEntry t p) s = .next (a.setPort p.val { x with gcl := l, gclNext := [(g', l')] })) ∧
    (x.gclNext = [] → Idles (.gateEntry t p) t s) ∧
    (recsOf a.cfg.recs tyQUEUE = [] → lpiMode a.sup.mode = true → x.link = true → x.lpiTx = false → x.eeePartner = true →
      bit (a.reg (baseNP p.val + 0x48)) 0 = true → x.txq = [] → x.idleFrom + npFld a p.val 0x48 15 4 * 4000 ≤ a.now →
      exec (.lpiEntry t p) s = .next ((a.setPort p.val { x with lpiTx := true, txCur := none }).bump (baseNP p.val + 0x244))) ∧
    (∀ enter, exec (.lowPowerIdleFromPartner t p enter) s = .next (a.setPort p.val { x with lpiRx := enter }))

/-! ### The Queue Fabric -/

/-- R123 to R129, R134: a push by the producer begins, stalls or is dropped; its bytes come at their instants; it completes when its
last byte is written; a stalled one begins when there is room. (The model's choices: log 7, log 17.) -/
def Obligations.PushesBeginStallDropAndComplete : Prop :=
  ∀ (t : Gts) (q : BitVec 7) (d : List Byte) (s : State),
    qDesc (s.advance t) q.toNat = some d →
    let a := queueNow q.toNat d (s.advance t)
    let x := a.queue q.toNat
    let quiet (b : State) : Prop := OnlyQueue q.toNat a b ∧ b = { a with queues := b.queues, ctrs := b.ctrs }
    let begins (it : Item) (more : List (Gts × List Byte)) (mark lost : Bool) (b : State) : Prop :=
      b.queue q.toNat = { x with
        push := some it, pushWait := none, coming := more, pushFrom := a.now
        lastByte := if it.data.isEmpty then x.lastByte else a.now, mark := mark, markLost := lost } ∧
        quiet b ∧ b.ctrs = a.ctrs
    let stores (it : Item) (b : State) : Prop :=
      (b.queue q.toNat).w = (x.w + 1) % qMod d ∧ (b.queue q.toNat).push = none ∧ (b.queue q.toNat).rd = x.rd ∧
        tget {} (b.queue q.toNat).slots (x.w % qSlots d) = { it with drp := it.drp || x.dropPend } ∧
        (∀ i, i ≠ x.w % qSlots d → tget {} (b.queue q.toNat).slots i = tget {} x.slots i) ∧
        (b.queue q.toNat).dropPend = false ∧ Counted a b (qCtr q.toNat 0) 1 ∧ quiet b
    (∀ (src : BitVec 8) (c : BitVec 3) (aux : Word) (data : List Byte) (more : List (Gts × List Byte)) (ts : Option Gts),
      let it : Item := { src := src.toNat, tclass := c.toNat, aux := aux.toNat, gts := (ts.map BitVec.toNat).getD a.now, data := data }
      let cmd := Instr.queuePush t src q c aux ⟨data, more⟩ ts
      let waits : Prop := exec cmd s = .next (a.setQueue q.toNat { x with pushWait := some it, waitWhole := false, coming := more })
      let drops : Prop := Does cmd s fun b =>
        (b.queue q.toNat).dropPend = true ∧ (b.queue q.toNat).w = x.w ∧ (b.queue q.toNat).slots = x.slots ∧
          Counted a b (qCtr q.toNat 2) 1 ∧ OnlyQueue q.toNat a b ∧
          (x.dropEll ≠ a.ell + 1 → Logs a b 6 0x601 [q.toNat, 1]) ∧ (x.dropEll = a.ell + 1 → b.log = a.log)
      src.toNat = qProd d →
        (qBusy x = true → exec cmd s = .next a) ∧
        (qBusy x = false →
          (qOcc d x ≠ qSlots d → qDepth d x ≠ qSlots d → Does cmd s (begins it more x.mark x.markLost)) ∧
          (qDepth d x ≠ qSlots d → qOcc d x = qSlots d → qLossy d = true → qCons d ≠ 7 → Does cmd s (begins it more false true)) ∧
          (qDepth d x ≠ qSlots d → qOcc d x = qSlots d → qLossy d = true → qCons d = 7 → drops) ∧
          (qOcc d x = qSlots d → qLossy d = false → waits) ∧
          (qDepth d x = qSlots d → qLossy d = false ∨ popInGrain q.toNat d a = true → waits) ∧
          (qDepth d x = qSlots d → qLossy d = true → popInGrain q.toNat d a = false → drops))) ∧
    (∀ (rest : List Byte) (err : Bool), x.backlog = [] →
      (∀ it, x.pushDead = false → x.push = some it → qPfc d = false → Does (.pushComplete t q rest err) s
        (stores { it with data := it.data ++ x.coming.flatMap (·.2) ++ rest, err := it.err || err })) ∧
      (x.pushDead = true → exec (.pushComplete t q rest err) s =
        .next (a.setQueue q.toNat { x with pushDead := false, flushPush := false, coming := [] })) ∧
      (x.pushDead = false → x.push = none → exec (.pushComplete t q rest err) s = .next a)) ∧
    (∀ (rest : List Byte) (err : Bool) (j : Item), x.backlog = [j] → x.pushDead = true → x.push = none → x.pushWait = none →
      qOcc d x ≠ qSlots d → qDepth d x ≠ qSlots d → qPfc d = false →
      Does (.pushComplete t q rest err) s fun b => stores j b ∧ (b.queue q.toNat).backlog = []) ∧
    (∀ it, x.pushWait = some it → qDepth d x ≠ qSlots d →
      (qOcc d x < qSlots d → x.waitWhole = false → Does (.stalledPushProceed t q) s (begins it x.coming x.mark x.markLost)) ∧
      (qOcc d x < qSlots d → x.waitWhole = true → x.backlog = [] → qPfc d = false → Does (.stalledPushProceed t q) s (stores it)) ∧
      (qSlots d ≤ qOcc d x → qLossy d = true → qCons d ≠ 7 → x.waitWhole = false →
        Does (.stalledPushProceed t q) s (begins it x.coming false true)) ∧
      (qSlots d ≤ qOcc d x → qLossy d = false → exec (.stalledPushProceed t q) s = .next a)) ∧
    (x.pushWait = none ∨ qDepth d x = qSlots d → exec (.stalledPushProceed t q) s = .next a)

/-- R124, R126, R129, R130: a pop by the consumer delivers or stalls; Rd advances when it completes; bytes are written at their
instants; a wait that lasts the idle time times out. (The model's choices: log 7, log 17.) -/
def Obligations.PopsDeliverStallAndTimeOut : Prop :=
  ∀ (t : Gts) (q : BitVec 7) (d : List Byte) (s : State),
    qDesc (s.advance t) q.toNat = some d →
    let a := queueNow q.toNat d (s.advance t)
    let x := a.queue q.toNat
    let quiet (b : State) : Prop := OnlyQueue q.toNat a b ∧ b = { a with queues := b.queues, ctrs := b.ctrs }
    (∀ src : BitVec 8, src.toNat = qCons d → x.popBusy = false → x.popStall = false →
      (qReady d x = true → exec (.queuePop t src q) s = .next (a.setQueue q.toNat
        { x with popBusy := true, timedOut := false, popReq := a.now })) ∧
      (qReady d x = false → exec (.queuePop t src q) s = .next (a.setQueue q.toNat
        { x with popStall := true, timedOut := false, waitFrom := a.now }))) ∧
    (x.popBusy = true → 0 < qDepth d x → x.pfcOn = false → Does (.popComplete t q) s fun b =>
      let it := tget {} x.slots (x.rd % qSlots d)
      b.queue q.toNat = { x with out := x.out ++ [{ it with drp := it.drp || x.drpNext }], drpNext := false,
                                 rd := (x.rd + 1) % qMod d, popBusy := false, flushPop := false } ∧
        Counted a b (qCtr q.toNat 1) 1 ∧ quiet b) ∧
    (x.popBusy = false ∨ qDepth d x = 0 → exec (.popComplete t q) s = .next a) ∧
    (x.popStall = true → qReady d x = true → exec (.stalledPopProceed t q) s = .next (a.setQueue q.toNat
      { x with popStall := false, popBusy := true, popReq := a.now })) ∧
    (x.popStall = false ∨ qReady d x = false → exec (.stalledPopProceed t q) s = .next a) ∧
    -- what the passing of time does to a queue
    exec (.idleTimeout t q) s = .next a ∧
    (let b := s.advance t
     let z := b.queue q.toNat
     let due (since g : Nat) : Prop := qIdle d ≠ 0 ∧ max since z.lastByte + 4000 * qIdle d ≤ g
     (z.coming = [] → z.popStall = true → due z.waitFrom b.now → z.push = none → z.flushPend = 0 →
        x = { z with popStall := false, timedOut := true } ∧ Counted b a (qCtr q.toNat 4) 1 ∧ Logs b a 6 0x602 [q.toNat, 0] ∧
          OnlyQueue q.toNat b a ∧ QueueFrame b a) ∧
     (∀ it, z.coming = [] → z.popStall = false → z.push = some it → due z.pushFrom b.now → z.flushPend = 0 → qPfc d = false →
        tget {} x.slots (z.w % qSlots d) = { it with err := true, drp := it.drp || z.dropPend } ∧ x.w = (z.w + 1) % qMod d ∧
          x.push = none ∧ x.pushDead = true ∧ Counted b a (qCtr q.toNat 4) 1 ∧ Logs b a 6 0x602 [q.toNat, 1]) ∧
     (z.coming = [] → (z.popStall = true → ¬ due z.waitFrom b.now) → (z.push.isSome = true → ¬ due z.pushFrom b.now) →
        x = z ∧ OnlyQueue q.toNat b a ∧ a = { b with queues := a.queues }) ∧
     (∀ g bs it, z.coming = [(g, bs)] → z.pushWait = none → z.push = some it → qIdle d = 0 →
        (g.toNat ≤ b.now → x.push = some { it with data := it.data ++ bs } ∧ x.coming = []) ∧
        (b.now < g.toNat → x = z)))

/-- R124, R360: an access by a source that the descriptor does not name is refused: the queue keeps its state, the refusal is counted
and logged, and the Supervisor is told of the violation. (The model's choices: log 7, log 17.) -/
def Obligations.RogueQueueAccessIsRefused : Prop :=
  ∀ (t : Gts) (src : BitVec 8) (q : BitVec 7) (d : List Byte) (s : State),
    qDesc (s.advance t) q.toNat = some d →
    let a := queueNow q.toNat d (s.advance t)
    let refused (cmd : Instr) (kind : Nat) : Prop := Does cmd s fun b =>
      b.queues = a.queues ∧ Counted a b (qCtr q.toNat 6) 1 ∧
        { gts := a.now, source := 6, code := 0x605, d := [q.toNat, src.toNat * 65536 + kind] } ∈ b.log.fresh ∧
        { gts := a.now, source := 15, code := 0xF40,
          d := [src.toNat, baseQF + 0x1000 + 16 * q.toNat, b2n (decide (kind = 0)), 0x100] } ∈ b.log.fresh
    (src.toNat ≠ qProd d → ∀ c aux data ts, refused (.queuePush t src q c aux data ts) 0) ∧
    (src.toNat ≠ qCons d → refused (.queuePop t src q) 1 ∧ refused (.mark t (.block src) q) 1 ∧
      refused (.release t (.block src) q) 1 ∧ refused (.rewind t (.block src) q) 1 ∧
      (src.toNat ≠ qProd d → src.toNat ≠ 15 →
        refused (.immediateFlush t (.block src) q) 1 ∧ refused (.boundaryFlush t (.block src) q) 1))

/-- R131, R132: a flush discards every item from Rd to W and deactivates the mark; an immediate one cuts what is in progress, and
gives the consumer what it has read of the item, marked `err`; a boundary one waits, and a wait that lasts an Ell on a queue
without idle timeout is forced. (The model's choices: log 7, log 9, log 17.) -/
def Obligations.FlushesDiscardFromRdToW : Prop :=
  ∀ (t : Gts) (src : BitVec 8) (q : BitVec 7) (d : List Byte) (s : State),
    qDesc (s.advance t) q.toNat = some d →
    let a := queueNow q.toNat d (s.advance t)
    let x := a.queue q.toNat
    x.pfcOn = false →
    let emptied (n : Nat) (b : State) : Prop :=
      let y := b.queue q.toNat
      qDepth d y = 0 ∧ y.w = x.w ∧ y.rd = x.w ∧ y.mark = false ∧ y.flushPend = 0 ∧ y.slots = x.slots ∧
        Counted a b (qCtr q.toNat 3) n ∧ OnlyQueue q.toNat a b ∧ QueueFrame a b
    let cut (b : State) : Prop :=
      let y := b.queue q.toNat
      emptied (qDepth d x + b2n x.push.isSome) b ∧ y.push = none ∧ y.popBusy = false ∧ y.pushDead = (x.pushDead || x.push.isSome) ∧
        (x.popBusy = false → y.out = x.out) ∧
        (x.popBusy = true → ∃ it, y.out = x.out ++ [it] ∧ it.err = true ∧
          (0 < qDepth d x → it.data <+: (tget {} x.slots (x.rd % qSlots d)).data) ∧
          (∀ p, qDepth d x = 0 → x.push = some p → it.data = p.data))
    ((src.toNat = qCons d ∨ src.toNat = qProd d ∨ src.toNat = 15) →
      (x.flushPend = 0 → Does (.immediateFlush t (.block src) q) s fun b => cut b ∧ b.log = a.log) ∧
      (x.flushPend ≠ 0 → Does (.immediateFlush t (.block src) q) s fun b => cut b ∧ Logs a b 6 0x604 [q.toNat, 1]) ∧
      (x.push = none → x.popBusy = false → Does (.boundaryFlush t (.block src) q) s fun b => emptied (qDepth d x) b ∧
        b.log = a.log) ∧
      (x.push.isSome = true ∨ x.popBusy = true → exec (.boundaryFlush t (.block src) q) s = .next (a.setQueue q.toNat
        { x with flushPend := a.now + 1, flushPush := x.push.isSome, flushPop := x.popBusy }))) ∧
    (x.flushPend ≠ 0 → x.flushPush = false → x.flushPop = false → Does (.flushPoint t q) s fun b => emptied (qDepth d x) b ∧
      b.log = a.log) ∧
    (x.flushPend = 0 ∨ x.flushPush = true ∨ x.flushPop = true → exec (.flushPoint t q) s = .next a) ∧
    (x.flushPend ≠ 0 → qIdle d = 0 → x.flushPend - 1 + 500000 ≤ a.now → Does (.flushForced t q) s fun b =>
      cut b ∧ Logs a b 6 0x604 [q.toNat, 2])

/-- R133 to R135, R137: MARK, RELEASE and REWIND by the consumer or, on a host queue, through QF_CTRL; a lost mark is reported once;
PFC is repeated while the depth stays above `pause_lo`. (The model's choices: log 7, log 17.) -/
def Obligations.MarksRewindAndPfcRepeats : Prop :=
  ∀ (t : Gts) (src : BitVec 8) (m : Master) (q : BitVec 7) (d : List Byte) (s : State),
    qDesc (s.advance t) q.toNat = some d →
    let a := queueNow q.toNat d (s.advance t)
    let x := a.queue q.toNat
    let marked (x : Queue) : Queue := { x with mkp := x.rd, mark := true, markLost := false }
    let released (x : Queue) : Queue := { x with mark := false, markLost := false }
    (src.toNat = qCons d →
      exec (.mark t (.block src) q) s = .next (a.setQueue q.toNat (marked x)) ∧
      exec (.release t (.block src) q) s = .next (a.setQueue q.toNat (released x)) ∧
      (x.mark = true → exec (.rewind t (.block src) q) s = .next (a.setQueue q.toNat { x with rd := x.mkp })) ∧
      (x.mark = false → x.markLost = true → Does (.rewind t (.block src) q) s fun b =>
        b.queue q.toNat = { x with markLost := false, drpNext := true } ∧ Counted a b (qCtr q.toNat 5) 1 ∧
          Logs a b 6 0x603 [q.toNat, x.rd] ∧ OnlyQueue q.toNat a b) ∧
      (x.mark = false → x.markLost = false → exec (.rewind t (.block src) q) s = .next a)) ∧
    (allows m baseQF true (s.advance t) = true →
      let h := begun m (s.advance t)
      let g := queueNow q.toNat d h
      let y := g.queue q.toNat
      (qCons d = 13 →
        exec (.mark t (.bus m) q) s = .next { g.setQueue q.toNat (marked y) with qfResult := q.toNat } ∧
        exec (.release t (.bus m) q) s = .next { g.setQueue q.toNat (released y) with qfResult := q.toNat } ∧
        (y.mark = true → exec (.rewind t (.bus m) q) s =
          .next { g.setQueue q.toNat { y with rd := y.mkp } with qfResult := q.toNat }) ∧
        (y.mark = false → y.markLost = false → exec (.rewind t (.bus m) q) s = .next { g with qfResult := 3 * 2 ^ 28 + q.toNat })) ∧
      (qCons d ≠ 13 → ∀ e ∈ [Instr.mark t (.bus m) q, .release t (.bus m) q, .rewind t (.bus m) q],
        exec e s = .next { h with qfResult := 2 * 2 ^ 28 + q.toNat }) ∧
      (qCons d ≠ 13 → qProd d ≠ 13 → ∀ e ∈ [Instr.immediateFlush t (.bus m) q, .boundaryFlush t (.bus m) q],
        exec e s = .next { h with qfResult := 2 * 2 ^ 28 + q.toNat })) ∧
    (x.pfcOn = true → qLo d < qDepth d x → x.pfcDue ≤ a.now →
      let p := qPort d
      bit (fld (a.reg (baseNP p + 0x34)) 23 16) (qClass d) = true → bit (a.rfld (baseNP p + 0xC) 31 24) (qClass d) = false →
      (a.port p).link = true → Does (.pfcRepeat t q) s fun b =>
        (b.port p).pfcSent = some (qClass d, qQuanta d) ∧ Counted a b (baseNP p + 0x22C) 1 ∧
          b.queue q.toNat = { x with pfcDue := a.now + pauseGrains (bit (a.reg (baseNP p)) 2) (qQuanta d) / 2 } ∧
          OnlyQueue q.toNat a b ∧ OnlyPort p a b ∧ b = { a with queues := b.queues, ports := b.ports, ctrs := b.ctrs })

/-! ### The Stream Engine -/

/-- R91 to R96, R98, R100: a copy from a media port's queue is matched to its stream, judged by its length, and merged: the first
usable copy of a number becomes USED or, where SRTP is used, PENDING until its tag is known, and is forwarded on the Direct Path;
a repeated one is counted; a frame that ended with an error enters no merge; a silent leg is declared lost. (The model's choices:
log 7, log 16.) -/
def Obligations.CopiesAreMatchedMergedAndJudged : Prop :=
  ∀ (t : Gts) (s : State),
    let a := s.advance t
    (∀ p : PortId,
      (npRole a p.val = 0 ∨ npRole a p.val = 3 → Idles (.rxParse t p) t s) ∧
      ∀ (net i : Nat) (b : List Byte) (it : Item) (a0 : State),
        net < 2 → npRole a p.val = net + 1 → qPopNow 4 (npFld a p.val 0x3C 6 0) a = (some it, a0) →
        a0.pending = a.pending → a0.gts = a.gts → a0.fuses = a.fuses →
        let f := parseFrame it.data
        let rtp := slice it.data (f.l4 + 8) (f.ipEnd - (f.l4 + 8))
        let payload := rtp.drop 12
        let seq := n16 rtp 2
        let c := rxCtl b
        let k := seq % 2048
        let r := a0.rx i
        let m := tget {} r.merge k
        let x : MergeRec := { st := 2, legs := 2 ^ net, leg := net, ts := n32 rtp 4, m := bit (byteAt rtp 1) 7, gts := a0.now,
                              first := sampleIndex (mediaSamples (a0.mediaOf a0.now) (rate96 c)) (n32 rtp 4) (rxTsOff b),
                              len := rtp.length, seq := seq }
        let good : Bool := !f.frag && (it.err || udpOk it.data f) && byteAt rtp 0 == 0x80 && byteAt rtp 1 % 128 == rxPt b && n32 rtp 8 == u32 b 8
          && decide (12 ≤ rtp.length)
        let copy : Copy :=
          { stream := i, leg := net, seq := seq, ts := n32 rtp 4, m := bit (byteAt rtp 1) 7, first := x.first, payload := payload,
            role := .first, gts := a0.now, len := rtp.length, mki := beNat (payload.drop (payload.length - mkiLen a0 b)), rtp := rtp }
        let forwarded (z : State) (e : Nat × List Byte) (g q : Nat) : Prop :=
          tget [] (z.port q).txq (byteAt e.2 3 % 8) = tget [] (a0.port q).txq (byteAt e.2 3 % 8) ++
            [{ bytes := directFrame a0 b e.2 rtp g q, tclass := byteAt e.2 3 % 8, dp := some e.1, key := some (i, seq) }]
        let only (z : State) : Prop := (∀ j, j ≠ i → z.rx j = a0.rx j) ∧ z = { a0 with se := z.se, ctrs := z.ctrs }
        (matchRx a0 net f.ipDst (n16 it.data (f.l4 + 2)) = none → 96 ≤ a0.rfld (baseSE + 4) 6 0 →
          exec (.rxParse t p) s = .next (a0.bump (baseSE + 0x200))) ∧
        (matchRx a0 net f.ipDst (n16 it.data (f.l4 + 2)) = some (i, b) →
          (good = false → exec (.rxParse t p) s = .next (a0.bump (baseSE + 0x204))) ∧
          (good = true → it.err = true → directOf a0 i = [] → exec (.rxParse t p) s = .next a0) ∧
          (good = true → it.err = false → r.redLostAt = 0 → r.blueLostAt = 0 →
            (lenOk a0 b payload.length = false → Does (.rxParse t p) s fun z =>
              Counted a0 z (rxCtr i net) 1 ∧ Counted a0 z (baseSE + 0x208) 1 ∧ (z.rx i).merge = r.merge ∧ only z) ∧
            (lenOk a0 b payload.length = true → fmtOf c ≠ 2 → r.waiting = [] →
              (a0.se.direct.any fun d => d.stream == i && d.seq == seq && d.leg != net) = false →
              a0.mediaOf a0.now < cutOffOf (playsIn b r x.first) →
                playsIn b r x.first ≤ currentEll (a0.mediaOf a0.now) + (jbMax b + ptimeElls c : Nat) →
              ((r.high.all fun h => decide (0 < sgn 16 (seq + 65536 - h))) = true →
               (rxSrtp b = false → directOf a0 i = [] → Does (.rxParse t p) s fun z =>
                tget {} (z.rx i).merge k = x ∧ (z.rx i).high = some seq ∧ (z.rx i).gotUsed = true ∧ (z.rx i).lastSeq = seq ∧
                (z.rx i).lastFirst = x.first ∧ Counted a0 z (rxCtr i net) 1 ∧ only z) ∧
               (rxSrtp b = true → directOf a0 i = [] → Does (.rxParse t p) s fun z =>
                tget {} (z.rx i).merge k = { x with st := 1 } ∧ (z.rx i).high = some seq ∧ (z.rx i).ring = r.ring ∧
                z.ce.inq = a0.ce.inq ++ [copy] ∧ Counted a0 z (rxCtr i net) 1 ∧ (∀ j, j ≠ i → z.rx j = a0.rx j) ∧
                z = { a0 with se := z.se, ce := z.ce, ctrs := z.ctrs }) ∧
               (∀ (e : Nat × List Byte) (g q : Nat), a0.mediaOn = true → directOf a0 i = [e] → g < 2 → byteAt e.2 2 = 2 ^ g →
                portOfRole a0 (g + 1) = some q → Does (.rxParse t p) s fun z =>
                  forwarded z e g q ∧ OnlyPort q a0 z ∧ Counted a0 z (rxCtr i net) 1)) ∧
              (r.high = some seq → m.st = 2 → bit m.legs net = true → Does (.rxParse t p) s fun z =>
                (∀ j, tget {} (z.rx i).merge j = tget {} r.merge j) ∧ (z.rx i).ring = r.ring ∧ Counted a0 z (rxCtr i net) 1 ∧
                Counted a0 z (baseSE + 0x210) 1 ∧ only z))))) ∧
    (∀ (i : BitVec 10) (seq : BitVec 16) (leg : Leg) (b : List Byte),
      let g := if leg = .red then 0 else 1
      let want (c : Copy) : Bool := c.stream == i.toNat && c.leg == g && c.seq == seq.toNat
      (takeFirst want a.ce.done = none → Idles (.tagResult t i leg seq) t s) ∧
      ∀ (cp : Copy) (rest : List Copy),
        let r := a.rx i.toNat
        let m := tget {} r.merge (seq.toNat % 2048)
        takeFirst want a.ce.done = some (cp, rest) → rxEntry a i.toNat = some b → cp.role ≠ .compare → fmtOf (rxCtl b) ≠ 2 →
        m.st = 1 → m.seq = seq.toNat → m.leg = g → r.waiting = [] → a.se.direct = [] → directOf a i.toNat = [] →
        (cp.ok = true → Does (.tagResult t i leg seq) s fun z =>
          tget {} (z.rx i.toNat).merge (seq.toNat % 2048) = { m with st := 2 } ∧ (z.rx i.toNat).gotUsed = true ∧
          (z.rx i.toNat).lastSeq = seq.toNat ∧
          (∀ e ∈ copyConts b cp, let h := tget {} (z.rx i.toNat).ring (ringKey b e.1 e.2.1)
            h.idx = e.2.1 → h.seq = cp.seq → bit h.w.toNat 7 = false) ∧ (∀ j, j ≠ i.toNat → z.rx j = a.rx j) ∧ z.ce.done = rest ∧
          z = { a with se := z.se, ce := z.ce }) ∧
        (cp.ok = false → Does (.tagResult t i leg seq) s fun z =>
          tget {} (z.rx i.toNat).merge (seq.toNat % 2048) = { m with st := 3 } ∧ (z.rx i.toNat).ring = r.ring ∧
          Counted a z (rxCtr i.toNat 5) 1 ∧ (r.authEll = a.ell + 1 → z.log = a.log) ∧
          (r.authEll ≠ a.ell + 1 → Logs a z 4 0x406 [i.toNat, g, seq.toNat]))) ∧
    (∀ (i : BitVec 10) (b : List Byte),
      let r := a.rx i.toNat
      let span := 8 * ptimeElls (rxCtl b) * 500000
      a.recNow tyRX i.toNat = some b →
      (r.redLostAt ≠ 0 → Idles (.legLost t i .red) t s) ∧ (r.blueLostAt ≠ 0 → Idles (.legLost t i .blue) t s) ∧
      (legExists a b 0 = true → legExists a b 1 = true →
        (r.redLostAt = 0 → r.redSeen + span ≤ a.now + 1 → r.blueSeen ≠ 0 → a.now < r.blueSeen + span →
          exec (.legLost t i .red) s = .next ((a.setRx i.toNat { r with redOk := false, redLostAt := a.now + 1, redRun := 0 }).raise
            4 0x403 [i.toNat, 0])) ∧
        (r.blueLostAt = 0 → r.blueSeen + span ≤ a.now + 1 → r.redSeen ≠ 0 → a.now < r.redSeen + span →
          exec (.legLost t i .blue) s = .next ((a.setRx i.toNat { r with blueOk := false, blueLostAt := a.now + 1, blueRun := 0 }).raise
            4 0x403 [i.toNat, 1]))))

/-- R102, R106, R111 to R113: at the end of a period a stream's target grows after a late copy and shrinks after calm periods; a
packet is built from the first whole group of data Ells, takes the next sequence number and the timestamp of its first sample;
without a key, or with both networks down, it is not sent and the sequence number stays. (The model's choices: log 7, log 16.) -/
def Obligations.DepthAdaptsAndPacketsAreBuilt : Prop :=
  ∀ (t : Gts) (i : BitVec 10) (b : List Byte) (s : State),
    let a := s.advance t
    (let r := a.rx i.toNat
     let y (r1 : RxStream) : RxStream :=
      { r1 with hminLast := if 0 < r.lateN then 0 else satN 32 (r.hmin.getD 0 / 500), concLast := satN 16 r.conc, conc := 0, hmin := none,
                worst := 0, lateN := 0, lateLogged := false, skewLogged := false, adaptEll := a.elapsed + 1 }
     let becomes (r1 : RxStream) : Prop := exec (.adaptPeriodEnd t i) s = .next (showStream i.toNat b (a.setRx i.toNat (y r1)))
     a.recNow tyRX i.toNat = some b →
     (a.elapsed % max 1 (a.rfld baseSE 15 0) ≠ 0 ∨ r.adaptEll = a.elapsed + 1 → Idles (.adaptPeriodEnd t i) t s) ∧
     (a.elapsed % max 1 (a.rfld baseSE 15 0) = 0 → r.adaptEll ≠ a.elapsed + 1 → r.ofs ≠ 0 →
      (bit (rxCtl b) 24 = false → becomes r) ∧
      (bit (rxCtl b) 24 = true →
        (0 < r.lateN → becomes { r with target := min (jbMax b) (r.ofs + 1 + cdiv r.worst 500000), calm := 0 }) ∧
        (r.lateN = 0 → shrinkHeld a b = true → becomes { r with calm := 0 }) ∧
        (r.lateN = 0 → shrinkHeld a b = false → r.hmin.getD 0 < 1000000 → becomes { r with calm := 0 }) ∧
        (r.lateN = 0 → shrinkHeld a b = false → 1000000 ≤ r.hmin.getD 0 → r.calm + 1 < a.rfld baseSE 19 16 →
          becomes { r with calm := r.calm + 1 }) ∧
        (r.lateN = 0 → shrinkHeld a b = false → 1000000 ≤ r.hmin.getD 0 → a.rfld baseSE 19 16 ≤ r.calm + 1 →
          becomes { r with target := max (jbMin b) (r.ofs - 1), calm := 0 })))) ∧
    (let x := a.tx i.toNat
     let c := rxCtl b
     let seq := if x.started then x.seq else u16 b 0x10
     a.recNow tyTX i.toNat = some b →
     (a.mediaOn = false → Idles (.packetBuild t i) t s) ∧
     (firstGroup (ptimeElls c) x.acc = none → Idles (.packetBuild t i) t s) ∧
     ∀ m ells rest, a.mediaOn = true → firstGroup (ptimeElls c) x.acc = some (m, ells, rest) → fmtOf c ≠ 2 →
      let conts := interleave (perEll c) ells
      let p : TxPkt := { stream := i.toNat, seq := seq, ts := (perEll c * m + u32 b 0xC) % 2 ^ 32,
                         payload := conts.flatMap fun w => wireSample (fmtOf c) w.toNat, conts := conts, ell := a.ell }
      let done : TxStream := { x with started := true, seq := (seq + 1) % 65536, acc := rest, reason := 0,
                                      svc := if conts.any (fun w => bit w.toNat 6) then 2 else if x.late then 1 else 0 }
      (txCeCtx b = 0xFFFF → portOfRole a 1 = none → portOfRole a 2 = none →
        exec (.packetBuild t i) s = .next ((a.setTx i.toNat done).bump (baseSE + 0x230))) ∧
      (∀ port q d, txCeCtx b = 0xFFFF → portOfRole a 1 = some port → portOfRole a 2 = none → bit c 27 = true →
        q = a.rfld (baseSE + 8) 6 0 → q < 96 → qDesc a q = some d → qProd d = 5 → qPfc d = false → netDown a 0 = false →
          qBusy (a.queue q) = false →
        (a.queue q).popStall = false → (a.queue q).coming = [] → (a.queue q).dropPend = false →
        qDepth d (a.queue q) < qSlots d → qOcc d (a.queue q) < qSlots d →
        Does (.packetBuild t i) s fun z =>
          z.tx i.toNat = done ∧ (z.queue q).w = ((a.queue q).w + 1) % qMod d ∧
          (let it := tget {} (z.queue q).slots ((a.queue q).w % qSlots d)
           it.src = 5 ∧ it.tclass = fld c 10 8 ∧
             it.data.drop (it.data.length - (12 + p.payload.length)) = rtpHeader b p ++ p.payload) ∧
          Counted a z (baseSE + 0x230) 1 ∧ OnlyQueue q a z ∧ z = { a with se := z.se, queues := z.queues, ctrs := z.ctrs }) ∧
      (txCeCtx b ≠ 0xFFFF →
        (txReady a (txCeCtx b) seq = true → bothDown a = false → exec (.packetBuild t i) s =
          .next ((a.setTx i.toNat done).updSe fun e => { e with txWait := e.txWait ++ [p] })) ∧
        (txReady a (txCeCtx b) seq = false → Does (.packetBuild t i) s fun z =>
          (z.tx i.toNat).svc = 3 ∧ (z.tx i.toNat).reason = 2 ∧ (z.tx i.toNat).seq = seq ∧ z.se.txWait = a.se.txWait ∧
          Counted a z (baseSE + 0x234) 1)) ∧
      (bothDown a = true → txCeCtx b = 0xFFFF ∨ txReady a (txCeCtx b) seq = true → exec (.packetBuild t i) s =
        .next ((a.setTx i.toNat { x with started := true, seq := seq, acc := rest, svc := 3, reason := 3 }).bump (baseSE + 0x234))))

/-! ### Ticks and block reports -/

/-- R18, R99, R100, R339: the cut-off counts a packet that has no usable copy; the playout gives a stream's Ell as it is held, and
silence with `c` where the stream does not play; both act once in an Ell and only where the audio pipeline runs. (The model's
choices: log 11, log 16.) -/
def Obligations.CutOffAndPlayoutGiveEachEllOnce : Prop :=
  ∀ (t : Gts) (i : Nat) (b : List Byte) (s : State),
    let a := s.advance t
    let r := a.rx i
    let c := rxCtl b
    (let n := a.aheadEll 540000
     let passed := { a with se := { a.se with cutEll := n + 1 } }
     (a.se.cutEll = n + 1 ∨ a.audioOn = false → Idles (.cutOff t) t s) ∧
     (a.se.cutEll ≠ n + 1 → a.audioOn = true →
      ∃ z, exec (.cutOff t) s = .next z ∧ z = { passed with ctrs := z.ctrs } ∧
        ∀ off, (∀ e ∈ recsOf (a.recsAt (a.aheadOld 540000)) tyRX, off ≠ rxCtr e.1 2) → z.ctr off = a.ctr off) ∧
     ∀ (s0 : Int) (q : Nat),
      a.se.cutEll ≠ n + 1 → a.audioOn = true → recsOf (a.recsAt (a.aheadOld 540000)) tyRX = [(i, b)] → (r.st = 2 ∨ r.st = 3) →
      expectedAt b r ((n : Int) - (offsetOf b r : Int)) = some (s0, q) →
      let m := tget {} r.merge (q % 2048)
      (m.seq = q → m.first = s0 → (m.st = 1 ∨ m.st = 2) → exec (.cutOff t) s = .next passed) ∧
      (¬ (m.seq = q ∧ m.first = s0 ∧ (m.st = 1 ∨ m.st = 2)) → exec (.cutOff t) s = .next (passed.bump (rxCtr i 2)))) ∧
    (let n := a.aheadEll 40000
     let played := { a with se := { a.se with playEll := n + 1 } }
     let stored (ch j : Nat) : Option Nat := heldAt b r ch (((n : Int) - (offsetOf b r : Int)) * 6 + (j : Int))
     (∀ bad, a.se.playEll = n + 1 → Idles (.playoutStart t bad) t s) ∧
     (∀ bad, a.se.playEll ≠ n + 1 → ∃ z, exec (.playoutStart t bad) s = .next z ∧ z.se.playEll = n + 1 ∧
      z.gts = a.gts ∧ z.pending = a.pending ∧ z.fuses = a.fuses) ∧
     (∀ bad, a.audioOn = false → a.se.playEll ≠ n + 1 → exec (.playoutStart t bad) s = .next played) ∧
     (∀ bad, a.audioOn = true → a.se.playEll ≠ n + 1 → a.tb.realign = none → a.cfg.deltaK = none →
      a.cfg.recs = [(recKey tyRX i, some b)] → i < 1024 → rxPlay b = true → rate96 c = false → rxFirst b + chOf c ≤ 4096 →
        fmtOf c ≠ 2 →
      (r.st = 0 ∨ r.st = 4 ∨ r.st = 5 → ∃ z, exec (.playoutStart t bad) s = .next z ∧
        (∀ ch j, ch < chOf c → j < 6 → z.ellGet n (rxFirst b + ch) j = flagC ∧ z.ellMark n (rxFirst b + ch) = 0) ∧
        (z.rx i).svc = 2 ∧ (z.rx i).st = r.st ∧ z.se.playEll = n + 1 ∧ z = { a with em := z.em, se := z.se }) ∧
      (r.st = 2 → r.gaps = [] → r.oPrev = offsetOf b r + 1 → r.heldElls = 0 →
        (∀ ch, ch < chOf c → ∀ j, j < 6 → ((stored ch j).any fun v => !bit v 6) = true) →
        ∃ z, exec (.playoutStart t bad) s = .next z ∧
          (∀ (ch j : Nat) (v : Nat), ch < chOf c → j < 6 → stored ch j = some v → z.ellGet n (rxFirst b + ch) j = v / 16 * 16) ∧
          (z.rx i).st = 2 ∧ (z.rx i).svc = 0 ∧ z.se.playEll = n + 1 ∧ z = { a with em := z.em, se := z.se })))

/-- R87, R339, R379, R383, R388: the tick at E_n acts once and not at all in Off, Standby and Lockdown; it writes the events of the
Ells that have ended into the log and counts what RS-FEC corrected; a junction at `t_trip` turns the device off; otherwise a
request that the mode allows acts. (The model's choices: log 7, log 11, log 15, log 27.) -/
def Obligations.TheEllTickLogsTripsAndChangesTheMode : Prop :=
  ∀ (t : Gts) (rep : EllReport) (s : State),
    let a := s.advance t
    (a.sup.tickEll = a.ell + 1 ∨ a.sup.mode = .off ∨ a.sup.mode = .standby ∨ a.sup.mode = .lockdown → Idles (.ellTick t rep) t s) ∧
    (a.sup.tickEll ≠ a.ell + 1 → stopped a.sup.mode = false → a.ha = { pace := a.ha.pace, noPace := a.ha.noPace } → a.cfg = {} →
      a.load = {} → a.tb.realign = none →
      a.tb.realignReq = false → a.sup.fwOk = false →
      (∀ (x : Int) (l : List Int), rep.temps = x :: l → a.log.fresh = [] → (tTrip a : Int) ≤ (x :: l).foldl max x →
        Does (.ellTick t rep) s fun z =>
          z.sup.mode = .off ∧ z.sup.tripped = true ∧ z.pwrEn = false ∧ z.ce = {} ∧
          { gts := a.now, source := 15, code := 0xF68,
            d := [(x :: l).findIdx (· == (x :: l).foldl max x), wrap 8 ((x :: l).foldl max x)] } ∈ z.log.fresh) ∧
      (rep.temps = [] → a.sup.tj < tTrip a → a.audioOn = false → a.host = {} →
        (∀ e, a.log.fresh = [e] → e.gts < a.startOf a.ell → logUnread a.log < 1023 → logUnread a.log + 1 ≠ logWm a →
          a.sup.reqs = [] →
          Does (.ellTick t rep) s fun z =>
            z.log = { a.log with fresh := [], entries := tset {} a.log.entries a.log.wr { ev := e, seq := a.log.seq },
                                 wr := (a.log.wr + 1) % 1024, seq := (a.log.seq + 1) % 2 ^ 32 } ∧
            z.sup.tickEll = a.ell + 1 ∧ z = { a with log := z.log, sup := z.sup, ctrs := z.ctrs, ha := z.ha } ∧
            z.ha = { a.ha with pace := z.ha.pace, noPace := z.ha.noPace } ∧
            (∀ p c u, rep.fec = [(p, c, u)] → Counted a z (baseNP p.val + 0x248) c ∧ Counted a z (baseNP p.val + 0x24C) u) ∧
            (rep.fec = [] → z.ctrs = a.ctrs)) ∧
        (∀ q, a.sup.reqs = [q] → a.log.fresh = [] → reqValid a q = true → a.trust.level = 0 → a.sup.fwOk = false →
          (q.rank = 63 → Does (.ellTick t rep) s fun z =>
            z.sup.mode = .test ∧ z.sup.prev = a.sup.mode ∧ z.sup.reqs = [] ∧
            { gts := a.now, source := 15, code := 0xF80, d := [a.sup.mode.code, Mode.test.code, 63] } ∈ z.log.fresh) ∧
          (q.rank = 90 → q.goTo = .configure → Does (.ellTick t rep) s fun z =>
            z.sup.mode = .configure ∧ z.sup.prev = a.sup.mode ∧ z.sup.reqs = [] ∧
            { gts := a.now, source := 15, code := 0xF80, d := [a.sup.mode.code, Mode.configure.code, 90] } ∈ z.log.fresh))))

/-- R272, R277, R278: a Mix Fabric bus forms, for each sample, the exact sum of its sources times their gains, rounded to nearest and
saturated to 24 bits; the data Ell that the Ell before the tick completed is the one formed. (The model's choices: log 34.) -/
def Obligations.AMixBusIsTheSaturatedSumOfItsSources : Prop :=
  ∀ (t : Gts) (bus : Nat) (b : List Byte) (s : State),
    let a := s.advance t
    let n := a.ell
    let d := n - 1
    let out (j : Nat) : Int := ((buRoutes b).map fun r => cVal (a.ellGet d r.1 j) * (a.xp r.2).g1).sum
    a.sup.tickEll ≠ n + 1 → a.sup.mode = .service → a.sup.fwOk = false → a.ha = { pace := a.ha.pace, noPace := a.ha.noPace } →
      a.load = {} → a.cfg.deltaK = none →
    a.tb.realign = none → a.tb.realignReq = false → a.log.fresh = [] → a.sup.reqs = [] → shelter a = false → a.host = {} →
    a.sup.tj < tTrip a → a.sup.delays = [] → a.cfg.recs = [(recKey tyBUS bus, some b)] → bus < 4096 → 0 < n →
    a.mf.pend = none → a.mf.gone = [] → buMinus b = false → buOut b = 0xFFFF →
    (∀ r ∈ buRoutes b, (a.xp r.2).ramp = none ∧ r.1 < 8192) →
    Does (.ellTick t {}) s fun z =>
      (∀ j, j < 6 → cVal (z.ellGet d (8192 + bus) j) = nearest (-(2 ^ 23)) (2 ^ 23 - 1) (rneDiv (out j) (2 ^ 21))) ∧
      z.ellMark d (8192 + bus) = 0 ∧
      (∀ slot j, slot ≠ 8192 + bus → slot < 16384 → j < 8 → z.ellGet d slot j = a.ellGet d slot j)

/-- R149, R152, R275, R281, R284, R286, R287: the completion reports of the Rate Chain and the Mix Fabric; an instance's reset; SWAP,
FORCE and CANCEL; a write of a coefficient bank that is inactive and unclaimed is stored under its bits, any other is counted.
(The model's choices: log 33, log 34.) -/
def Obligations.BlockReportsAndCoefficientBanks : Prop :=
  ∀ (t : Gts) (m : Master) (s : State),
    let a := s.advance t
    let g := begun m a
    (∀ hc : BitVec 32,
      let n := hc.toNat
      (a.audioOn = false → Idles (.rateChainComplete t hc) t s ∧ Idles (.mixComplete t hc) t s) ∧
      (a.audioOn = true →
        (a.rc.doneEll ≠ a.ell + 1 →
          let b : State := { a with rc := { a.rc with doneEll := a.ell + 1, hcLast := satN 16 n, late := decide (12500 < n) },
                                    sup := { a.sup with rcExcess := n - 12500 } }
          (n ≤ 12500 → exec (.rateChainComplete t hc) s = .next b) ∧
          (12500 < n → exec (.rateChainComplete t hc) s = .next ((b.bump (baseRC + 0x214)).raise 9 0x906 [n]))) ∧
        (a.mf.doneEll ≠ a.ell + 1 →
          let b : State := { a with mf := { a.mf with doneEll := a.ell + 1, hcLast := satN 16 n, late := decide (15000 < n) },
                                    sup := { a.sup with mfExcess := n - 15000 } }
          (n ≤ 15000 → exec (.mixComplete t hc) s = .next b) ∧
          (15000 < n → exec (.mixComplete t hc) s = .next ((b.bump (baseMF + 0x218)).raise 11 0xB05 [n]))))) ∧
    (allows m baseRC true a = true → ∀ i : BitVec 8, g.recNow tyRATE i.toNat ≠ none →
      exec (.rcReset t m i) s = .next (g.setRate i.toNat { g.rate i.toNat with pend := some 2 })) ∧
    (allows m baseMF true a = true →
      let asked (forced : Bool) : State := { g with mf := { g.mf with pend := some (forced, g.ell), deferred := false, result := 0 } }
      let busy : State := { g with mf := { g.mf with result := 1 } }
      (g.mf.pend = none → exec (.swap t m) s = .next (asked false)) ∧
      (g.mf.pend ≠ none → exec (.swap t m) s = .next busy) ∧
      ((∀ n, g.mf.pend ≠ some (true, n)) → exec (.force t m) s = .next (unblock (asked true))) ∧
      (∀ n, g.mf.pend = some (true, n) → exec (.force t m) s = .next busy) ∧
      (g.mf.pend = none → exec (.cancel t m) s = .next { g with mf := { g.mf with result := 2 } }) ∧
      (∀ f n, g.mf.pend = some (f, n) → exec (.cancel t m) s =
        .next ((unblock { g with mf := { g.mf with pend := none, deferred := false, result := 0 } }).raise 11 0xB06 [n % 2 ^ 32]))) ∧
    (∀ (off : Off) (w : Word),
      let o := off.toNat
      let bank := (o - 0x600000) / 0x100000
      let k := (o - 0x600000) % 0x100000 / 4
      allows m o true a = true → 0x600000 ≤ o → o < 0x800000 →
      (bank = g.mf.active ∨ g.mf.pend ≠ none → exec (.coefWrite t m off [w]) s = .next (g.bump (baseMF + 0x21C))) ∧
      (bank ≠ g.mf.active → g.mf.pend = none → Does (.coefWrite t m off [w]) s fun b =>
        coefWord b bank (k / 2) (k % 2) = (if k % 2 = 0 then w &&& 0xFFFFFF00 else w &&& 0x80000FFF).toNat ∧
        (∀ bank' x i, i < 2 → x < 2 ^ 17 → (bank' ≠ bank ∨ 2 * x + i ≠ k) → coefWord b bank' x i = coefWord g bank' x i) ∧
        b.mf.lost.contains (bank * 2 ^ 17 + k / 2) = false ∧
        b = { g with mf := { g.mf with coef := b.mf.coef, lost := b.mf.lost } }))

/-! ### The holm array -/

/-- R169, R173, R174, R182: a dispatched attempt starts at `entry` with P0 and B0 at `state_base`, `rnd` as the DEVICE record sets it,
every other register zero and every residue and parity matching; a re-run starts from the same state, on the core that it was
granted. (The model's choices: log 31.) -/
def Obligations.TasksStartInTheStateOfTheContract : Prop :=
  ∀ (t : Gts) (k : BitVec 12) (s : State),
    let a := s.advance t
    let x := a.task k.toNat
    let b := instBody a k.toNat
    let h := tkHolm b
    let starts (att i : Nat) (z : State) : Prop :=
      let c := z.core i
      let r := c.regs
      r.pc = BitVec.ofNat 17 (tkEntry b) ∧ r.p[0] = BitVec.ofNat 22 (tkBase b) ∧ r.b[0] = BitVec.ofNat 22 (tkBase b) ∧
      (∀ j : Fin 8, j ≠ 0 → r.p[j] = 0 ∧ r.b[j] = 0) ∧ (∀ j : Fin 8, r.l[j] = 0 ∧ r.m[j] = 0 ∧ r.d[j].v = 0 ∧ r.d[j].tag = 0) ∧
      (∀ j : Fin 4, r.a[j].v = 0 ∧ r.a[j].tag = 0) ∧ r.lc = 0 ∧ r.sf = false ∧ r.cr = false ∧
      (∀ codes, readsGood r codes = true) ∧
      r.rnd = rndOf (a.recsAt x.data) (tkOwner b) ∧
      c.st = 1 ∧ c.inst = k.toNat ∧ c.attempt = att ∧ c.data = x.data ∧ c.disp = a.now ∧ c.buf = [] ∧ c.stageDl = x.stageEnd ∧
      c.slotDl = (if att = 2 then x.stageEnd else
        let g := tget 0 a.ha.pace h
        a.now + if g = 0 ∨ 4096 ≤ g then 4 * runCharge b else cdiv (4 * runCharge b * 4096) g) ∧
      z.task k.toNat = { x with attempt := att, lastCore := i, next := none, run := some i } ∧
      (∀ j, j ≠ i → z.core j = a.core j) ∧ (∀ j, j ≠ k.toNat → z.task j = a.task j) ∧
      z.ha.mem = a.ha.mem ∧ z.em = a.em ∧ Counted a z (haCtr (i / 5) 0x200) 1
    a.audioOn = true → x.live = true → x.fin = false → x.run = none →
    (∀ i, x.next = none → mayDispatch a k.toNat = true → placeOf a (tkOwner b) = some (0, i) → (a.core i).st = 0 →
      servedBy a i = none →
      Does (.taskDispatch t k) s (starts 0 i)) ∧
    (∀ i, x.next = none → mayDispatch a k.toNat = true → placeOf a (tkOwner b) = some (0, i) →
      (a.core i).st ≠ 0 ∨ (servedBy a i).isSome = true → Idles (.taskDispatch t k) t s) ∧
    (x.next = none → mayDispatch a k.toNat = false → Idles (.taskDispatch t k) t s) ∧
    (∀ i, x.next = some (1, i) → (a.core i).st = 0 → Does (.taskDispatch t k) s fun z => starts 1 i z ∧
      Counted a z (haCtr h 0x20C) 1) ∧
    (∀ i, x.next = some (2, i) → (a.core i).st = 0 → Does (.taskDispatch t k) s fun z =>
      starts 2 i z ∧ Counted a z (haCtr h 0x210) 1 ∧ Logs a z (112 + h) ((0x70 + h) * 256 + 2) [k.toNat, i / 5])

/-- R175, R180, R182 to R184: an attempt that misses its slot deadline passes to the standby core; an instance at its stage deadline
is abandoned and its slots fade; a load's re-read decides between the attempt and the stored word. (The model's choices: log 7,
log 31.) -/
def Obligations.MissedDeadlinesAndBadWordsFailTheAttempt : Prop :=
  ∀ (t : Gts) (i : CoreId) (s : State),
    let a := s.advance t
    let c := a.core i.val
    let k := c.inst
    let x := a.task k
    let h := tkHolm (instBody a k)
    let fault (cause : Nat) : Ev :=
      { gts := a.now, source := 32 + i.val, code := (0x70 + h) * 256 + 1, d := [k % 4096, 32 + i.val, cause, c.attempt] }
    let stopped (cause : Nat) (z : State) : Prop :=
      (z.core i.val).st = 0 ∧ (z.core i.val).buf = [] ∧ (∀ j, j ≠ i.val → z.core j = a.core j) ∧ fault cause ∈ z.log.fresh ∧
      Counted a z (haCtr h 0x208) 1 ∧ z.ha.mem = a.ha.mem
    let goesTo (cause : Nat) (z : State) : Prop :=
      z.task k = { x with cause := if x.cause = 0 then cause else x.cause, faults := x.faults + 1, run := none, passed := true,
                          next := some (1, 5 * h + 4), granted := (5 * h + 4) :: x.granted, req := (a.now, 32 + i.val) }
    let standby : Prop := standbyFree a h = true ∧ outranked a (32 + i.val) (5 * h + 4) = none
    let final (z : State) : Prop :=
      (z.task k).fin = true ∧ (z.tstat k).faults = satN 16 ((a.tstat k).faults + (x.faults + 1))
    let faded (n slot : Nat) (z : State) : Prop :=
      (∀ j, j < 6 → z.ellGet n slot j = mkC ((cVal (a.holdOf slot) * (5 - (j : Int))).tdiv 6)
        (flagC ||| (cFlags (a.holdOf slot) &&& (flagS ||| flagT)))) ∧ z.ellMark n slot = 1 ∧ z.holdOf slot = 0
    ((c.st = 0 ∨ c.stageDl ≤ c.slotDl ∨ a.now < c.slotDl → Idles (.slotDeadline t i) t s) ∧
     (c.st ≠ 0 → c.slotDl < c.stageDl → c.slotDl ≤ a.now → c.attempt = 0 → i.val % 5 ≠ 4 → x.fin = false → standby →
      Does (.slotDeadline t i) s fun z => stopped 5 z ∧ z.em = a.em ∧ goesTo 5 z)) ∧
    (∀ slot, a.ha.cores = [(i.val, c)] → a.ha.insts = [(k, x)] → c.st ≠ 0 → c.stageDl ≤ a.now → x.stageEnd ≤ a.now → k < 4096 →
      x.live = true → x.fin = false → x.cause = 0 → writeSlots (a.recsAt x.data) k = [slot] →
      Does (.stageDeadline t) s fun z =>
        stopped 10 z ∧ faded x.data slot z ∧ final z ∧ (z.tstat k).svc = 2 ∧ (z.tstat k).cause = 10 ∧
        (z.tstat k).concealed = satN 16 ((a.tstat k).concealed + 1) ∧ Counted a z (haCtr h 0x218) 1 ∧
        { gts := a.now, source := 112 + h, code := (0x70 + h) * 256 + 3, d := [k, x.data % 2 ^ 32] } ∈ z.log.fresh) ∧
    (a.ha.cores = [] → a.ha.insts = [] → Idles (.stageDeadline t) t s) ∧
    (∀ clean, c.ecc = none → Idles (.eccRetry t i clean) t s) ∧
    (∀ w, c.ecc = some w → 0x200000 ≤ w →
      exec (.eccRetry t i true) s = .next ((a.setCore i.val { c with ecc := none }).bump (baseSV + 0x710))) ∧
    (∀ w, c.ecc = some w → w < 0x200000 → c.st ≠ 0 → c.attempt = 0 → i.val % 5 ≠ 4 → x.fin = false → k < 4096 →
      (standby → tget [] a.sup.faultElls (32 + i.val) = [] → Does (.eccRetry t i true) s fun z =>
        stopped 2 z ∧ Counted a z (haCtr h 0x224) 1 ∧ goesTo 2 z) ∧
      (∀ u slot, regionOf a h w = some u → u = k → x.live = true → x.cause = 0 → writeSlots (a.recsAt x.data) k = [slot] →
        Does (.eccRetry t i false) s fun z =>
          stopped 3 z ∧ faded x.data slot z ∧ final z ∧ (z.task k).cause = 3 ∧ (z.tstat k).zero = a.ell + 2 ∧
          { gts := a.now, source := 112 + h, code := (0x70 + h) * 256 + 4, d := [k, w] } ∈ z.log.fresh ∧
            Counted a z (haCtr h 0x21C) 1))

/-- R171, R179, R180, R184, R249, R251, R254, R258, R260, R263, R267, R268, R376: a commit writes every stored word and every slot of
the write list at once, and nothing else; a library task's commit writes what its function leaves: a G.711 encoder the octet of
its channel in its coded slot and its status words, a bypassed echo canceller its near end; an uncorrectable buffer entry, a
deadline that has come and a write pass that cannot end in time fail the attempt with nothing written; the zeroing of a lost state
region clears it and no other word; a delayed instance starts on the standby core in the second half of its Ell. (The model's
choices: log 7, log 31, log 37.) -/
def Obligations.CommitsWriteEveryStoreAtOnce : Prop :=
  ∀ (t : Gts) (i : CoreId) (task : BitVec 12) (s : State),
    let a := s.advance t
    let c := a.core i.val
    let k := c.inst
    let x := a.task k
    let h := tkHolm (instBody a k)
    let fails (cause : Nat) (z : State) : Prop :=
      z.ha.mem = a.ha.mem ∧ z.em = a.em ∧ (z.core i.val).st = 0 ∧ (z.core i.val).buf = [] ∧ (z.task k).next = some (1, 5 * h + 4) ∧
      (z.task k).fin = false ∧
      { gts := a.now, source := 32 + i.val, code := (0x70 + h) * 256 + 1, d := [k, 32 + i.val, cause, 0] } ∈ z.log.fresh
    (c.st ≠ 2 → ∀ pass, Idles (.taskCommit t i pass) t s) ∧
    (c.st = 2 → k < 4096 →
      (∀ (slot : Nat) (start : Gts), a.now < c.slotDl → a.now < c.stageDl →
        start.toNat + 4 * (cdiv (tkFoot (instBody a k)) 64 + 64) < min c.slotDl c.stageDl →
        bit (tkFlags (instBody a k)) 2 = false → a.sup.delays = [] → (c.buf.map Prod.fst).Nodup → h < 16 →
        writeSlots (a.recsAt x.data) k = [slot] → c.data = x.data → Does (.taskCommit t i ⟨false, start⟩) s fun z =>
        (∀ w, w < 0x180000 → memWord z h w =
          match tget none c.buf w with | some v => v.toNat | none => memWord a h w) ∧
        (∀ h' w, h' ≠ h → w < 2 ^ 21 → memWord z h' w = memWord a h' w) ∧
        (∀ j, j < 6 → z.ellGet x.data slot j = ((tget none c.buf (slotAddr slot j)).getD 0).toNat / 16 * 16) ∧
        z.ellMark x.data slot = 0 ∧ z.holdOf slot = ((tget none c.buf (slotAddr slot 5)).getD 0).toNat ∧
        (∀ slot' n j, slot' ≠ slot → slot < 16384 → slot' < 16384 → j < 8 → z.ellGet n slot' j = a.ellGet n slot' j) ∧
        (z.core i.val).st = 0 ∧ (z.core i.val).buf = [] ∧ (∀ j, j ≠ i.val → z.core j = a.core j) ∧
        (z.task k).fin = true ∧ (z.tstat k).svc = 0 ∧ (z.tstat k).ell = x.data % 2 ^ 32 ∧
          (z.tstat k).last = max (a.tstat k).last (x.data + 1) ∧
        (z.tstat k).lost = false ∧ Counted a z (haCtr h 0x204) 1 ∧ z.log = a.log) ∧
      (∀ (slot : Nat) (start : Gts),
        let b := instBody a k
        let base := tkBase b
        let par := libWord a c
        let n := c.data
        let f := par 2
        let pos := framePos f (par 3) n
        let e := tget {} a.ha.lib.enc (32 * k)
        let ack := tget {} a.ha.lib.tasks k
        let vs := (libRead a c (par 64)).map cVal
        let word (z : State) (off v : Nat) : Prop := memWord z h (base + off) = v % 2 ^ 24 * 256
        let kept (z : State) : Prop :=
          (∀ w, w < 0x180000 → (w < base + 16 ∨ base + 96 ≤ w) → memWord z h w = memWord a h w) ∧
          (∀ h' w, h' ≠ h → w < 2 ^ 21 → memWord z h' w = memWord a h' w) ∧
          (∀ slot' d j, slot' ≠ slot → slot' < 16384 → j < 8 → z.ellGet d slot' j = a.ellGet d slot' j) ∧
          (z.core i.val).st = 0 ∧ (z.task k).fin = true ∧ (z.tstat k).svc = 0 ∧ z.log = a.log
        a.now < c.slotDl → a.now < c.stageDl → start.toNat + 4 * (cdiv (tkFoot b) 64 + 64) < min c.slotDl c.stageDl →
        bit (tkFlags b) 2 = true → a.sup.delays = [] → c.buf = [] → c.entryW % 4 = 0 → c.gap ≤ 1 → h < 16 →
        writeSlots (a.recsAt x.data) k = [slot] → slot < 16384 → x.data = n → par 4 = 0xFFFFFF → base + 96 ≤ 0x180000 →
        (fld (par 0) 23 16 = 0x10 → par 1 = 1 → 0 < f → par 65 = slot → par 66 = 1 → (pos = 0 → 1 ≤ e.wins) →
          (pos ≠ 0 → e.out.lost = false) → Does (.taskCommit t i ⟨false, start⟩) s fun z =>
          kept z ∧
          z.ellGet n slot 0 = (2 * 2 ^ 20 + (if pos = 0 then 2 ^ 19 + n % 2 ^ 48 / f % 4096 else 0) +
            (if pos + 1 = f then 2 ^ 16 else 0) + 2 ^ 12) * 256 ∧
          z.ellGet n slot 1 = (lawEncode true (Config.voiceDown 0x10 ((vs.reverse ++ e.hist).take 192) 0)).toNat * 2 ^ 24 ∧
          (∀ j, 2 ≤ j → j < 6 → z.ellGet n slot j = 0) ∧
          word z 16 n ∧ word z 17 ack.cold ∧ word z 18 (prmAck ack) ∧ word z 81 (e.stat.frames + if pos = 0 then 1 else 0)) ∧
        (fld (par 0) 23 16 = 1 → par 3 = slot → par 11 ≠ 2 → par 12 = 1 → Does (.taskCommit t i ⟨false, start⟩) s fun z =>
          kept z ∧ (∀ j, j < 6 → z.ellGet n slot j = (libRead a c (par 1)).getD j 0 / 16 * 16) ∧
          bit (memWord z h (base + 16)) 8 = true ∧ word z 24 (prmAck ack) ∧ word z 25 n ∧ word z 26 ack.cold)) ∧
      (c.attempt = 0 → i.val % 5 ≠ 4 → x.fin = false → standbyFree a h = true → outranked a (32 + i.val) (5 * h + 4) = none →
        ∀ start : Gts,
        Does (.taskCommit t i ⟨true, start⟩) s (fails 2) ∧
        (c.slotDl < c.stageDl → c.slotDl ≤ start.toNat + 4 * (cdiv (tkFoot (instBody a k)) 64 + 64) → start.toNat < c.stageDl →
          Does (.taskCommit t i ⟨false, start⟩) s (fails 5)))) ∧
    (∀ b, a.recAt a.ell tyTASK task.toNat = some b →
      let y := a.tstat task.toNat
      let base := tkBase b
      (y.zero = 0 ∨ a.ell + 1 < y.zero → Idles (.stateZeroingDone t task) t s) ∧
      (y.zero ≠ 0 → y.zero ≤ a.ell + 1 → base + tkLen b ≤ 2 ^ 21 → Does (.stateZeroingDone t task) s fun z =>
        (∀ w, base ≤ w → w < base + tkLen b → memWord z (tkHolm b) w = 0) ∧
        (∀ h' w, w < 2 ^ 21 → (h' ≠ tkHolm b ∨ w < base ∨ base + tkLen b ≤ w) → memWord z h' w = memWord a h' w) ∧
        z.tstat task.toNat = { y with zero := 0, lost := true } ∧ (∀ j, j ≠ task.toNat → z.tstat j = a.tstat j))) ∧
    (let d := 4096 + task.toNat
     let y := a.task d
     let b := instBody a d
     let sb := 5 * tkHolm b + 4
     (y.live = false ∨ y.fin = true → Idles (.delayedDispatch t task) t s) ∧
     (a.audioOn = true → y.live = true → y.fin = false → y.run = none → y.next = none → a.ell = y.inEll →
       standbyFree a (tkHolm b) = true →
      (a.now < a.startOf y.inEll + 250000 → Idles (.delayedDispatch t task) t s) ∧
      (a.startOf y.inEll + 250000 ≤ a.now → Does (.delayedDispatch t task) s fun z =>
        let r := z.core sb
        r.st = 1 ∧ r.inst = d ∧ r.attempt = 1 ∧ r.data = y.data ∧ r.regs.pc = BitVec.ofNat 17 (tkEntry b) ∧ bit r.entryW 4 = true ∧
        z.task d = { y with attempt := 1, lastCore := sb, run := some sb, granted := sb :: y.granted } ∧ (∀ j, j ≠ sb →
          z.core j = a.core j))))

/-! ### Kaend configurations -/

/-- R55, R57, R59, R64: each operation of SV_CFG_CTRL is accepted in its states and from its master, and is refused with its code
otherwise, changing nothing but `result`; a COMMIT schedules the delta for its Ell; an ABORT discards the load. (The model's
choices: log 28.) -/
def Obligations.LoadOperationsFollowTheirTable : Prop :=
  ∀ (t : Gts) (m : Master) (s : State),
    let a := s.advance t
    let g := begun m a
    let l := a.load
    let busy := l.st = 1 ∨ l.st = 2
    let refused (c : Instr) (code : Nat) : Prop := exec c s = .next { g with load := { l with result := code } }
    allows m (baseSV + 0x400) true a = true →
    ((l.st = 0 ∨ l.st = 6 → exec (.beginLoad t m) s = .next { g with load := { st := 7, owner := m } }) ∧
     (l.st ≠ 0 → l.st ≠ 6 → refused (.beginLoad t m) 0x10)) ∧
    (let n := a.rfld (baseSV + 0x404) 20 0
     (l.st = 7 → l.owner = m → 1 ≤ n → n ≤ 1048576 → exec (.push t m) s =
       .next { g with load := { l with st := 1, result := 0, record := 0, piece := stagingBytes a n } }) ∧
     (l.st = 7 → l.owner = m → n = 0 ∨ 1048576 < n → refused (.push t m) 0x15)) ∧
    (l.st = 7 → l.owner = m → exec (.finishLoad t m) s = .next { g with load := { l with st := 2, result := 0, record := 0 } }) ∧
    (l.st = 3 → l.owner = m → a.tb.realign = none → a.sup.mode = .service → a.trust.level = 0 →
      Does (.commit t m) s fun z =>
        z.load = { l with st := 4, result := 0, record := 0, k := targetEll a a.ell, wait := false, prevMode := .service } ∧
        z.sup.mode = .reconfigure ∧ z.cfg = a.cfg ∧ a.ell + 8 ≤ z.load.k) ∧
    (∀ c ∈ [Instr.push t m, .finishLoad t m, .commit t m],
      (l.st = 0 ∨ l.st = 6 → refused c 0x14) ∧ (l.st ≠ 0 → l.st ≠ 6 → l.owner ≠ m → refused c 0x13)) ∧
    (l.owner = m →
      (busy → refused (.push t m) 0x10 ∧ refused (.finishLoad t m) 0x10 ∧ refused (.commit t m) 0x14) ∧
      (l.st = 3 ∨ l.st = 4 ∨ l.st = 5 → refused (.push t m) 0x14 ∧ refused (.finishLoad t m) 0x14) ∧
      (l.st = 4 ∨ l.st = 5 ∨ l.st = 7 → refused (.commit t m) 0x14)) ∧
    (l.st = 0 ∨ l.st = 6 → refused (.abort t m) 0x14) ∧ (l.st = 5 → refused (.abort t m) 0x12) ∧
    (l.st = 4 → l.wait = false → a.tb.realign = none → l.k ≤ a.ell + 2 → refused (.abort t m) 0x12) ∧
    (busy ∨ l.st = 3 ∨ l.st = 7 → exec (.abort t m) s = .next { g with load := { owner := l.owner } }) ∧
    (l.st = 4 → l.wait = false → a.tb.realign = none → a.ell + 2 < l.k → a.sup.mode = .reconfigure → l.prevMode = .service →
      a.trust.level = 0 → Does (.abort t m) s fun z =>
        z.load = { owner := l.owner } ∧ z.sup.mode = .service ∧ z.cfg = a.cfg ∧ z.sup.reqs = a.sup.reqs ++ a.sup.held ∧
          z.sup.held = [])

/-- R47, R56, R58, R463: a bitstream that fails a check, as a piece is taken or at the end of verification, is discarded whole: the
running structure, the counters and the samples stay, and the rejection is logged with its code and record; one whose signature
alone does not verify is rejected SIGNATURE. (The model's choices: log 5, log 28.) -/
def Obligations.RejectedBitstreamsLeaveEverythingUntouched : Prop :=
  ∀ (t : Gts) (s : State),
    let a := s.advance t
    let l := a.load
    let rejects (c : Instr) (code record : Nat) : Prop := Does c s fun z =>
      z.load = { owner := l.owner, st := 6, result := code, record := record } ∧ Logs a z 15 0xF21 [code, record] ∧
      z = { a with load := z.load, log := z.log, regs := z.regs, msix := z.msix } ∧
      (∀ off, off ≠ baseSV + 0x104 → z.reg off = a.reg off) ∧ z.log.entries = a.log.entries ∧
      z.cfg = a.cfg ∧ z.ctrs = a.ctrs ∧ z.em = a.em ∧ z.ha = a.ha ∧ z.queues = a.queues
    (∀ l' e, l.st = 1 → takeBytes a l.piece l = (l', some e) → rejects (.pieceTaken t) e.1 e.2) ∧
    (∀ e, l.st = 2 → (∀ ok, verify a l ok = .error e) → rejects (.verifyDone t (sigVerdict l)) e.1 e.2) ∧
    (∀ r, l.st = 2 → verify a l true = .ok r → sigVerdict l = true ∨ rejects (.verifyDone t false) rcSIGNATURE 0xFFFFF)

/-- R47, R50, R54, R55, R57 to R59: a piece that passes leaves the load OPEN; a full bitstream that verifies commits at once, locks
RWL and asks for Calibrate; a delta that verifies is READY, is built beside the running structure at E_{k-2}, and replaces it at
E_{k+2}. (The model's choices: log 5, log 12, log 28.) -/
def Obligations.AcceptedBitstreamsCommit : Prop :=
  ∀ (t : Gts) (s : State),
    let a := s.advance t
    let l := a.load
    (l.st ≠ 1 → Idles (.pieceTaken t) t s) ∧
    (∀ l', l.st = 1 → takeBytes a l.piece l = (l', none) →
      exec (.pieceTaken t) s = .next { a with load := { l' with st := 7, piece := [] } }) ∧
    (∀ ok, l.st ≠ 2 ∨ ok ≠ sigVerdict l → Idles (.verifyDone t ok) t s) ∧
    (∀ r d, l.st = 2 → l.hdr.delta = true → verify a l true = .ok (r, d) → ∃ z, exec (.verifyDone t (sigVerdict l)) s = .next z ∧
      if sigVerdict l then z = { a with load := { l with st := 3, result := 0, record := 0, digest := d, bytes := [] } }
      else z.load = { owner := l.owner, st := 6, result := rcSIGNATURE, record := 0xFFFFF } ∧ z.cfg = a.cfg) ∧
    (∀ r d, l.st = 2 → l.hdr.delta = false → verify a l true = .ok (r, d) → ∃ z, exec (.verifyDone t (sigVerdict l)) s = .next z ∧
      if sigVerdict l = false then z.load = { owner := l.owner, st := 6, result := rcSIGNATURE, record := 0xFFFFF } ∧
        z.cfg = a.cfg else
      z.cfg.built = true ∧ z.cfg.recs = r ∧ z.cfg.hdr = l.hdr ∧ z.cfg.measurement = d ∧ z.cfg.deltaK = none ∧
      z.cfg.commitEll = (a.ell + 1) % 2 ^ 32 ∧ z.load = { owner := l.owner } ∧ z.sup.rwlLocked = true ∧
      { rank := 90, goTo := .calibrate, cause := 90, host := false } ∈ z.sup.reqs ∧
      { gts := a.now, source := 15, code := 0xF20,
        d := [l.hdr.configId % 2 ^ 32, l.hdr.configId / 2 ^ 32, (a.ell + 1) % 2 ^ 32] } ∈ z.log.fresh ∧ z.fuses = a.fuses ∧
          z.ctrs = a.ctrs) ∧
    (∀ x y gx gy,
      (a.sup.mode ≠ .configure ∨ a.sup.noFlash = true ∨ a.cfg.built = true ∨ loading l = true →
        Idles (.flashLoad t x y gx gy) t s) ∧
      (∀ l' r d, a.sup.mode = .configure → a.sup.noFlash = false → a.cfg.built = false → l.st = 0 →
        takeBytes a (x ++ gx) { st := 2, owner := .supervisor, fromFlash := true } = (l', none) → l'.hdr.delta = false →
        verify { a with load := l' } l' true = .ok (r, d) → ∃ z, exec (.flashLoad t x y gx gy) s = .next z ∧ (sigVerdict l' = true →
          z.cfg.built = true ∧ z.cfg.recs = r ∧ z.cfg.hdr = l'.hdr ∧ z.load = { owner := l'.owner } ∧ z.sup.rwlLocked = true))) ∧
    (deltaDue a = false → Idles (.deltaApply t) t s) ∧
    (deltaDue a = true → a.tb.realign = none → Does (.deltaApply t) s fun z =>
      z.load = { l with st := 5 } ∧ z.cfg.next = resultOfLoad a l ∧ z.cfg.deltaK = some l.k ∧ z.cfg.recs = a.cfg.recs ∧
        z.log = a.log) ∧
    (l.st ≠ 5 ∨ deltaNow a < l.k + 2 → Idles (.deltaCommit t) t s) ∧
    (l.st = 5 → l.k + 2 ≤ a.ell → a.tb.realign = none → a.sup.mode = .reconfigure → l.prevMode = .service → a.trust.level = 0 →
      (∀ ty ∈ [tyQUEUE, tyTX, tyCZCTX, tyCIPHER, tyPORT, tyGATE, tyPTP], changes a.cfg.recs a.cfg.next ty = []) →
      recGet a.cfg.next tyPOLICY 0 = recGet a.cfg.recs tyPOLICY 0 → Does (.deltaCommit t) s fun z =>
        z.cfg.recs = a.cfg.next ∧ z.cfg.next = [] ∧ z.cfg.deltaK = none ∧ z.cfg.hdr = l.hdr ∧
        z.cfg.measurement = shake256 (a.cfg.measurement ++ l.digest) ∧ z.cfg.commitEll = l.k % 2 ^ 32 ∧
          z.load = { owner := l.owner } ∧
        z.sup.mode = .service ∧ z.ha.mem = a.ha.mem ∧ z.em = a.em ∧
        { gts := a.now, source := 15, code := 0xF20, d := [l.hdr.configId % 2 ^ 32, l.hdr.configId / 2 ^ 32, l.k % 2 ^ 32] } ∈ z.log.fresh)

/-! ### The Cipher Engine -/

/-- R27, R98, R133, R291, R293, R298 to R302, R308: one lane at a time is locked, by its claimant until release or 4 ms; an operation
starts on the open lane with the fewest in flight, marks the input queue of its source and uses its key once; a replayed copy is
dropped; a verdict goes back to the stream, whose containers stand with `p` set until it is applied; a lane's parity mismatch is
repeated on another lane. (The model's choices: log 5, log 7, log 19, log 29.) -/
def Obligations.CipherLanesLockAndRunOperations : Prop :=
  ∀ (t : Gts) (m : Master) (n : Fin 4) (s : State),
    let a := s.advance t
    let g := begun m a
    let x := a.lane n.val
    (allows m (baseCE + 0x10 + 4 * n.val) true a = true →
      (m = .host ∨ m = .supervisor ∨ m = .trust → (∀ i, i < 4 → (a.lane i).owner = none) → bit a.sup.ceRetired n.val = false →
        exec (.claim t m n) s = .next (g.setLane n.val { x with owner := some (srcOf m), since := a.now })) ∧
      (∀ i o, i < 4 → (a.lane i).owner = some o → (a.lane i).since ≠ a.now ∨ o ≤ srcOf m → exec (.claim t m n) s = .next g) ∧
      (∀ i o, i < 4 → (a.lane i).owner = some o → (a.lane i).since = a.now → srcOf m < o → mayLock m = true →
        bit a.sup.ceRetired n.val = false → (∀ j, j < 4 → j ≠ i → (a.lane j).owner = none) → Does (.claim t m n) s fun z =>
          (z.lane n.val).owner = some (srcOf m) ∧ ∀ j, j < 4 → j ≠ n.val → (z.lane j).owner = none) ∧
      (x.owner = some (srcOf m) → exec (.lockRelease t m n) s = .next (g.setLane n.val { x with owner := none })) ∧
      (x.owner ≠ some (srcOf m) → exec (.lockRelease t m n) s = .next g)) ∧
    (∀ o, x.owner = some o →
      (x.since + 16000000 < a.now → a.ce.cmd = none →
        exec (.lockExpired t n) s = .next ((a.setLane n.val { x with owner := none }).raise 7 0x707 [n.val, o])) ∧
      (a.now ≤ x.since + 16000000 → Idles (.lockExpired t n) t s)) ∧
    (x.owner = none → Idles (.lockExpired t n) t s) ∧
    (∀ (op : CipherOp) (k : Nat), pickLane a 4 = some k → (∀ j, j < 4 → ∀ o ∈ (a.lane j).ops, o.start ≠ a.now) →
      let started (o : LaneOp) (z : State) : Prop :=
        (z.lane k).ops = (a.lane k).ops ++ [o] ∧ (z.lane k).owner = (a.lane k).owner ∧ (∀ j, j ≠ k → z.lane j = a.lane j) ∧
          ∀ q, z.queue q = if (ceQueues a (opSource op)).any (fun e => e.1 == q) then markQueue (a.queue q) else a.queue q
      ((a.lane k).owner = none ∧ k < 4 ∧ (a.lane k).ops.length < 4 ∧
        ∀ j, j < 4 → laneOpen a j = true → (a.lane k).ops.length ≤ (a.lane j).ops.length) ∧
      (∀ p len, op = .macsecTx p len ∨ op = .macsecRx p len →
        Does (.cipherOpStart t op) s fun z =>
          started { op := op, start := a.now } z ∧ z = { a with ce := { a.ce with lanes := z.ce.lanes }, queues := z.queues }) ∧
      (∀ st p rest b i, op = .srtpTx st → a.se.txWait = p :: rest → p.stream = st.toNat → a.recNow tyTX st.toNat = some b →
        let c := u16 b 0x18
        let v := txIndex a c p.seq
        let y := (ceRec a c).getD []
        let h := rtpHeader b p
        txSlot (a.ctx c) v = some (i, false) → v < 2 ^ 48 →
          (slotOf (a.ctx c) i).used + 1 < cdiv (7 * (slotOf (a.ctx c) i).limit) 8 →
        cdiv (7 * (slotOf (a.ctx c) i).limit) 8 ≤ (slotOf (a.ctx c) i).limit →
        Does (.cipherOpStart t op) s fun z =>
          z.se.txWait = rest ∧ (z.ctx c).index = some (v + 1) ∧ (slotOf (z.ctx c) i).used = (slotOf (a.ctx c) i).used + 1 ∧
          (slotOf (z.ctx c) i).st = 2 ∧ slotOf (z.ctx c) (1 - i) = slotOf (a.ctx c) (1 - i) ∧ (∀ j, j ≠ c → z.ctx j = a.ctx j) ∧
          (let key := slotOf (a.ctx c) i
           started { op := op, pkt := some p, ctx := c, slot := i, index := v, start := a.now,
                     out := h ++ gcmSeal (gcmKey (byteAt y 1) key.key) key.salt (srtpIv h v) h p.payload ++ toBe (ceMkiLen y) key.mki } z) ∧
          z = { a with se := z.se, ce := z.ce, queues := z.queues }) ∧
      (∀ st leg seq cp rest b v hi, op = .srtpRx st leg seq → a.ce.inq = cp :: rest → cp.stream = st.toNat →
        cp.leg = (if leg = .red then 0 else 1) → cp.seq = seq.toNat → cp.role = .first → a.recAt a.soon tyRX st.toNat = some b →
        (a.rx st.toNat).waiting = [] →
        let c := u16 b 0x1A
        let y := a.ctx c
        v = rxIndex a c seq.toNat →
        (y.index = some hi → v + 2048 ≤ hi → Does (.cipherOpStart t op) s fun z =>
          z.ce.inq = rest ∧ (tget {} (z.rx st.toNat).merge (seq.toNat % 2048)).st = 0 ∧ (z.ctx c).replay = y.replay + 1 ∧
          Counted a z (baseCE + 0x20C) 1 ∧ z.ce.lanes = a.ce.lanes ∧
          (y.replayEll ≠ a.ell + 1 → Logs a z 7 0x704 [c, v % 2 ^ 32, v / 2 ^ 32]) ∧ (y.replayEll = a.ell + 1 → z.log = a.log)) ∧
        (y.index = none → ∀ i, rxSlot ((ceRec a c).getD []) y v cp.mki = some i →
          (slotOf y i).used + 1 < cdiv (7 * (slotOf y i).limit) 8 →
          cdiv (7 * (slotOf y i).limit) 8 ≤ (slotOf y i).limit → Does (.cipherOpStart t op) s fun z =>
            z.ce.inq = rest ∧ (slotOf (z.ctx c) i).used = (slotOf y i).used + 1 ∧
            (let y' := (ceRec a c).getD []
             let key := slotOf y i
             let h := cp.rtp.take 12
             let text := cp.payload.take (cp.payload.length - ceMkiLen y')
             let gk := gcmKey (byteAt y' 1) key.key
             started { op := op, copy := some cp, ctx := c, slot := i, index := v, start := a.now,
                       out := gcmPlain gk key.salt (srtpIv h v) h text, tagOk := Config.gcmOk gk key.salt (srtpIv h v) h text } z) ∧
            z = { a with ce := z.ce, queues := z.queues }) ∧
        (y.index = none → rxSlot ((ceRec a c).getD []) y v cp.mki = none → Does (.cipherOpStart t op) s fun z =>
          z.ce.inq = rest ∧ z.ce.done = a.ce.done ++ [{ cp with ok := false }] ∧ Counted a z (baseCE + 0x210) 1 ∧
          z.ce.lanes = a.ce.lanes))) ∧
    (x.ops = [] → ∀ bad ok out, Idles (.cipherOpDone t n bad ok out) t s) ∧
    (∀ op rest, x.ops = op :: rest →
      let popped := a.setLane n.val { x with ops := rest }
      (∀ ok out, (ok, out) ≠ (op.tagOk, op.out) → Idles (.cipherOpDone t n false ok out) t s) ∧
      (∀ st leg seq cp, op.op = .srtpRx st leg seq → op.copy = some cp → cp.role = .first → (a.ctx op.ctx).chg = none →
        (∀ h, (a.ctx op.ctx).index = some h → h ≤ op.index) →
        let pending (z : State) : Prop :=
          (∀ j, tget {} (z.rx cp.stream).ring j = tget {} (a.rx cp.stream).ring j ∨
            bit (tget {} (z.rx cp.stream).ring j).w.toNat 7 = true) ∧
          (∀ b, rxEntry a cp.stream = some b → fmtOf (rxCtl b) ≠ 2 → ∀ i, i ≠ cp.stream → z.rx i = a.rx i) ∧
          (z.lane n.val).ops = rest ∧ Counted a z (baseCE + 0x204) 1 ∧
          z = { a with se := z.se, ce := z.ce, ctrs := z.ctrs, queues := z.queues }
        (op.tagOk = true → Does (.cipherOpDone t n false op.tagOk op.out) s fun z =>
          z.ce.done = a.ce.done ++ [{ cp with ok := true, payload := op.out }] ∧
          (z.ctx op.ctx) = { a.ctx op.ctx with index := some op.index } ∧ pending z) ∧
        (op.tagOk = false → Does (.cipherOpDone t n false op.tagOk op.out) s fun z =>
          z.ce.done = a.ce.done ++ [{ cp with ok := false, payload := op.out }] ∧
          (z.ctx op.ctx) = { a.ctx op.ctx with tagFail := (a.ctx op.ctx).tagFail + 1 } ∧ Counted a z (baseCE + 0x208) 1 ∧
            pending z)) ∧
      (∀ st b, op.op = .srtpTx st → a.recNow tyTX st.toNat = some b → portOfRole a 1 = none → portOfRole a 2 = none →
        Does (.cipherOpDone t n false op.tagOk op.out) s fun z =>
          Counted a z (baseCE + 0x200) 1 ∧ Counted a z (baseSE + 0x230) 1 ∧
            z = { popped with ctrs := z.ctrs, queues := z.queues }) ∧
      (op.repeated = false → (∀ cp, op.copy = some cp → onWire cp.stream cp.seq a = false) →
        ∀ ok out, Does (.cipherOpDone t n true ok out) s fun z =>
        Counted a z (baseCE + 0x224) 1 ∧ Logs a z 7 0x706 [n.val, opSource op.op] ∧ z.ce.done = a.ce.done ∧ z.ce.ctxs = a.ce.ctxs ∧
        (∀ k, pickLane popped n.val = some k → k ≠ n.val → (z.lane n.val).ops = rest ∧
          (z.lane k).ops = (a.lane k).ops ++ [{ op with repeated := true }])))

/-- R297, R301, R304 to R309: a command needs a lane that its master holds and acts when it completes: a wrapped key is loaded into an
EMPTY slot only when it unwraps, binds and its KEK is usable; CHANGE, DISCARD, SAVE, RESTORE, EXPORT and IMPORT act on their
context; any result but OK is logged and leaves keys and contexts as they were. (The model's choices: log 5, log 7, log 19, log
22.) -/
def Obligations.CipherCommandsActWhenTheyComplete : Prop :=
  ∀ (t : Gts) (m : Master) (slot : BitVec 1) (kek : BitVec 2) (ctx : BitVec 16) (s : State),
    let a := s.advance t
    let g := begun m a
    let cmds : List (Nat × Instr) := [(1, .keyload t m slot kek ctx), (2, .change t m slot kek ctx), (3, .discard t m slot kek ctx),
      (4, .save t m slot kek ctx), (5, .restore t m slot kek ctx), (6, .exportCtx t m slot kek ctx), (7, .importCtx t m slot kek ctx)]
    (allows m baseCE true a = true → ∀ e ∈ cmds,
      (a.ce.cmd ≠ none → exec e.2 s = .next g) ∧
      (a.ce.cmd = none → (∀ i, i < 4 → (a.lane i).owner ≠ some (srcOf m)) → Does e.2 s fun z =>
        z.ce = { a.ce with cmd := none, result := 1, resCtx := ctx.toNat } ∧ Logs a z 7 0x708 [e.1, 1, ctx.toNat]) ∧
      (∀ k, a.ce.cmd = none → k < 4 → (a.lane k).owner = some (srcOf m) → (∀ i, i < k → (a.lane i).owner ≠ some (srcOf m)) →
        let c : CeCmd := { op := e.1, ctx := ctx.toNat, slot := slot.toNat, kek := kek.toNat, lane := k, fail := 0, blob := tgets 0 a.ce.xfer 0 280,
                           arg := a.reg (baseCE + 4) + 2 ^ 32 * a.reg (baseCE + 8) }
        exec e.2 s = .next { g with ce := { a.ce with cmd := some c } })) ∧
    (a.ce.cmd = none → ∀ bad ok out, Idles (.cmdComplete t bad ok out) t s) ∧
    (∀ (c : CeCmd) (b : List Byte), a.ce.cmd = some c → c.fail = 0 → c.ctx < 2048 → ceRec a c.ctx = some b →
      let x := a.ctx c.ctx
      let fin (e : CipherE) : CipherE := { e with cmd := none, result := 0, resCtx := c.ctx }
      let ends (y : CeCtx) : Prop :=
        exec (.cmdComplete t false (cmdReport c a).1 (cmdReport c a).2) s = .next ({ a.setCtx c.ctx y with ce := fin (a.setCtx c.ctx y).ce })
      let fails (r : Nat) : Prop := Does (.cmdComplete t false (cmdReport c a).1 (cmdReport c a).2) s fun z =>
        z.ce = { a.ce with cmd := none, result := r, resCtx := c.ctx } ∧ Logs a z 7 0x708 [c.op, r, c.ctx] ∧
        z.ctrs = (if r = 2 ∨ r = 3 then (a.bump (baseCE + 0x22C)).ctrs else a.ctrs)
      let unwraps (blob : List Byte) : Bool := Config.wrapOk c.kek (kekBytes a c.kek) blob && kekUsable a c.kek
      (∀ ok out, (ok, out) ≠ cmdReport c a → Idles (.cmdComplete t false ok out) t s) ∧
      (c.repeated = false → ∀ ok out, Does (.cmdComplete t true ok out) s fun z =>
        z.ce = { a.ce with cmd := some { c with repeated := true } } ∧ Counted a z (baseCE + 0x224) 1) ∧
      (c.op = 1 →
        let out := keyUnwrap a c.kek (c.blob.take 64)
        let bound : Bool := u16 out 0x2C == c.ctx && byteAt out 0x2E == c.slot && byteAt out 0x2F == byteAt b 1
        ((slotOf x c.slot).st ≠ 0 → fails 4) ∧
        ((slotOf x c.slot).st = 0 →
          let v : KeySlot := { st := 1, key := slice out 0 32, salt := slice out 0x20 12, mki := u32 out 0x30, used := 0,
                               limit := if u32 b 0xC = 0 then a.reg (baseCE + 0x20) else u32 b 0xC }
          if unwraps (c.blob.take 64) = false then fails 2 else if bound = false then fails 3 else
            (c.slot = 0 → ends { x with s0 := v, act := if x.s1.st = 0 then 0 else x.act }) ∧
            (c.slot = 1 → ends { x with s1 := v, act := if x.s0.st = 0 then 1 else x.act }))) ∧
      (c.op = 2 →
        ((slotOf x (1 - x.act)).st = 1 → ends { x with chg := some (c.arg % 2 ^ 48), chgLogged := false }) ∧
        ((slotOf x (1 - x.act)).st ≠ 1 → fails 4)) ∧
      (c.op = 3 →
        (ceTx b = true → c.slot = x.act → usable (slotOf x c.slot) = true → fails 4) ∧
        (ceTx b = false ∨ c.slot ≠ x.act ∨ usable (slotOf x c.slot) = false →
          ends (if c.slot = 0 then { x with s0 := {} } else { x with s1 := {} }))) ∧
      (c.op = 4 →
        let v : SaveSlot := { kind := b2n (ceTx b), stream := ceStream b, full := true, ctx := x }
        exec (.cmdComplete t false (cmdReport c a).1 (cmdReport c a).2) s = .next { a with ce := fin { a.ce with saves := tset {} a.ce.saves (c.arg % 512) v } }) ∧
      (c.op = 5 →
        let v := tget {} a.ce.saves (c.arg % 512)
        (v.full = true → v.kind = b2n (ceTx b) → v.stream = ceStream b → ends v.ctx) ∧
        (v.full = false ∨ v.kind ≠ b2n (ceTx b) ∨ v.stream ≠ ceStream b → fails 4)) ∧
      (c.op = 6 →
        (kekUsable a c.kek = true → exec (.cmdComplete t false (cmdReport c a).1 (cmdReport c a).2) s =
          .next { a with ce := fin { a.ce with xfer := tsets 0 a.ce.xfer 0 (keyWrap a c.kek (exportBlock a c.ctx b)) } }) ∧
        (kekUsable a c.kek = false → fails 2)) ∧
      (c.op = 7 →
        let out := keyUnwrap a c.kek c.blob
        let mine : Bool := byteAt out 266 == b2n (ceTx b) && u16 out 4 == ceStream b
        if unwraps c.blob = false then fails 2 else if mine = false then fails 3 else
          if ceTx b then (if c.arg < 65536 then fails 5 else
            ends { ctxOfBytes out with index := (ctxOfBytes out).index.map (· + c.arg) })
          else ends (ctxOfBytes out)))

/-! ### The Compression Engine -/

/-- R313, R317, R321 to R327, R330: a request takes a free unit; a block is released only when the verify decoder rebuilds it, and is
otherwise sent stored, or the payload is lost; a finished payload goes on to the Cipher Engine; a decode ends with its image, or
with a counted failure and a failed copy. (The model's choices: log 5, log 7, log 20.) -/
def Obligations.BlocksAreReleasedOnlyWhenVerified : Prop :=
  ∀ (t : Gts) (c : BitVec 11) (b : List Byte) (s : State),
    let a := s.advance t
    let i := c.toNat
    czRec a i = some b →
    (∀ (u : Nat) (p : TxPkt) (rest : List TxPkt) (tb : List Byte), czKind b = 1 → pickUnit a [0, 1] = some u →
      a.cz.txq = p :: rest →
      p.stream = czStream b → a.cz.delayed = [] → a.recNow tyTX (czStream b) = some tb →
      let im := buildImage b (rate96 (rxCtl tb)) (chOf (rxCtl tb)) (pktSamples (rxCtl tb)) p.conts
      Does (.encode t c) s fun z =>
        z.unit u = { busy := true, ctx := i, pkt := some p, hdr := im.1, raw := im.2 } ∧ z.cz.txq = rest ∧
        (∀ j, j ≠ u → z.unit j = a.unit j) ∧ z = { a with cz := z.cz }) ∧
    (pickUnit a [0, 1] = none → Idles (.encode t c) t s) ∧
    -- an item of a host queue, which the engine marks and takes
    (∀ (it : Item) (a1 : State) (u : Nat), takeMarked b a = (some it, a1) → a1.pending = a.pending → a1.gts = a.gts →
      a1.fuses = a.fuses →
      a.cz.refused = [] → it.data.length ≤ 65535 →
      (czKind b = 2 → pickUnit a [0, 1] = some u → unitOf a [0, 1] i = none → exec (.encode t c) s =
        .next (a1.setUnit u { busy := true, ctx := i, item := some it, hdr := toLe 4 it.data.length, raw := it.data })) ∧
      (czKind b = 3 → pickUnit a [2, 3] = some u → unitOf a [2, 3] i = none → ∀ leg seq, exec (.decode t c leg seq) s =
        .next (a1.setUnit u { busy := true, ctx := i, item := some it }))) ∧
    (∀ (u : Nat) (bits : List Bool) (dec st : Bool), unitOf a [0, 1] i = some u → czKind b = 1 →
      let x := a.unit u
      let blk := (x.raw.drop x.pos).take (czMax b)
      let last := decide (x.raw.length ≤ x.pos + blk.length)
      let tooLong := decide (8 * (blk.length + 3) < bits.length) || !modeWrites (czMode b) bits
      let good := dec && verifies x bits last blk
      let stored := storedBits x.bits.length last blk
      let room := if czMode b = 0 then blk.length + 8 ≤ 16384 else (bits.length + 7) / 8 ≤ 16384
      let out (w : List Bool) (z : State) : Prop :=
        z.unit u = { x with bits := x.bits ++ w, pos := x.pos + blk.length, blocks := x.blocks + 1, waiting := false, stalled := false } ∧
        (∀ j, j ≠ u → z.unit j = a.unit j) ∧ Counted a z (baseCZ + 0x200) blk.length ∧ Counted a z (baseCZ + 0x208) 1
      x.lost = false → x.pos < x.raw.length ∨ x.blocks = 0 → room →
      (good = true → tooLong = false → Does (.blockVerify t c bits dec st) s fun z => out bits z ∧ z.log = a.log) ∧
      (tooLong = true → st = true → verifies x stored last blk = true → Does (.blockVerify t c bits dec st) s fun z =>
        out stored z ∧ Counted a z (baseCZ + 0x20C) 1 ∧ z.log = a.log) ∧
      (good = false → tooLong = false → st = true → verifies x stored last blk = true →
        Does (.blockVerify t c bits dec st) s fun z =>
        out stored z ∧ Counted a z (baseCZ + 0x20C) 1 ∧ Counted a z (baseCZ + 0x210) 1 ∧ Logs a z 8 0x801 [i, x.pos] ∧
        (z.czStat i).verifyFail = satN 16 ((a.czStat i).verifyFail + 1)) ∧
      (∀ p, tooLong = true → (st && verifies x stored last blk) = false → x.pkt = some p → x.ctx = i →
        Does (.blockVerify t c bits dec st) s fun z =>
          (z.unit u).busy = false ∧ (z.tx p.stream).svc = 2 ∧ Counted a z (baseCZ + 0x214) 1 ∧ Logs a z 8 0x803 [i])) ∧
    (unitOf a [0, 1] i = none → (∀ bits dec st, Idles (.blockVerify t c bits dec st) t s) ∧ Idles (.encodeDone t c) t s) ∧
    (∀ u : Fin 4, (a.unit u.val).ctx = i → (a.unit u.val).stalled = false → Idles (.stagingResume t u) t s) ∧
    (∀ (u : Fin 4) (d : List Byte) (sz : Nat) (q : Queue), sz = qCap d → (a.unit u.val).ctx = i → (a.unit u.val).stalled = true →
      czKind b = 2 → qDesc a (czQout b) = some d → q = a.queue (czQout b) → qOcc d q < qSlots d → qDepth d q < qSlots d →
      qProd d = 8 → qBusy q = false → q.popStall = false → q.coming = [] → q.dropPend = false → qPfc d = false → 0 < sz →
      let x := a.unit u.val
      let left := (unitBytes b x false).drop x.pushed
      sz < left.length → left.length ≤ 2 * sz → Does (.stagingResume t u) s fun z =>
        (z.unit u.val).pushed = x.pushed + sz ∧ (z.unit u.val).stalled = false ∧ (z.queue (czQout b)).w = (q.w + 1) % qMod d ∧
        (let it := tget {} (z.queue (czQout b)).slots (q.w % qSlots d); it.src = 8 ∧ it.aux = 1 ∧ it.data = left.take sz)) ∧
    (∀ (u : Nat) (p : TxPkt) (tb : List Byte), unitOf a [0, 1] i = some u → a.cz.delayed = [] →
      let x := a.unit u
      x.raw.length ≤ x.pos → x.blocks ≠ 0 → x.pkt = some p → a.recNow tyTX p.stream = some tb → txCeCtx tb ≠ 0xFFFF →
      let bytes := x.hdr ++ packBits x.bits ++ toLe 4 (crc32c x.raw).toNat
      Does (.encodeDone t c) s fun z =>
        z.se.txWait = a.se.txWait ++ [{ p with payload := bytes, conts := [] }] ∧ (z.unit u).busy = false ∧
        z.czStat i = { a.czStat i with svc := 0, codedLast := satN 16 (bytes.length - 4), streams := satN 32 ((a.czStat i).streams + 1) } ∧
        Counted a z (baseCZ + 0x204) bytes.length ∧ z = { a with se := z.se, cz := z.cz, ctrs := z.ctrs }) ∧
    (∀ (leg : Leg) (seq : BitVec 16) (u : Nat) (cp : Copy) (rest : List Copy) (rb : List Byte), czKind b = 0 →
      pickUnit a [2, 3] = some u →
      a.cz.inq = cp :: rest → cp.stream = czStream b → cp.leg = (if leg = .red then 0 else 1) → cp.seq = seq.toNat →
        a.cz.delayed = [] →
      a.cz.refused = [] → rxEntry a (czStream b) = some rb →
      (headerOk (rxCtl rb) cp.payload = true → Does (.decode t c leg seq) s fun z =>
        z.unit u = { busy := true, ctx := i, copy := some cp } ∧ z.cz.inq = rest ∧ (∀ j, j ≠ u → z.unit j = a.unit j) ∧
        z = { a with cz := z.cz }) ∧
      (headerOk (rxCtl rb) cp.payload = false → (a.rx cp.stream).waiting = [] → Does (.decode t c leg seq) s fun z =>
        (z.czStat i).decodeFail = satN 16 ((a.czStat i).decodeFail + 1) ∧ z.cz.units = a.cz.units ∧ z.cz.inq = rest ∧
        Counted a z (baseCZ + 0x218) 1)) ∧
    (∀ (u : Nat) (cp : Copy) (rb : List Byte) (ecc : Bool), unitOf a [2, 3] i = some u → (a.unit u).copy = some cp →
      cp.role = .first → rxEntry a cp.stream = some rb → fmtOf (rxCtl rb) = 2 → (a.rx cp.stream).waiting = [] → a.se.direct = [] →
      let m := tget {} (a.rx cp.stream).merge (cp.seq % 2048)
      let r := dalow (imageLen (rxCtl rb) cp.payload) (cp.payload.drop 4)
      m.st = 1 → m.seq = cp.seq → m.leg = cp.leg →
      (∀ e, (if ecc then some 4 else r.2) = some e → Does (.decodeDone t c ecc) s fun z =>
        (tget {} (z.rx cp.stream).merge (cp.seq % 2048)).st = 3 ∧ (z.rx cp.stream).ring = (a.rx cp.stream).ring ∧
        (z.unit u).busy = false ∧ (z.czStat i).decodeFail = satN 16 ((a.czStat i).decodeFail + 1) ∧
        Counted a z (baseCZ + 0x218) 1 ∧ ((a.czStat i).failEll ≠ a.ell + 1 →
          { gts := a.now, source := 8, code := 0x802, d := [i, e] } ∈ z.log.fresh)) ∧
      (ecc = false → r.2 = none → a.cz.delayed = [] → Does (.decodeDone t c ecc) s fun z =>
        (tget {} (z.rx cp.stream).merge (cp.seq % 2048)).st = 2 ∧ (z.rx cp.stream).lastSeq = cp.seq ∧ (z.unit u).busy = false ∧
        (z.czStat i).svc = 0 ∧ (z.czStat i).streams = satN 32 ((a.czStat i).streams + 1) ∧
        (let decoded := { cp with ok := true, decoded := true, payload := (readImage (rxCtl rb) cp.payload r.1).1 }
         (z.rx cp.stream).ring = ((placeCopy rb decoded a).rx cp.stream).ring) ∧ z.log = a.log))

/-! ### Failure containment -/

/-- R351 to R353, R356, R357: a corrected word is counted where its array stands; an uncorrectable one is logged once per word and
does what its array says; a line is repaired only from flash; a handshake timeout is logged once per destination and Ell and is
treated as its requester says. (The model's choices: log 7, log 9, log 14.) -/
def Obligations.MemoryErrorsAndTimeoutsAreContained : Prop :=
  ∀ (t : Gts) (w : BitVec 32) (s : State),
    let a := s.advance t
    let n := w.toNat
    let found (code : Nat) (z : State) : Prop :=
      (a.sup.badWords.contains (code, n) = true → z.log = a.log ∧ z.ctrs = a.ctrs) ∧
      (a.sup.badWords.contains (code, n) = false → Logs a z 15 0xF44 [code, n] ∧ Counted a z (baseSV + 0x70C) 1 ∧
        z.sup.badWords = (code, n) :: a.sup.badWords)
    (∀ m, Idles (.scrub t m w .clean) t s) ∧
    ((∀ h, exec (.scrub t (.holmData h) w .single) s = .next (a.bump (haCtr h.val 0x220)) ∧
        exec (.scrub t (.program h) w .single) s = .next (a.bump (haCtr h.val 0x220))) ∧
     (∀ c, exec (.scrub t (.commitBuf c) w .single) s = .next (a.bump (haCtr (c.val / 5) 0x220))) ∧
     (∀ m ∈ [MemArray.ell, .stream, .queueData, .queueHeader, .coef, .keySlot, .ctxField, .saveSlot, .rateState, .scanner, .czWindow, .other],
      exec (.scrub t m w .single) s = .next (a.bump (baseSV + 0x708)))) ∧
    (Does (.scrub t .stream w .double) s fun z =>
      found 4 z ∧ tget {} (z.rx (n / 2 ^ 22)).ring (n / 2 ^ 16 % 64 * 2 ^ 20 + n % 2 ^ 16) = {} ∧
      (∀ j, j ≠ n / 2 ^ 22 → z.rx j = a.rx j) ∧ (∀ k, k ≠ n / 2 ^ 16 % 64 * 2 ^ 20 + n % 2 ^ 16 →
        tget {} (z.rx (n / 2 ^ 22)).ring k = tget {} (a.rx (n / 2 ^ 22)).ring k)) ∧
    (Does (.scrub t .queueData w .double) s fun z =>
      found 5 z ∧ OnlyQueue (n / 65536) a z ∧ (tget {} (z.queue (n / 65536)).slots (n % 65536)).err = true ∧
      (tget {} (z.queue (n / 65536)).slots (n % 65536)).data = (tget {} (a.queue (n / 65536)).slots (n % 65536)).data) ∧
    (n < 0x10000 → Does (.scrub t .keySlot w .double) s fun z =>
      let k := slotOf (a.ctx (n / 2)) (n % 2)
      found 8 z ∧ slotOf (z.ctx (n / 2)) (n % 2) = (if usable k then { k with st := 4 } else k) ∧
      slotOf (z.ctx (n / 2)) (1 - n % 2) = slotOf (a.ctx (n / 2)) (1 - n % 2) ∧ (∀ j, j ≠ n / 2 → z.ctx j = a.ctx j)) ∧
    (Does (.scrub t .saveSlot w .double) s fun z => found 10 z ∧ tget {} z.ce.saves n = {} ∧ z.ce.ctxs = a.ce.ctxs) ∧
    (Does (.scrub t .rateState w .double) s fun z => found 11 z ∧ z.rate n = { a.rate n with pend := some 4 }) ∧
    (∀ h : Fin 16, regionOf a h.val n = none → Does (.scrub t (.holmData h) w .double) s fun z => found (0x10 + h.val) z ∧
      z.ha = a.ha) ∧
    (∀ (h : Fin 16) (x : BitVec 17) (ok : Bool),
      (a.sup.badProg.contains (h.val, x.toNat) = false → Idles (.progRepair t h x ok) t s) ∧
      (a.sup.badProg.contains (h.val, x.toNat) = true → repairable a h.val x.toNat = true →
        (ok = true → Does (.progRepair t h x ok) s fun z =>
          z.sup.badProg = a.sup.badProg.filter (fun e => !(e.1 == h.val && e.2 / 64 == x.toNat / 64)) ∧
          Logs a z 15 0xF46 [h.val, x.toNat / 64 * 64] ∧ Counted a z (baseSV + 0x714) 1 ∧ z.ha = a.ha) ∧
        (ok = false → bit (a.reg (baseSV + 0x600)) 15 = false →
          exec (.progRepair t h x ok) s = .next (a.raise 15 0xF45 [h.val, x.toNat])) ∧
        (ok = false → bit (a.reg (baseSV + 0x600)) 15 = true → a.sup.mode = .service → Does (.progRepair t h x ok) s fun z =>
          Logs a z 15 0xF45 [h.val, x.toNat] ∧ z.sup.reqs = a.sup.reqs ++ [{ rank := 50, goTo := .recovery, cause := 50 }]))) ∧
    (∀ (r d : BitVec 8) (core : CoreId) (k : Nat), r.toNat = 32 + core.val → (a.core core.val).st ≠ 0 →
      (a.core core.val).attempt = 0 → core.val % 5 ≠ 4 → k = (a.core core.val).inst → (a.task k).fin = false →
      standbyFree a (tkHolm (instBody a k)) = true → outranked a r.toNat (5 * tkHolm (instBody a k) + 4) = none →
        tget [] a.sup.faultElls r.toNat = [] → Does (.hsTimeout t r d) s fun z =>
        (z.core core.val).st = 0 ∧ (z.task k).passed = true ∧ (z.task k).next = some (1, 5 * tkHolm (instBody a k) + 4) ∧
        Counted a z (baseSV + 0x718) 1 ∧
        ((a.sup.hsLog.any fun e => e.1 == a.ell && e.2.1 == d.toNat) = false →
          { gts := a.now, source := 15, code := 0xF48, d := [r.toNat, d.toNat] } ∈ z.log.fresh)) ∧
    (∀ d : BitVec 8, d.toNat ≠ 6 → a.sup.hsLog = [] → Does (.hsTimeout t 13 d) s fun z =>
      z.host = { a.host with aborted := true } ∧ z.sup.hsLog = [(a.ell, d.toNat, 13)] ∧ z.sup.hsDue = a.sup.hsDue ∧
      Logs a z 15 0xF48 [13, d.toNat] ∧ Counted a z (baseHP + 0x220) 1 ∧ Counted a z (baseSV + 0x718) 1) ∧
    (∀ (d r : BitVec 8), a.sup.hsLog = [(a.ell, d.toNat, 4)] → r = 15 → Does (.hsTimeout t r d) s fun z =>
      d.toNat ∈ z.sup.hsDue ∧ z.log = a.log) ∧
    (∀ d : BitVec 8, exec (.destResetDone t d) s = .next { a with sup := { a.sup with hsBusy := a.sup.hsBusy.filter (· != d.toNat) } })

/-- R360, R362, R383: UNFREEZE releases a bus master at once and sends a core through its self-test, which it must pass; CLEAR_VIOL
empties the violation registers; a frozen host port comes back after `host_thaw`; `rd` of the log moves only forward. (The model's
choices: log 7, log 15.) -/
def Obligations.FreezesEndByRequestTestOrTime : Prop :=
  ∀ (t : Gts) (m : Master) (s : State),
    let a := s.advance t
    let g := begun m a
    (allows m (baseSV + 0x604) true a = true →
      (∀ src : BitVec 8,
        let x := src.toNat
        (a.isFrozen x = false → exec (.unfreeze t m src) s = .next { g with sup := { a.sup with fwResult := 1, fwSource := x } }) ∧
        (a.isFrozen x = true → (x < 32 ∨ 112 ≤ x) → Does (.unfreeze t m src) s fun z =>
          z.sup = { a.sup with fwResult := 0, fwSource := x, frozen := a.sup.frozen.filter (· != x),
                               faultElls := tset [] a.sup.faultElls x [] } ∧
          z.isFrozen x = false ∧ (∀ j, j ≠ x → z.isFrozen j = a.isFrozen j) ∧ Logs a z 15 0xF42 [x]) ∧
        (a.isFrozen x = true → 32 ≤ x → x < 112 → Does (.unfreeze t m src) s fun z =>
          z.sup = { a.sup with fwResult := 0, fwSource := x, bist := (x, a.ell + 1) :: a.sup.bist.filter fun e => e.1 != x } ∧
          z.isFrozen x = true ∧ Logs a z 15 0xF42 [x])) ∧
      exec (.clearViol t m) s = .next { g with sup := { a.sup with violAddr := 0, violInfo := 0, fwResult := 0, fwSource := 0 } }) ∧
    (∀ core : CoreId,
      let src := 32 + core.val
      (a.sup.bist = [] → ∀ pass, Idles (.coreBistDone t core pass) t s) ∧
      ((src, a.ell) ∈ a.sup.bist →
        exec (.coreBistDone t core true) s =
          .next { a with sup := { a.sup with release := insertN a.sup.release src, fwResult := 0, fwSource := src } } ∧
        exec (.coreBistDone t core false) s =
          .next { a with sup := { a.sup with bist := a.sup.bist.filter (fun e => e.1 != src), fwResult := 2, fwSource := src } })) ∧
    (let ms := a.rfld (baseSV + 0x600) 31 16
     (a.isFrozen 13 = false ∨ ms = 0 ∨ a.now < a.sup.hostFrozenAt + ms * 4000000 → Idles (.hostThaw t) t s) ∧
     (a.isFrozen 13 = true → ms ≠ 0 → a.sup.hostFrozenAt + ms * 4000000 ≤ a.now → Does (.hostThaw t) s fun z =>
      z.isFrozen 13 = false ∧ (∀ j, j ≠ 13 → z.isFrozen j = a.isFrozen j) ∧ Logs a z 15 0xF42 [13])) ∧
    (allows m (baseSV + 0x894) true a = true → ∀ v : Word,
      let rd := v.toNat % 1024
      let l : EventLog := { a.log with rd := rd }
      Does (.logRdWrite t m v) s fun z =>
        (logUnread l ≤ logUnread a.log → z.log = l) ∧ (logUnread a.log < logUnread l → z.log = a.log) ∧
        z.reg (baseSV + 0x894) = (v.toNat / 65536 % 1024) * 65536 ∧ z = { g with log := z.log, regs := z.regs })

/-! ### Operating modes and resets -/

/-- R386 to R388, R390, R396, R397: an operation of SV_MODE_CTRL needs its confirmation, is refused where the mode does not allow it,
is held in Reconfigure, and otherwise waits for the Ell boundary; WAKE and WAKE_N end Standby; Calibrate gives up after `cal_max`;
a power-down clears what is not always on. (The model's choices: log 7, log 15.) -/
def Obligations.ModeOperationsWaitForTheBoundary : Prop :=
  ∀ (t : Gts) (m : Master) (c : Byte) (s : State),
    let a := s.advance t
    let g := begun m a
    let ops : List (Instr × Nat × Nat × Mode) := [(.standby t m c, 1, 62, .standby), (.off t m c, 2, 61, .off), (.test t m c, 3, 63, .test),
      (.recover t m c, 4, 64, .recovery), (.reset t m c, 5, 60, .boot)]
    let res (r : Nat) : State := { g with sup := { a.sup with result := r } }
    let woken (x z : State) : Prop :=
      z.sup.mode = .boot ∧ z.sup.prev = .standby ∧ z.pwrEn = true ∧ z.pmbusOn = true ∧ z.sup.fwOk = false ∧
      Logs x z 15 0xF80 [Mode.standby.code, Mode.boot.code, 90] ∧ z.cfg = x.cfg ∧ z.tb = x.tb
    (allows m (baseSV + 0xA00) true a = true → a.sup.mode ≠ .lockdown →
      (∀ e ∈ ops,
        let q : ModeReq := { rank := e.2.2.1, goTo := e.2.2.2, cause := e.2.2.1, host := true }
        (c ≠ 0x5A → exec e.1 s = .next (res 2)) ∧
        (c = 0x5A → requestAllowed a.sup.mode e.2.1 = 0 → exec e.1 s = .next (res 1)) ∧
        (c = 0x5A → requestAllowed a.sup.mode e.2.1 = 1 →
          exec e.1 s = .next { g with sup := { a.sup with result := 0, reqs := a.sup.reqs ++ [q] } }) ∧
        (c = 0x5A → requestAllowed a.sup.mode e.2.1 = 2 →
          exec e.1 s = .next { g with sup := { a.sup with result := 4, held := a.sup.held ++ [q] } })) ∧
      (c ≠ 0x5A → exec (.wake t m c) s = .next (res 2)) ∧
      (c = 0x5A → m ≠ .spi ∨ a.sup.mode ≠ .standby → exec (.wake t m c) s = .next (res 1)) ∧
      (c = 0x5A → m = .spi → a.sup.mode = .standby → a.trust.level = 0 → Does (.wake t m c) s fun z => woken a z ∧
        z.sup.result = 0)) ∧
    (allows m (baseSV + 0xA00) true a = true → a.sup.mode = .lockdown → ∀ e ∈ ops, exec e.1 s = .next g) ∧
    (bit (a.reg (baseSV + 0xA04)) 16 = false ∨ a.sup.mode ≠ .standby → Idles (.wakePin t) t s) ∧
    (bit (a.reg (baseSV + 0xA04)) 16 = true → a.sup.mode = .standby → a.trust.level = 0 → Does (.wakePin t) s (woken a)) ∧
    (let due := a.sup.calFrom + a.rfld (baseSV + 0xA04) 15 0 * sec
     (a.sup.mode ≠ .calibrate ∨ a.now < due → Idles (.calTimeout t) t s) ∧
     (a.sup.mode = .calibrate → due ≤ a.now → Does (.calTimeout t) s fun z =>
      z.sup.reqs = a.sup.reqs ++ [{ rank := 90, goTo := .service, cause := 90 }] ∧ Logs a z 15 0xF82 [15 - a.sup.calBits % 16] ∧
      z.sup.mode = .calibrate)) ∧
    (a.sup.downTo = none → Idles (.powerDownDone t) t s) ∧
    (∀ goTo, a.sup.downTo = some goTo → Does (.powerDownDone t) s fun z =>
      z.sup.mode = a.sup.mode ∧ z.sup.downTo = none ∧ z.sup.resetCause = a.sup.resetCause ∧ z.cfg = {} ∧ z.queues = [] ∧
        z.ports = [] ∧
      z.ce = {} ∧ z.se = {} ∧ z.ha = {} ∧ z.mf = {} ∧ z.fuses = a.fuses ∧ z.gts = a.gts ∧ z.tb.ofs = a.tb.ofs ∧ z.pmbusOn = false ∧
      z.pwrEn = decide (a.sup.mode = .standby) ∧ (∀ off, alwaysOn off = true → z.reg off = a.reg off))

/-- R334, R387, R392, R394, R403: what each reset leaves: the power-on resets keep the fuses alone and restart GTS; RESET_N and the
debug port's reset clear the blocks but keep GTS, OFS and the always-on registers, and lead to Boot; the watchdog asks for
Recovery; PERST_N clears the endpoint; a verified image starts the firmware, and the rails then ask for Configure. (The model's
choices: log 2, log 7, log 15.) -/
def Obligations.ResetsClearWhatTheyReach : Prop :=
  ∀ (t : Gts) (s : State),
    let a := s.advance t
    let fresh (cause : Nat) (z : State) : Prop :=
      z = { ({} : State) with pending := s.pending, fuses := a.fuses, trust := { nonceN := a.trust.nonceN + 1 }, freeN := a.freeN,
                              sup := { resetCause := cause }, log := z.log, regs := z.regs, msix := z.msix } ∧
      (∀ off, off ≠ baseSV + 0x104 → z.reg off = (regInit off).toNat) ∧
      z.gts = 0 ∧ z.tb.ofs = 0 ∧ z.sup.mode = .boot ∧ z.log.fresh = [{ gts := 0, source := 15, code := 0xF81, d := [cause] }]
    let booted (cause : Nat) (z : State) : Prop :=
      z.sup.mode = .boot ∧ z.sup.resetCause = cause ∧ z.gts = a.gts ∧ z.tb.ofs = a.tb.ofs ∧ z.fuses = a.fuses ∧ z.cfg = {} ∧
        z.load = {} ∧
      z.queues = [] ∧ z.ports = [] ∧ z.se = {} ∧ z.ce = {} ∧ z.cz = {} ∧ z.ha = {} ∧ z.mf = {} ∧ z.rc = {} ∧ z.ctrs = [] ∧
      z.trust.level = 0 ∧ z.trust.rejects = a.trust.rejects ∧
      z.sup.mfSpare = a.sup.mfSpare ∧ z.sup.ceRetired = a.sup.ceRetired ∧
      (∀ off, alwaysOn off = true → z.reg off = a.reg off) ∧
      { gts := a.now, source := 15, code := 0xF81, d := [cause] } ∈ z.log.fresh
    Does (.powerOnReset t) s (fresh 1) ∧ Does (.brownout t) s (fresh 2) ∧
    (∀ ok, (a.sup.mode = .standby ∨ a.sup.mode = .lockdown → Idles (.resetN t ok) t s) ∧
      (a.sup.mode = .off → a.sup.tripped = false ∨ ok = false → Idles (.resetN t ok) t s) ∧
      (a.sup.mode ≠ .standby → a.sup.mode ≠ .lockdown → a.sup.mode ≠ .off → a.trust.level = 0 → Does (.resetN t ok) s (booted 4)) ∧
      (a.sup.mode = .off → a.sup.tripped = true → ok = true → a.trust.level = 0 → Does (.resetN t ok) s fun z =>
        booted 64 z ∧ z.pwrEn = true ∧ z.pmbusOn = true ∧ ∀ e ∈ a.log.fresh, e ∈ z.log.fresh)) ∧
    (a.trust.level ≠ 2 → Idles (.debugReset t) t s) ∧
    (a.trust.level = 2 → a.sup.mode = .debug → Does (.debugReset t) s fun z =>
      booted 32 z ∧ { gts := a.now, source := 16, code := 0x1004, d := [2] } ∈ z.log.fresh) ∧
    (let w : Sup := { a.sup with resetCause := 16, reqs := [], held := [] }
     (a.sup.mode = .service ∨ a.sup.mode = .calibrate ∨ a.sup.mode = .configure ∨ a.sup.mode = .sheltered → exec (.watchdog t) s =
      .next { a with sup := { w with reqs := [{ rank := 50, goTo := .recovery, cause := 50 }] } }) ∧
     (a.sup.mode = .boot ∨ a.sup.mode = .off ∨ a.sup.mode = .lockdown ∨ a.sup.mode = .recovery → exec (.watchdog t) s =
      .next { a with sup := w })) ∧
    (Does (.perstN t) s fun z =>
      z.host = { a.host with rings := [], aborted := false } ∧ z.msix = [] ∧
      (∀ off, 0x111000 ≤ off → off < 0x111400 → z.reg off = (regInit off).toNat) ∧
      (∀ off, off < 0x111000 ∨ 0x111400 ≤ off → z.reg off = a.reg off) ∧
        z = { a with host := z.host, msix := [], regs := z.regs }) ∧
    Idles (.trstN t) t s ∧
    (∀ x y : List Byte,
      let starts (slot ea : Nat) (img : List Byte) (z : State) : Prop :=
        z.sup.fwOk = true ∧ z.sup.bootErr = 0 ∧ z.sup.vset = vMax a ∧ z.sup.mode = a.sup.mode ∧ z.trust.bootSlot = slot ∧
        z.trust.fwMeas = shake256 (slice img 0 (64 + u32 img 8)) ∧ z.trust.fwSec = u64 img 0x10 ∧ z.trust.fwVer = u64 img 0x18 ∧
        z.trust.errA = ea ∧ z.trust.errB = 0 ∧
        z.sup.reqs = a.sup.reqs ++ (if a.sup.mode = .recovery ∨
          a.sup.railsUp = true then [{ rank := 90, goTo := .configure, cause := 90 }] else [])
      (a.sup.mode ≠ .boot → a.sup.mode ≠ .recovery → ∀ ok, Idles (.firmwareVerified t ok (x, y)) t s) ∧
      (a.sup.mode = .boot ∨ a.sup.mode = .recovery →
        exec (.firmwareVerified t false (x, y)) s = .next { a with sup := { a.sup with bootErr := 5 } } ∧
        ∃ z, exec (.firmwareVerified t true (x, y)) s = .next z ∧
          (fwErr a x = 0 → starts 0 0 x z) ∧ (fwErr a x ≠ 0 → fwErr a y = 0 → starts 1 (fwErr a x) y z) ∧
          (fwErr a x ≠ 0 → fwErr a y ≠ 0 → z.sup.fwOk = false ∧ z.sup.bootErr = fwErr a y ∧ z.trust.errA = fwErr a x ∧
            z.trust.errB = fwErr a y ∧ z.sup.mode = a.sup.mode ∧ z.sup.reqs = a.sup.reqs)) ∧
      (u64 x 0x10 < a.fuses.rollback → fwErr a x ≠ 0) ∧
      (slice x 0 4 ≠ [0x54, 0x56, 0x46, 0x57] → fwErr a x = 1)) ∧
    (a.sup.mode = .boot → a.sup.fwOk = true → exec (.serdesAndPcieRailsUp t) s = .next { a with sup := { a.sup with
      railsUp := true, reqs := a.sup.reqs ++ [{ rank := 90, goTo := .configure, cause := 90 }] } }) ∧
    (a.sup.fwOk = false → exec (.serdesAndPcieRailsUp t) s = .next { a with sup := { a.sup with railsUp := true } })

/-! ### The Trust Block -/

/-- R406 to R408, R412, R413, R419, R421: an operation of TR_CTRL is BUSY while another runs; each of the others is refused with the
result its rule names, or has its effect; TR_XFER is cleared after every `op`. (The model's choices: log 7, log 21.) -/
def Obligations.TrustOperationsAnswerTheirResult : Prop :=
  ∀ (t : Gts) (m : Master) (arg : Byte) (s : State),
    let a := s.advance t
    let g := begun m a
    let life := a.fuses.lifecycle
    let i := arg.toNat
    let runs := a.sup.mode = .configure ∨ a.sup.mode = .service ∨ a.sup.mode = .sheltered
    let answers (c : Instr) (r : Nat) : Prop := exec c s = .next { g with trust := { a.trust with result := r, xfer := [] } }
    /- the operation answers OK, and `P` holds of what changed: the fuses, the Trust Block and what an event leaves -/
    let works (c : Instr) (P : State → Prop) : Prop := Does c s fun z =>
      z = { g with fuses := z.fuses, trust := z.trust, log := z.log, regs := z.regs, msix := z.msix } ∧ z.trust.result = 0 ∧
      z.trust.xfer = [] ∧ z.trust.rejects = a.trust.rejects ∧ P z
    let slot := tgets 0 a.trust.xfer 0 64
    let kek := tgets 0 a.trust.xfer 0 32
    allows m baseTR true a = true → m ≠ .debug ∨ a.trust.level = 2 →
    (a.trust.busyOp ≠ 0 → ∀ c ∈ [Instr.attest t m, .openSession t m, .closeSession t m, .progSlot t m arg, .progKek t m arg,
      .advance t m arg, .provision t m arg, .deploy t m arg, .flashPass t m], answers c 1) ∧
    (a.trust.busyOp = 0 →
      (a.trust.idErased = true → answers (.attest t m) 7) ∧
      (a.trust.idErased = false → works (.attest t m) fun z =>
        z.trust.busyOp = 1 ∧ z.fuses = a.fuses ∧ z.log = a.log ∧ z.trust.snap = reportBody g ∧
        slice z.trust.snap 0 8 = [0x54, 0x41, 0x54, 0x54, 1, 0, 0x40, 0x0E] ∧ slice z.trust.snap 0x10 8 = toLe 8 a.fuses.rollback ∧
        slice z.trust.snap 0x30 8 = toLe 8 a.now) ∧
      (1 < life → answers (.progSlot t m arg) 7 ∧ answers (.progKek t m arg) 7) ∧
      (life ≤ 1 → 3 < i → answers (.progSlot t m arg) 8) ∧
      (life ≤ 1 → i ≤ 3 → tget [] a.fuses.slots i ≠ [] → answers (.progSlot t m arg) 7) ∧
      (life ≤ 1 → i ≤ 3 → tget [] a.fuses.slots i = [] → allZero slot = false → works (.progSlot t m arg) fun z =>
        tget [] z.fuses.slots i = slot ∧ (∀ j, j ≠ i → tget [] z.fuses.slots j = tget [] a.fuses.slots j) ∧
        z.fuses = { a.fuses with slots := z.fuses.slots } ∧ Logs a z 16 0x1009 [i, 0]) ∧
      (life ≤ 1 → i = 0 ∨ 3 < i → answers (.progKek t m arg) 8) ∧
      (life ≤ 1 → 1 ≤ i → i ≤ 3 → tget [] a.fuses.keks i ≠ [] → answers (.progKek t m arg) 7) ∧
      (life ≤ 1 → 1 ≤ i → i ≤ 3 → tget [] a.fuses.keks i = [] → allZero kek = false → works (.progKek t m arg) fun z =>
        tget [] z.fuses.keks i = kek ∧ (∀ j, j ≠ i → tget [] z.fuses.keks j = tget [] a.fuses.keks j) ∧
        z.fuses = { a.fuses with keks := z.fuses.keks } ∧ z.log = a.log) ∧
      (life ≠ 0 ∨ ¬ runs → answers (.advance t m arg) 7) ∧
      (life = 0 → runs →
        i ≤ a.fuses.rollback ∨ 64 < i ∨ a.trust.fwSec < i ∨ (a.cfg.built = true ∧ a.cfg.hdr.secVersion < i) →
        answers (.advance t m arg) 8) ∧
      (life = 0 → runs → a.fuses.rollback < i → i ≤ 64 → i ≤ a.trust.fwSec → a.cfg.built = false ∨ i ≤ a.cfg.hdr.secVersion →
        works (.advance t m arg) fun z => z.fuses = a.fuses ∧ z.log = a.log ∧
          ∀ u : Gts, a.gts ≤ u → (z.advance u).fuses.rollback = min i (a.fuses.rollback + (u.toNat - a.now) / 400000)) ∧
      (arg ≠ 0x5A → answers (.provision t m arg) 9 ∧ answers (.deploy t m arg) 9) ∧
      (arg = 0x5A →
        (life ≠ 0 ∨ tget [] a.fuses.slots 0 = [] → answers (.provision t m arg) 7) ∧
        (life = 0 → tget [] a.fuses.slots 0 ≠ [] → works (.provision t m arg) fun z =>
          z.fuses = { a.fuses with lifecycle := 1 } ∧ Logs a z 16 0x1006 [0, 1]) ∧
        (life ≠ 1 → answers (.deploy t m arg) 7) ∧
        (life = 1 → works (.deploy t m arg) fun z => z.fuses = { a.fuses with lifecycle := 2 } ∧ Logs a z 16 0x1006 [1, 2])) ∧
      (m ≠ .spi ∨ a.sup.mode ≠ .boot ∨ a.sup.bootErr = 0 → answers (.flashPass t m) 7) ∧
      (m = .spi → a.sup.mode = .boot → a.sup.bootErr ≠ 0 → works (.flashPass t m) fun z =>
        z.trust.flashPass = true ∧ z.fuses = a.fuses ∧ z.log = a.log)) ∧
    (arg ≠ 0x5A → answers (.lockdown t m arg) 9) ∧
    (arg = 0x5A → m ≠ .host → m ≠ .spi → answers (.lockdown t m arg) 7) ∧
    (arg = 0x5A → m = .host ∨ m = .spi → a.sup.mode ≠ .off → a.sup.mode ≠ .standby → a.sup.mode ≠ .lockdown →
      Does (.lockdown t m arg) s fun z =>
        z.sup.mode = .lockdown ∧ z.trust.level = 0 ∧ z.trust.idErased = true ∧ z.trust.xfer = [] ∧ z.ce.ctxs = [] ∧
        (∀ j, kekUsable z j = false) ∧ { gts := a.now, source := 16, code := 0x1008, d := [0] } ∈ z.log.fresh)

/-- R400, R409 to R411, R414 to R419: a certificate is checked in order and the sixteenth refusal is Lockdown; one that passes has its
effect; sessions open where lifecycle and mode allow and end by CLOSE or expiry; an INVASIVE session of a Deployed device waits
for the end of the zeroization; a fuse integrity failure and the glitch detector are Lockdown; a report is signed once the
identity is ready. (The model's choices: log 5, log 7, log 21.) -/
def Obligations.CertificatesSessionsAndLockdown : Prop :=
  ∀ (t : Gts) (m : Master) (s : State),
    let a := s.advance t
    let life := a.fuses.lifecycle
    let mode := a.sup.mode
    let awake := mode = .configure ∨ mode = .calibrate ∨ mode = .service ∨ mode = .sheltered ∨ mode = .reconfigure
    let observable := awake ∨ mode = .test ∨ mode = .recovery
    let lockedDown (trigger : Nat) (z : State) : Prop :=
      z.sup.mode = .lockdown ∧ z.sup.prev = mode ∧ z.trust.level = 0 ∧ z.trust.busyOp = 0 ∧ z.trust.idErased = true ∧
      z.trust.zeroized = true ∧ z.ce.ctxs = [] ∧ z.ce.sas = [] ∧ z.ce.saves = [] ∧ z.ce.xfer = [] ∧ z.trust.xfer = [] ∧
      (∀ j, kekUsable z j = false) ∧ z.gts = a.gts ∧ FusesAdvance a.fuses z.fuses ∧ z.fuses.slots = a.fuses.slots ∧
      { gts := a.now, source := 16, code := 0x1008, d := [trigger] } ∈ z.log.fresh
    /- a refusal of a certificate that is not the sixteenth -/
    let refused (r : Nat) (src : Master) (z : State) : Prop :=
      z.trust.result = r ∧ z.trust.rejects = a.trust.rejects + 1 ∧ z.fuses = a.fuses ∧ z.trust.level = a.trust.level ∧
      z.sup = a.sup ∧ Logs a z 16 0x1002 [r, srcOf src]
    let opened (level : Nat) (left : Option Nat) (z : State) : Prop :=
      z.trust.level = level ∧ z.trust.sessEnd = left ∧ z.sup.mode = mode ∧
      { gts := a.now, source := 16, code := 0x1003, d := [level] } ∈ z.log.fresh ∧
      (level = 2 → mode ≠ .debug → z.sup.reqs = a.sup.reqs ++ [{ rank := 70, goTo := .debug, cause := 70 }])
    (allows m baseTR true a = true →
      (let c := tgets 0 a.trust.xfer 0 5472
       let early := certEarly (begun m a) c
       (early ≠ 0 → a.trust.rejects < 15 → Does (.present t m) s fun z =>
         refused early m z ∧ z.trust.nonceN = a.trust.nonceN + 1 ∧ z.trust.xfer = [] ∧ z.trust.busyOp = a.trust.busyOp) ∧
       (early ≠ 0 → a.trust.rejects = 15 → mode ≠ .off → mode ≠ .standby → mode ≠ .lockdown →
         Does (.present t m) s (lockedDown 2)) ∧
       (early = 0 → a.trust.busyOp = 0 → Does (.present t m) s fun z =>
         z.trust = { a.trust with busyOp := 2, cert := c, certSrc := m, result := 0, nonceN := a.trust.nonceN + 1, xfer := [] } ∧
         z.fuses = a.fuses ∧ z.log = a.log)) ∧
      (a.trust.busyOp = 0 →
        (life = 0 → awake ∨ (mode = .debug ∧ a.trust.level = 0) → Does (.openSession t m) s fun z => opened 2 none z ∧
          z.trust.result = 0) ∧
        (life = 0 → mode = .test ∨ mode = .recovery → Does (.openSession t m) s fun z => opened 1 none z ∧ z.trust.result = 0) ∧
        (life = 1 → observable → Does (.openSession t m) s fun z => opened 1 none z ∧ z.trust.result = 0) ∧
        (2 ≤ life → Does (.openSession t m) s fun z => z.trust.result = 7 ∧ z.trust.level = a.trust.level ∧ z.log = a.log) ∧
        (a.trust.level = 0 → Does (.closeSession t m) s fun z => z.trust.result = 7 ∧ z.log = a.log) ∧
        (a.trust.level ≠ 0 → Does (.closeSession t m) s fun z =>
          z.trust.result = 0 ∧ z.trust.level = 0 ∧ z.sup.mode = mode ∧ Logs a z 16 0x1004 [1]))) ∧
    (a.trust.sessEnd = none → Idles (.debugClose t) t s) ∧
    (∀ e, a.trust.sessEnd = some e → (a.now < e → Idles (.debugClose t) t s) ∧
      (e ≤ a.now → a.trust.level ≠ 0 → Does (.debugClose t) s fun z =>
        z.trust.level = 0 ∧ z.trust.sessEnd = none ∧ z.sup.mode = mode ∧ Logs a z 16 0x1004 [0])) ∧
    (∀ ok, a.trust.busyOp ≠ 2 ∨ a.trust.cert = [] ∨ ok ≠ certVerdict a.trust.cert → Idles (.certAccept t ok) t s) ∧
    (a.trust.busyOp = 2 → a.trust.cert ≠ [] →
      let c := a.trust.cert
      let arg := certArg c
      let src := a.trust.certSrc
      let takes (P : State → Prop) : Prop := Does (.certAccept t (certVerdict c)) s fun z => certVerdict c = true →
        z.trust.result = 0 ∧ z.trust.rejects = a.trust.rejects ∧ z.trust.cert = [] ∧
        { gts := a.now, source := 16, code := 0x1001, d := [certKind c, certSigner c] } ∈ z.log.fresh ∧ P z
      (a.trust.rejects < 15 → Does (.certAccept t (certVerdict c)) s fun z =>
        certVerdict c = false → refused 6 src z ∧ z.trust.busyOp = 0 ∧ z.trust.cert = []) ∧
      (certLate a c ≠ 0 → a.trust.rejects < 15 → Does (.certAccept t (certVerdict c)) s fun z =>
        certVerdict c = true → refused (certLate a c) src z ∧ z.trust.busyOp = 0) ∧
      (certKind c = 1 → life < 2 ∨ ¬ observable → certLate a c = 7) ∧
      (certKind c = 3 → life = 1 ∨ life = 2 → 3 < arg → certLate a c = 8) ∧
      (certKind c = 4 → life = 1 ∨ life = 2 → arg ≤ 3 → (∀ j, j < 4 → (slotLive a j = true ↔ j = arg)) → certLate a c = 10) ∧
      (certLate a c = 0 →
        (certKind c = 1 → takes fun z => opened 1 (some (a.now + arg * sec)) z ∧ z.fuses = a.fuses) ∧
        (certKind c = 2 → life ≠ 2 → takes fun z => opened 2 (some (a.now + arg * sec)) z ∧ z.fuses = a.fuses) ∧
        (certKind c = 2 → life = 2 → takes fun z =>
          z.trust.level = a.trust.level ∧ z.trust.zeroizing = true ∧ z.trust.busyOp = 2 ∧ z.trust.pendInv = some arg ∧
          z.ce.ctxs = [] ∧ (∀ j, kekUsable z j = false) ∧ z.fuses = a.fuses) ∧
        (certKind c = 3 → allZero (slice c 0x70 64) = false → takes fun z =>
          tget [] z.fuses.slots arg = slice c 0x70 64 ∧ FusesAdvance a.fuses z.fuses) ∧
        (certKind c = 4 → takes fun z =>
          z.fuses.revoked.getLsbD arg = true ∧ (∀ j, j ≠ arg → z.fuses.revoked.getLsbD j = a.fuses.revoked.getLsbD j) ∧
          { gts := a.now, source := 16, code := 0x1009, d := [arg, 1] } ∈ z.log.fresh) ∧
        (certKind c = 5 → takes fun z =>
          z.trust.busyOp = 7 ∧ z.trust.advTo = arg ∧ z.trust.advFrom = a.now ∧ z.trust.advOld = a.fuses.rollback ∧
            z.fuses = a.fuses) ∧
        (certKind c = 6 → takes fun z =>
          z.fuses.lifecycle = 3 ∧ z.fuses.kekOff = 7 ∧ z.fuses.revoked = 15 ∧ z.ce.ctxs = [] ∧ z.trust.zeroizing = true))) ∧
    (a.trust.zeroizing = false → Idles (.zeroizeComplete t) t s) ∧
    (a.trust.zeroizing = true →
      (a.trust.pendInv = none → exec (.zeroizeComplete t) s = .next { a with trust := { a.trust with zeroizing := false } }) ∧
      (∀ n, a.trust.pendInv = some n → awake → Does (.zeroizeComplete t) s fun z =>
        opened 2 (some (a.now + n * sec)) z ∧ z.trust.zeroizing = false ∧ z.trust.busyOp = 0 ∧ ∀ j, a.trust.kekDown = true →
          kekUsable z j = false)) ∧
    Idles (.fuseCheck t false) t s ∧
    (mode ≠ .off → mode ≠ .standby → mode ≠ .lockdown →
      Does (.fuseCheck t true) s (lockedDown 1) ∧ Does (.glitchDetect t) s (lockedDown 3)) ∧
    (exec (.idReady t) s = .next { a with trust := { a.trust with idReady := a.trust.idReady || !a.trust.idErased } }) ∧
    (∀ sig, (a.trust.busyOp ≠ 1 ∨ a.trust.idReady = false → Idles (.reportReady t sig) t s) ∧
      (a.trust.busyOp = 1 → a.trust.idReady = true → sig.length = 3309 →
        let block : List Byte := [0x4B, 0x53, 0x49, 0x47, 0x65, 0, 0xED, 0x0C] ++ List.replicate 8 0 ++ sig ++ List.replicate 3 0
        exec (.reportReady t sig) s =
          .next { a with trust := { a.trust with busyOp := 0, snap := [], report := a.trust.snap ++ block } })) ∧
    (a.trust.busyOp ≠ 7 ∨ a.fuses.rollback < a.trust.advTo → Idles (.fuseOperationDone t) t s) ∧
    (a.trust.busyOp = 7 → a.trust.advTo ≤ a.fuses.rollback → Does (.fuseOperationDone t) s fun z =>
      z.trust = { a.trust with busyOp := 0, result := 0 } ∧ z.fuses = a.fuses ∧
      Logs a z 16 0x1007 [a.trust.advOld, a.fuses.rollback])

/-! ### DMA and coded rings -/

/-- R124, R430 to R436: TAIL never covers more than the ring; a receive frame fills descriptors in order, HEAD passes them in one
step, and it is truncated when they run out; a transmit chain becomes one item; coded frames are placed before their time, or
returned LATE or FORMAT; a ring signals after `coal_n` or `coal_us`; a DMA error disables its ring; a ring bound to a queue that
is not the host's is refused. (The model's choices: log 7, log 26.) -/
def Obligations.RingsMoveItemsAndFrames : Prop :=
  ∀ (t : Gts) (r : Fin 16) (s : State),
    let a := s.advance t
    let x := a.ring r.val
    let M := ringMod a r.val
    let works := ringOn a r.val = true ∧ hostUp a = true
    let others (z : State) : Prop := ∀ j, j ≠ r.val → z.ring j = a.ring j
    /- the queue refuses the host, and neither it nor a ring changes -/
    let rogue (kind : Nat) (z : State) : Prop :=
      let q := ringQueue a r.val
      (∀ j, z.queue j = a.queue j) ∧ z.host = a.host ∧ Counted a z (qCtr q 6) 1 ∧
      { gts := a.now, source := 6, code := 0x605, d := [q, 13 * 65536 + kind] } ∈ z.log.fresh
    /- the descriptors `ds` were written back and HEAD passed them; nothing is owned by an open chain -/
    let returned (ds : List (List Byte)) (data : List Byte) (z : State) : Prop :=
      z.ring r.val = { x with head := (x.head + ds.length) % M, wb := x.wb + ds.length, dmaOut := ds, dmaData := data,
                              wbFrom := (if x.wb = 0 then a.now + 1 else x.wbFrom), chain := none, chainDescs := [], overOn := false } ∧
      others z
    (∀ (m : Master) (v : Word), allows m (ringReg r.val 0xC) true a = true →
      let i := v.toNat % 8192
      let n := (i % M + M - x.head % M) % M
      (n ≤ 2 ^ ringLog a r.val → exec (.tailWrite t m r v) s = .next ((begun m a).setRing r.val { x with tail := i })) ∧
      (2 ^ ringLog a r.val < n → Does (.tailWrite t m r v) s fun z =>
        z.ring r.val = x ∧ others z ∧ Logs a z 13 0xD02 [r.val, 0])) ∧
    (∀ n, (x.wb = 0 ∨ (x.wb < ringN a r.val ∧ a.now < x.wbFrom - 1 + ringUs a r.val * 4000) → Idles (.ringSignal t r) t s) ∧
      (x.wb = n + 1 → ringN a r.val ≤ x.wb ∨ x.wbFrom - 1 + ringUs a r.val * 4000 ≤ a.now → Does (.ringSignal t r) s fun z =>
        z.ring r.val = { x with wb := 0, wbFrom := 0 } ∧ others z ∧ tget 0 z.msix r.val = tget 0 a.msix r.val + 1 ∧
        z = { a with host := z.host, msix := z.msix })) ∧
    (∀ (descs : List Desc) (d : List Byte), r.val < 8 → works → ringCoded a r.val = false → qDesc a (ringQueue a r.val) = some d →
      let q := ringQueue a r.val
      let y := a.queue q
      let it := tget {} y.slots (y.rd % qSlots d)
      let caps := ((descs.take (min (owned a r.val) descs.length)).map fun e => e.len.toNat).sum
      y.coming = [] → y.popStall = false → y.push = none → y.out = [] → y.pfcOn = false → x.chain = none → x.chainDescs = [] →
        x.overOn = false →
      (0 < owned a r.val → descs ≠ [] → qCons d ≠ 13 → Does (.rxRingDeliver t r descs) s (rogue 1)) ∧
      (owned a r.val = 0 ∨ descs = [] → Idles (.rxRingDeliver t r descs) t s) ∧
      (0 < owned a r.val → descs ≠ [] → qCons d = 13 → 0 < qDepth d y → Does (.rxRingDeliver t r descs) s fun z =>
        z.queue q = { y with rd := (y.rd + 1) % qMod d, drpNext := false, popBusy := false, flushPop := false } ∧ OnlyQueue q a z ∧
        returned (z.ring r.val).dmaOut (it.data.take caps) z ∧
        1 ≤ (z.ring r.val).dmaOut.length ∧ (z.ring r.val).dmaOut.length ≤ min (owned a r.val) descs.length ∧
        Counted a z (baseHP + 0x200) 1 ∧
        (it.data.length ≤ caps → Counted a z (baseHP + 0x204) 0 ∧ z.log = a.log) ∧
        (caps < it.data.length → Counted a z (baseHP + 0x204) 1 ∧ Counted a z (baseHP + 0x208) (it.data.length - caps) ∧
          Logs a z 13 0xD01 [r.val, it.data.length]) ∧
        (∀ e, descs = [e] →
          let overOn := decide (e.len.toNat < it.data.length)
          (z.ring r.val).dmaOut = [writeBack it.gts (min e.len.toNat it.data.length) it.data.length it.src
            (3 + b2n it.err * 16 + b2n (it.drp || y.drpNext) * 32 + b2n overOn * 64 + it.tclass * 256) (b2n overOn)]))) ∧
    (∀ (e : Desc) (data d : List Byte), 8 ≤ r.val → works → ringCoded a r.val = false → qDesc a (ringQueue a r.val) = some d →
      let q := ringQueue a r.val
      let y := a.queue q
      qPfc d = false → qBusy y = false → y.popStall = false → y.coming = [] → qOcc d y < qSlots d → qDepth d y < qSlots d →
        0 < owned a r.val → x.chain = none → x.chainDescs = [] → x.overOn = false →
      let it : Item := { src := 13, tclass := fld e.flags.toNat 7 5, gts := a.now, data := data.take (qCap d),
                         err := e.flags.getLsbD 4 || decide (qCap d < data.length) }
      (qProd d ≠ 13 → Does (.txRingPush t r [e] data) s (rogue 0)) ∧ (qProd d = 13 →
      (e.flags.getLsbD 0 = false → Does (.txRingPush t r [e] data) s fun z =>
        returned [writeBack a.now e.len.toNat 0 0 (backFlags e) 4] [] z ∧ (∀ j, z.queue j = a.queue j) ∧
          Logs a z 13 0xD02 [r.val, 1]) ∧
      (e.flags.getLsbD 0 = true → e.flags.getLsbD 1 = true → Does (.txRingPush t r [e] data) s fun z =>
        returned [writeBack a.now e.len.toNat 0 0 (backFlags e) (if qCap d < data.length then 2 else 0)] [] z ∧
        (z.queue q).w = (y.w + 1) % qMod d ∧ (z.queue q).push = none ∧ OnlyQueue q a z ∧ z.log = a.log ∧
        tget {} (z.queue q).slots (y.w % qSlots d) = { it with drp := y.dropPend } ∧
        Counted a z (baseHP + 0x20C) 1 ∧ Counted a z (baseHP + 0x210) (if qCap d < data.length then 1 else 0)) ∧
      (e.flags.getLsbD 0 = true → e.flags.getLsbD 1 = false → Does (.txRingPush t r [e] data) s fun z =>
        (z.ring r.val).chainDescs = [e] ∧ (z.ring r.val).head = x.head ∧ (z.ring r.val).chain = (z.queue q).push ∧ others z ∧
        (z.queue q).push = some { it with err := e.flags.getLsbD 4 } ∧ (z.queue q).w = y.w ∧ OnlyQueue q a z ∧ z.log = a.log))) ∧
    (∀ (e : Desc) (data : List Byte), 8 ≤ r.val → works → ringCoded a r.val = true → 0 < owned a r.val → x.chain = none →
      x.chainDescs = [] → x.overOn = false →
      let slot := e.slot.toNat
      let held := tget [] a.host.coded slot
      let first := extendEll a e.ell.toNat
      let lost := e.flags.getLsbD 2
      let bytes := if lost then [] else data.take e.len.toNat
      let back (late code : Nat) : List (List Byte) := [writeBack a.now bytes.length 0 0 (backFlags e + late * 128) code]
      (held.length = 4 → Idles (.codedPlace t r e data) t s) ∧
      (held.length < 4 → (r.val, slot) ∉ codedNow a ∨ codecOf a slot = none ∨ (held.any fun y => y.first == first) = true →
        Does (.codedPlace t r e data) s fun z =>
          returned (back 0 4) [] z ∧ z.host.coded = a.host.coded ∧ Logs a z 13 0xD02 [r.val, 1]) ∧
      (∀ kind f phase, held.length < 4 → (r.val, slot) ∈ codedNow a → codecOf a slot = some (kind, f, phase) → first % f = phase →
        (held.any fun y => y.first == first) = false → lost = true ∨ (kind = 4 ∧ 1 ≤ e.len.toNat ∧
          e.len.toNat ≤ min 1275 (15 * f)) ∨
          (kind ≠ 4 ∧ e.len.toNat = f) → e.flags.getLsbD 3 = false ∨ kind = 4 →
        (a.now + 40000 < a.startOf first → Does (.codedPlace t r e data) s fun z =>
          returned (back 0 0) [] z ∧ (∀ j, j ≠ slot → tget [] z.host.coded j = tget [] a.host.coded j) ∧ z.log = a.log ∧
          tget [] z.host.coded slot = held ++ [{ first := first, data := bytes, lost := lost, fec := e.flags.getLsbD 3 }]) ∧
        (a.startOf first ≤ a.now + 40000 → Does (.codedPlace t r e data) s fun z =>
          returned (back 1 3) [] z ∧ z.host.coded = a.host.coded ∧ Counted a z (baseHP + 0x214) 1 ∧
          (tget 0 a.host.codedEll slot ≠ a.ell + 1 → Logs a z 13 0xD04 [slot, a.ell % 2 ^ 32]) ∧
          (tget 0 a.host.codedEll slot = a.ell + 1 → z.log = a.log)))) ∧
    (∀ (v : BitVec 14) (e : Desc), r.val < 8 → works → ringCoded a r.val = true → 0 < owned a r.val →
      (r.val, v.toNat) ∈ codedNow a →
      x.chain = none → x.chainDescs = [] → x.overOn = false →
      ((tget {} a.host.codedOut v.toNat).ready = [] → Idles (.codedDeliver t r v e) t s) ∧
      (∀ f rest, (tget {} a.host.codedOut v.toNat).ready = f :: rest → Does (.codedDeliver t r v e) s fun z =>
        returned [writeBack (f.first % 2 ^ 48) (min e.len.toNat f.data.length) f.data.length v.toNat
          (3 + b2n f.lost * 4 + b2n f.fec * 8 + b2n f.err * 16) 0] (f.data.take e.len.toNat) z ∧
        tget {} z.host.codedOut v.toNat = { tget {} a.host.codedOut v.toNat with ready := rest } ∧ z = { a with host := z.host })) ∧
    (∀ st, (ringOn a r.val = false → Idles (.dmaErr t r st) t s) ∧
      (ringOn a r.val = true → Does (.dmaErr t r st) s fun z =>
        ringOn z r.val = false ∧ (∀ j, j ≠ r → ringOn z j.val = ringOn a j.val) ∧ ringQueue z r.val = ringQueue a r.val ∧
        ringLog z r.val = ringLog a r.val ∧ z.host = a.host ∧ Counted a z (baseHP + 0x218) 1 ∧
        Logs a z 13 0xD03 [r.val, match st with | .ur => 0 | .ca => 1 | .timeout => 2]))

/-! ### Local ports and Test mode -/

/-- R438, R439, R445, R393: a local input locks after 64 valid frames, slips when its FIFO leaves its range, substitutes samples with
parity errors and unlocks after two silent frame periods; the operations of HP_TEST run in Test alone, one at a time. (The model's
choices: log 3, log 7, log 36.) -/
def Obligations.LocalInputsLockAndTestsRun : Prop :=
  ∀ (t : Gts) (s : State),
    let a := s.advance t
    (∀ (port : Byte), a.recNow tyLOCAL port.toNat = none → (∀ ss cs, Idles (.localFrame t port ss cs) t s) ∧
      Idles (.lpUnlock t port) t s) ∧
    (∀ (port : Byte) (b : List Byte), a.recNow tyLOCAL port.toNat = some b →
      let p := port.toNat
      let x := a.lport p
      let m := nearSample a b
      let silent := 8000000000 ≤ (a.now - x.lastFrame) * lpHz b
      let others (z : State) : Prop := ∀ j, j ≠ p → z.lport j = a.lport j
      (∀ ss cs, isAudio p = true → isAesOut p = false → lpMode b ≠ 0 → x.loopback = false → a.sup.passThru = false →
        (isAesIn p = false →
          let f := (ss.map fun e => BitVec.ofNat 32 (e.v.toNat * 256)).take (lpChans b)
          let y := { x with lastFrame := a.now, last := f, run := x.run + 1 }
          (x.locked = false → ¬ silent → x.run + 1 < 64 → exec (.localFrame t port ss cs) s = .next (a.setLport p y)) ∧
          (x.locked = false → silent → exec (.localFrame t port ss cs) s = .next (a.setLport p { y with run := 1 })) ∧
          (x.locked = false → ¬ silent → 64 ≤ x.run + 1 → Does (.localFrame t port ss cs) s fun z =>
            z.lport p = { y with locked := true, fifo := [f], idx := m + 1 } ∧ others z ∧ Logs a z 14 0xE01 [p]) ∧
          (x.locked = true → ¬ silent → lpMode b = 1 →
            (m ≤ x.idx + 3 → x.idx ≤ m + 3 →
              exec (.localFrame t port ss cs) s = .next (a.setLport p { y with fifo := x.fifo ++ [f], idx := x.idx + 1 })) ∧
            (m + 3 < x.idx → Does (.localFrame t port ss cs) s fun z =>
              (z.lport p).idx = x.idx ∧ (z.lport p).fifo.length = x.fifo.length ∧ others z ∧ Counted a z (baseHP + 0x224) 1 ∧
              Logs a z 14 0xE03 [p, 0]) ∧
            (x.idx + 3 < m → Does (.localFrame t port ss cs) s fun z =>
              z.lport p = { y with fifo := x.fifo ++ [f, f.map (· ||| 0x40)], idx := x.idx + 2 } ∧ others z ∧
              Counted a z (baseHP + 0x224) 1 ∧ Logs a z 14 0xE03 [p, 1])) ∧
          (x.locked = true → ¬ silent → lpMode b ≠ 1 → Does (.localFrame t port ss cs) s fun z =>
            z.lport p = y ∧ others z ∧ z.log = a.log ∧ z = { a with host := z.host, rc := z.rc })) ∧
        (isAesIn p = true → ∀ l k, ss = [l, k] → lpChans b = 2 → ¬ silent → x.locked = false → x.run + 1 < 64 →
          let cont (e : LocalSample) (i : Nat) : Word :=
            if e.parityBad then x.last.getD i 0 ||| 0x40 else BitVec.ofNat 32 (e.v.toNat * 256) ||| (if e.vbit then 0x40 else 0)
          Does (.localFrame t port ss cs) s fun z =>
            (z.lport p).last = [cont l 0, cont k 1] ∧ (z.lport p).run = x.run + 1 ∧ (z.lport p).locked = false ∧
            (z.lport p).cs = cs.getD x.cs ∧ others z ∧ Counted a z (baseHP + 0x228) (b2n l.parityBad + b2n k.parityBad) ∧
            (l.parityBad = true ∨ k.parityBad = true → x.parEll ≠ a.ell + 1 → Logs a z 14 0xE05 [p]) ∧
            ((l.parityBad = false ∧ k.parityBad = false) ∨ x.parEll = a.ell + 1 → z.log = a.log))) ∧
      (isAudio p = false ∨ isAesOut p = true ∨ lpMode b = 0 ∨ x.loopback = true → ∀ ss cs, Idles (.localFrame t port ss cs) t s) ∧
      (x.locked = false ∨ ¬ silent → Idles (.lpUnlock t port) t s) ∧
      (x.locked = true → silent → Does (.lpUnlock t port) s fun z =>
        z.lport p = { x with locked := false, run := 0, fifo := [] } ∧ others z ∧
        { gts := a.now, source := 14, code := 0xE02, d := [p] } ∈ z.log.fresh)) ∧
    (∀ (m : Master) (arg : Byte), allows m (baseHP + 0x10) true a = true →
      let g := begun m a
      let result (r : Nat) (z : State) : State := { z with host := { z.host with testResult := r, testItem := 0 } }
      let running (op : Nat) (z : State) : Prop := z.host.testOp = op ∧ z.host.testResult = 4 ∧ z.host.testItem = 0
      let ops : List Instr := [.bistSram t m, .bistLanes t m, .bistCore t m arg, .pcsLoopback t m arg, .localLoopback t m, .endLoopbacks t m]
      (a.sup.mode ≠ .test → ∀ c ∈ ops, exec c s = .next (result 2 g)) ∧
      (a.sup.mode = .test → a.host.testOp ≠ 0 → ∀ c ∈ ops, exec c s = .next (result 3 g)) ∧
      (a.sup.mode = .test → a.host.testOp = 0 →
        (Does (.bistSram t m) s fun z => running 1 z ∧ z.regs = a.regs ∧ z.sup = a.sup ∧ z.em = {} ∧ z.ha.mem = [] ∧
          z.ha.prog = [] ∧
          z.mf.coef = [] ∧ z.ce.ctxs = [] ∧ z.queues = []) ∧
        (Does (.bistLanes t m) s fun z => running 2 z ∧ z = { g with host := z.host }) ∧
        (Does (.bistCore t m arg) s fun z => running 3 z ∧ z = { g with host := z.host }) ∧
        (Does (.pcsLoopback t m arg) s fun z => z.host.testResult = 0 ∧ z.host.testOp = 0 ∧
          z.port (arg.toNat % 4) = { a.port (arg.toNat % 4) with loopback := true } ∧ OnlyPort (arg.toNat % 4) a z) ∧
        (Does (.localLoopback t m) s fun z => z.host.testResult = 0 ∧ z.ports = a.ports ∧
          ∀ e, e ∈ recsOf a.cfg.recs tyLOCAL → isAudio e.1 = true → (z.lport e.1).loopback = true) ∧
        (Does (.endLoopbacks t m) s fun z => z.host.testResult = 0 ∧ (∀ j, j < 4 → (z.port j).loopback = false) ∧
          ∀ p, (z.lport p).loopback = false))) ∧
    (∀ ok (item : Byte),
      (a.sup.mode ≠ .boot → a.host.testOp = 0 → Idles (.testDone t ok item) t s) ∧
      (a.sup.mode ≠ .boot → a.host.testOp ≠ 0 → exec (.testDone t ok item) s = .next { a with host :=
        { a.host with testOp := 0, testResult := if ok then 0 else 1, testItem := if ok then 0 else item.toNat } }) ∧
      (a.sup.mode = .boot → exec (.testDone t true item) s = .next { a with sup :=
        { a.sup with ceRetired := 0, czRetired := 0, rcSpare := 0, scSpare := 0, mfSpare := 0 } }) ∧
      (a.sup.mode = .boot → item.toNat = 7 → Does (.testDone t false item) s fun z =>
        z.sup = { a.sup with czRetired := 0, rcSpare := 0, scSpare := 0, mfSpare := 0 } ∧
        (∀ l, l < 16 → bit a.sup.ceRetired l = true → { gts := a.now, source := 15, code := 0xF47, d := [7, l, 0] } ∈ z.log.fresh)))

/-! ### The device as a whole -/

/-- R26: a step takes the command at the front of the queue and runs it with the rest of the queue; with an empty queue the device
idles. (The model's choices: log 1.) -/
def Obligations.StepRunsTheFrontCommand : Prop :=
  ∀ (c : Instr) (rest : List Instr) (s : State),
    step { s with pending := c :: rest } = exec c { s with pending := rest } ∧
    step { s with pending := [] } = .next { s with pending := [] }

/-- R334, R404, R408: whatever command is at the front, and in every state, a step completes; it takes that command alone from the
queue; GTS never runs back but at the two power-on resets, which restart it from zero; and the fuse array only advances: no bit of
the lifecycle, the rollback count, the key slots, the KEKs or the revocations ever returns to zero. (The model's choices: log 1.) -/
def Obligations.EveryStepCompletesAndOnlyAdvancesFuses : Prop :=
  ∀ (c : Instr) (rest : List Instr) (s : State), s.pending = c :: rest →
    ∃ z, step s = .next z ∧ z.pending = rest ∧ FusesAdvance s.fuses z.fuses ∧
      (restarts c = false → s.gts ≤ z.gts) ∧ (restarts c = true → z.gts = 0)

/-- R6, R334, R335, R394 and the register tables of the chapters: at the release of a power-on reset the device is in Boot, GTS and
OFS are zero, no command waits, and every register holds the reset value of its table; the debug port is Closed, nothing is
configured, frozen, counted or logged. (The model's choices: log 2.) -/
def Obligations.ResetLeavesTheValuesOfTheSpec : Prop :=
  let s := State.reset
  s.gts = 0 ∧ s.tb.ofs = 0 ∧ s.sup.mode = .boot ∧ s.pending = [] ∧ s.cfg.built = false ∧ s.trust.level = 0 ∧ s.trust.rejects = 0 ∧
    s.sup.rwlLocked = false ∧ s.sup.frozen = [] ∧ s.log.fresh = [] ∧ (∀ off, s.ctr off = 0) ∧
    (∀ off, s.reg off = (regInit off).toNat) ∧
    (∀ e ∈ [(0x4000C, 0x60000018), (0x40010, 0xFAC688), (0x40034, 0x9F01), (0x40038, 0x271007D0), (0x4003C, 0x7F7F7F),
      (0x40040, 0x5F2), (0x40048, 0x140640), (0x4C00C, 0x60000018), (0x4C040, 0x5F2), (0x80000, 0x41F40), (0x80004, 0x7F),
      (0x80008, 0x7F7F), (0xF0010, 0x20000109), (0xF0014, 0x1F40), (0xD0020, 0x80000000), (0xD0028, 0x10000000), (0x30004, 0x320283E8),
      (0x30008, 0xF42400C8), (0x3000C, 0x640000), (0x20600, 0x10), (0x20800, 0x126610A4), (0x20804, 0x3200258), (0x20808, 0xFA050A),
      (0x2080C, 0x5786E64), (0x20810, 0x1F40), (0x20814, 0x3C010A00), (0x20818, 0x1001E), (0x2081C, 0x40), (0x20894, 0x1000000),
      (0x20A04, 0x1001E), (0x20104, 0), (0x111008, 0)], s.reg e.1 = e.2) ∧
    (∀ e ∈ [(0x0, 0x4096C412), (0x4, 2), (0x20A0C, 1), (0x10004, 0), (0x10008, 0), (0x1000C, 0), (0x20A08, 0), (0x4010C, 0), (0x30100, 0)],
      readVal s e.1 = e.2)
end

