-- ==== Sys2Proof/Laws/Tables.lean ====
section
/-! SUPPORT. The laws of the sparse tables: a read after a write, and the canonical form that every operation keeps. -/

namespace Sys2Proof.Machine

variable {α : Type}

@[simp] theorem tget_nil (d : α) (i : Nat) : tget d [] i = d := rfl

theorem tget_filter_same (d : α) (t : Tbl α) (i : Nat) : tget d (t.filter fun e => e.1 != i) i = d := by
  induction t with
  | nil => rfl
  | cons e t ih =>
    obtain ⟨k, v⟩ := e
    by_cases h : k = i
    · subst h; simpa using ih
    · have : (k != i) = true := by simpa using h
      simp only [List.filter_cons, this, if_true, tget]
      rw [if_neg (fun hh => h hh.symm)]
      exact ih

theorem tget_filter_ne (d : α) (t : Tbl α) {i j : Nat} (h : j ≠ i) : tget d (t.filter fun e => e.1 != i) j = tget d t j := by
  induction t with
  | nil => rfl
  | cons e t ih =>
    obtain ⟨k, v⟩ := e
    by_cases hk : k = i
    · subst hk
      simp only [List.filter_cons, bne_self_eq_false, Bool.false_eq_true, if_false, tget, if_neg h]
      exact ih
    · have : (k != i) = true := by simpa using hk
      simp only [List.filter_cons, this, if_true, tget, ih]

theorem tget_tins_same (d : α) (t : Tbl α) (i : Nat) (x : α) (h : ∀ e ∈ t, e.1 ≠ i) : tget d (tins i x t) i = x := by
  induction t with
  | nil => simp [tins, tget]
  | cons e t ih =>
    obtain ⟨k, v⟩ := e
    have hk : k ≠ i := h (k, v) (by simp)
    simp only [tins]
    split
    · simp [tget]
    · simp only [tget, if_neg (Ne.symm hk)]
      exact ih fun e he => h e (by simp [he])

theorem tget_tins_ne (d : α) (t : Tbl α) {i j : Nat} (x : α) (h : j ≠ i) : tget d (tins i x t) j = tget d t j := by
  induction t with
  | nil => simp [tins, tget, h]
  | cons e t ih =>
    obtain ⟨k, v⟩ := e
    simp only [tins]
    split
    · simp [tget, h]
    · simp only [tget, ih]

/-- A read of the key that was written gives the value written. -/
@[simp] theorem tget_tset_same [DecidableEq α] (d : α) (t : Tbl α) (i : Nat) (x : α) : tget d (tset d t i x) i = x := by
  simp only [tset]
  split
  · next h => rw [tget_filter_same, h]
  · exact tget_tins_same d _ i x (by simp)

/-- A write leaves every other key alone. -/
theorem tget_tset_ne [DecidableEq α] (d : α) (t : Tbl α) {i j : Nat} (x : α) (h : j ≠ i) :
    tget d (tset d t i x) j = tget d t j := by
  simp only [tset]
  split
  · exact tget_filter_ne d t h
  · rw [tget_tins_ne d _ x h, tget_filter_ne d t h]

/-- A read after a write. -/
theorem tget_tset [DecidableEq α] (d : α) (t : Tbl α) (i j : Nat) (x : α) :
    tget d (tset d t i x) j = if j = i then x else tget d t j := by
  split
  · next h => subst h; simp
  · next h => exact tget_tset_ne d t x h

theorem twfFrom_filter [DecidableEq α] (d : α) (t : Tbl α) (p : Nat × α → Bool) :
    ∀ lo, twfFrom d lo t = true → twfFrom d lo (t.filter p) = true := by
  induction t with
  | nil => intro lo _; rfl
  | cons e t ih =>
    obtain ⟨k, v⟩ := e
    intro lo h
    simp only [twfFrom, Bool.and_eq_true, decide_eq_true_eq] at h
    obtain ⟨⟨h1, h2⟩, h3⟩ := h
    have hle : ∀ (t : Tbl α) (a b : Nat), a ≤ b → twfFrom d b t = true → twfFrom d a t = true := by
      intro t a b hab ht
      cases t with
      | nil => rfl
      | cons e t =>
        obtain ⟨k', v'⟩ := e
        simp only [twfFrom, Bool.and_eq_true, decide_eq_true_eq] at ht ⊢
        exact ⟨⟨Nat.le_trans hab ht.1.1, ht.1.2⟩, ht.2⟩
    by_cases hp : p (k, v) = true
    · simp only [List.filter_cons, hp, if_true, twfFrom, Bool.and_eq_true, decide_eq_true_eq]
      exact ⟨⟨h1, h2⟩, ih _ h3⟩
    · simp only [List.filter_cons, hp]
      exact hle _ lo (k + 1) (by omega) (ih _ h3)

theorem twfFrom_tins [DecidableEq α] (d : α) (i : Nat) (x : α) (hx : x ≠ d) (t : Tbl α) :
    ∀ lo, lo ≤ i → (∀ e ∈ t, e.1 ≠ i) → twfFrom d lo t = true → twfFrom d lo (tins i x t) = true := by
  induction t with
  | nil =>
    intro lo hlo _ _
    simp only [tins, twfFrom, Bool.and_eq_true, decide_eq_true_eq, and_true]
    exact ⟨hlo, hx⟩
  | cons e t ih =>
    obtain ⟨k, v⟩ := e
    intro lo hlo hne h
    have hk : k ≠ i := hne (k, v) (by simp)
    simp only [twfFrom, Bool.and_eq_true, decide_eq_true_eq] at h
    simp only [tins]
    split
    · simp only [twfFrom, Bool.and_eq_true, decide_eq_true_eq]
      exact ⟨⟨hlo, hx⟩, ⟨by omega, h.1.2⟩, h.2⟩
    · simp only [twfFrom, Bool.and_eq_true, decide_eq_true_eq]
      exact ⟨h.1, ih (k + 1) (by omega) (fun e he => hne e (by simp [he])) h.2⟩

/-- A write keeps the canonical form. -/
theorem twf_tset [DecidableEq α] (d : α) (t : Tbl α) (i : Nat) (x : α) (h : twf d t = true) : twf d (tset d t i x) = true := by
  have hf : twf d (t.filter fun e => e.1 != i) = true := twfFrom_filter d t _ 0 h
  simp only [tset]
  split
  · exact hf
  · next hx => exact twfFrom_tins d i x hx _ 0 (Nat.zero_le i) (by simp) hf

/-- A change of one value keeps the canonical form. -/
theorem twf_tupd [DecidableEq α] (d : α) (t : Tbl α) (i : Nat) (f : α → α) (h : twf d t = true) : twf d (tupd d t i f) = true :=
  twf_tset d t i _ h

/-- Dropping entries keeps the canonical form. -/
theorem twf_tdrop [DecidableEq α] (d : α) (t : Tbl α) (p : Nat → Bool) (h : twf d t = true) : twf d (tdrop t p) = true :=
  twfFrom_filter d t _ 0 h

/-- A run of writes keeps the canonical form. -/
theorem twf_tsets [DecidableEq α] (d : α) (xs : List α) :
    ∀ (t : Tbl α) (i : Nat), twf d t = true → twf d (tsets d t i xs) = true := by
  induction xs with
  | nil => intro t i h; exact h
  | cons x xs ih => intro t i h; exact ih _ _ (twf_tset d t i x h)

/-- A change of every value keeps the canonical form. -/
theorem twf_tmap [DecidableEq α] (d : α) (f : α → α) (t : Tbl α) (h : twf d t = true) : twf d (tmap d t f) = true := by
  have key : ∀ (t : Tbl α) (lo : Nat), twfFrom d lo t = true →
      ∀ a, a ≤ lo → twfFrom d a ((t.map fun e => (e.1, f e.2)).filter fun e => decide (e.2 ≠ d)) = true := by
    intro t
    induction t with
    | nil => intro lo _ a _; rfl
    | cons e t ih =>
      obtain ⟨k, v⟩ := e
      intro lo h a ha
      simp only [twfFrom, Bool.and_eq_true, decide_eq_true_eq] at h
      by_cases hv : f v = d
      · simp only [List.map_cons, List.filter_cons, hv, ne_eq, not_true_eq_false, decide_false, Bool.false_eq_true, if_false]
        exact ih (k + 1) h.2 a (by omega)
      · simp only [List.map_cons, List.filter_cons, hv, ne_eq, not_false_eq_true, decide_true, if_true, twfFrom, Bool.and_eq_true,
          decide_eq_true_eq]
        exact ⟨⟨by omega, trivial⟩, ih (k + 1) h.2 (k + 1) (Nat.le_refl _)⟩
  exact key t 0 h 0 (Nat.le_refl 0)

end Sys2Proof.Machine
end

