-- ==== Sys2Proof/Laws/State.lean ====
section
/-! SUPPORT. The frame of every named update of State: one lemma per field, and what the field that changes becomes. -/

namespace Sys2Proof.Machine.State

variable (s : State)

/-! ### setReg -/

@[simp] theorem setReg_pending (o v : Nat) : (s.setReg o v).pending = s.pending := rfl
@[simp] theorem setReg_gts (o v : Nat) : (s.setReg o v).gts = s.gts := rfl
@[simp] theorem setReg_ctrs (o v : Nat) : (s.setReg o v).ctrs = s.ctrs := rfl
@[simp] theorem setReg_cntHi (o v : Nat) : (s.setReg o v).cntHi = s.cntHi := rfl
@[simp] theorem setReg_rdata (o v : Nat) : (s.setReg o v).rdata = s.rdata := rfl
@[simp] theorem setReg_spiStatus (o v : Nat) : (s.setReg o v).spiStatus = s.spiStatus := rfl
@[simp] theorem setReg_msix (o v : Nat) : (s.setReg o v).msix = s.msix := rfl
@[simp] theorem setReg_log (o v : Nat) : (s.setReg o v).log = s.log := rfl
@[simp] theorem setReg_cfg (o v : Nat) : (s.setReg o v).cfg = s.cfg := rfl
@[simp] theorem setReg_load (o v : Nat) : (s.setReg o v).load = s.load := rfl
@[simp] theorem setReg_staging (o v : Nat) : (s.setReg o v).staging = s.staging := rfl
@[simp] theorem setReg_ports (o v : Nat) : (s.setReg o v).ports = s.ports := rfl
@[simp] theorem setReg_queues (o v : Nat) : (s.setReg o v).queues = s.queues := rfl
@[simp] theorem setReg_qfResult (o v : Nat) : (s.setReg o v).qfResult = s.qfResult := rfl
@[simp] theorem setReg_sup (o v : Nat) : (s.setReg o v).sup = s.sup := rfl
@[simp] theorem setReg_fuses (o v : Nat) : (s.setReg o v).fuses = s.fuses := rfl
@[simp] theorem setReg_trust (o v : Nat) : (s.setReg o v).trust = s.trust := rfl
@[simp] theorem setReg_host (o v : Nat) : (s.setReg o v).host = s.host := rfl
@[simp] theorem setReg_tb (o v : Nat) : (s.setReg o v).tb = s.tb := rfl
@[simp] theorem setReg_se (o v : Nat) : (s.setReg o v).se = s.se := rfl
@[simp] theorem setReg_ce (o v : Nat) : (s.setReg o v).ce = s.ce := rfl
@[simp] theorem setReg_em (o v : Nat) : (s.setReg o v).em = s.em := rfl
@[simp] theorem setReg_cz (o v : Nat) : (s.setReg o v).cz = s.cz := rfl
@[simp] theorem setReg_rc (o v : Nat) : (s.setReg o v).rc = s.rc := rfl
@[simp] theorem setReg_ha (o v : Nat) : (s.setReg o v).ha = s.ha := rfl
@[simp] theorem setReg_mf (o v : Nat) : (s.setReg o v).mf = s.mf := rfl
@[simp] theorem setReg_pwrEn (o v : Nat) : (s.setReg o v).pwrEn = s.pwrEn := rfl
@[simp] theorem setReg_pmbusOn (o v : Nat) : (s.setReg o v).pmbusOn = s.pmbusOn := rfl
@[simp] theorem setReg_gpioPins (o v : Nat) : (s.setReg o v).gpioPins = s.gpioPins := rfl
@[simp] theorem setReg_freeN (o v : Nat) : (s.setReg o v).freeN = s.freeN := rfl

/-! ### bumpBy -/

@[simp] theorem bumpBy_pending (o n : Nat) : (s.bumpBy o n).pending = s.pending := rfl
@[simp] theorem bumpBy_gts (o n : Nat) : (s.bumpBy o n).gts = s.gts := rfl
@[simp] theorem bumpBy_regs (o n : Nat) : (s.bumpBy o n).regs = s.regs := rfl
@[simp] theorem bumpBy_cntHi (o n : Nat) : (s.bumpBy o n).cntHi = s.cntHi := rfl
@[simp] theorem bumpBy_rdata (o n : Nat) : (s.bumpBy o n).rdata = s.rdata := rfl
@[simp] theorem bumpBy_spiStatus (o n : Nat) : (s.bumpBy o n).spiStatus = s.spiStatus := rfl
@[simp] theorem bumpBy_msix (o n : Nat) : (s.bumpBy o n).msix = s.msix := rfl
@[simp] theorem bumpBy_log (o n : Nat) : (s.bumpBy o n).log = s.log := rfl
@[simp] theorem bumpBy_cfg (o n : Nat) : (s.bumpBy o n).cfg = s.cfg := rfl
@[simp] theorem bumpBy_load (o n : Nat) : (s.bumpBy o n).load = s.load := rfl
@[simp] theorem bumpBy_staging (o n : Nat) : (s.bumpBy o n).staging = s.staging := rfl
@[simp] theorem bumpBy_ports (o n : Nat) : (s.bumpBy o n).ports = s.ports := rfl
@[simp] theorem bumpBy_queues (o n : Nat) : (s.bumpBy o n).queues = s.queues := rfl
@[simp] theorem bumpBy_qfResult (o n : Nat) : (s.bumpBy o n).qfResult = s.qfResult := rfl
@[simp] theorem bumpBy_sup (o n : Nat) : (s.bumpBy o n).sup = s.sup := rfl
@[simp] theorem bumpBy_fuses (o n : Nat) : (s.bumpBy o n).fuses = s.fuses := rfl
@[simp] theorem bumpBy_trust (o n : Nat) : (s.bumpBy o n).trust = s.trust := rfl
@[simp] theorem bumpBy_host (o n : Nat) : (s.bumpBy o n).host = s.host := rfl
@[simp] theorem bumpBy_tb (o n : Nat) : (s.bumpBy o n).tb = s.tb := rfl
@[simp] theorem bumpBy_se (o n : Nat) : (s.bumpBy o n).se = s.se := rfl
@[simp] theorem bumpBy_ce (o n : Nat) : (s.bumpBy o n).ce = s.ce := rfl
@[simp] theorem bumpBy_em (o n : Nat) : (s.bumpBy o n).em = s.em := rfl
@[simp] theorem bumpBy_cz (o n : Nat) : (s.bumpBy o n).cz = s.cz := rfl
@[simp] theorem bumpBy_rc (o n : Nat) : (s.bumpBy o n).rc = s.rc := rfl
@[simp] theorem bumpBy_ha (o n : Nat) : (s.bumpBy o n).ha = s.ha := rfl
@[simp] theorem bumpBy_mf (o n : Nat) : (s.bumpBy o n).mf = s.mf := rfl
@[simp] theorem bumpBy_pwrEn (o n : Nat) : (s.bumpBy o n).pwrEn = s.pwrEn := rfl
@[simp] theorem bumpBy_pmbusOn (o n : Nat) : (s.bumpBy o n).pmbusOn = s.pmbusOn := rfl
@[simp] theorem bumpBy_gpioPins (o n : Nat) : (s.bumpBy o n).gpioPins = s.gpioPins := rfl
@[simp] theorem bumpBy_freeN (o n : Nat) : (s.bumpBy o n).freeN = s.freeN := rfl

/-! ### bump -/

@[simp] theorem bump_pending (o : Nat) : (s.bump o).pending = s.pending := rfl
@[simp] theorem bump_gts (o : Nat) : (s.bump o).gts = s.gts := rfl
@[simp] theorem bump_regs (o : Nat) : (s.bump o).regs = s.regs := rfl
@[simp] theorem bump_cntHi (o : Nat) : (s.bump o).cntHi = s.cntHi := rfl
@[simp] theorem bump_rdata (o : Nat) : (s.bump o).rdata = s.rdata := rfl
@[simp] theorem bump_spiStatus (o : Nat) : (s.bump o).spiStatus = s.spiStatus := rfl
@[simp] theorem bump_msix (o : Nat) : (s.bump o).msix = s.msix := rfl
@[simp] theorem bump_log (o : Nat) : (s.bump o).log = s.log := rfl
@[simp] theorem bump_cfg (o : Nat) : (s.bump o).cfg = s.cfg := rfl
@[simp] theorem bump_load (o : Nat) : (s.bump o).load = s.load := rfl
@[simp] theorem bump_staging (o : Nat) : (s.bump o).staging = s.staging := rfl
@[simp] theorem bump_ports (o : Nat) : (s.bump o).ports = s.ports := rfl
@[simp] theorem bump_queues (o : Nat) : (s.bump o).queues = s.queues := rfl
@[simp] theorem bump_qfResult (o : Nat) : (s.bump o).qfResult = s.qfResult := rfl
@[simp] theorem bump_sup (o : Nat) : (s.bump o).sup = s.sup := rfl
@[simp] theorem bump_fuses (o : Nat) : (s.bump o).fuses = s.fuses := rfl
@[simp] theorem bump_trust (o : Nat) : (s.bump o).trust = s.trust := rfl
@[simp] theorem bump_host (o : Nat) : (s.bump o).host = s.host := rfl
@[simp] theorem bump_tb (o : Nat) : (s.bump o).tb = s.tb := rfl
@[simp] theorem bump_se (o : Nat) : (s.bump o).se = s.se := rfl
@[simp] theorem bump_ce (o : Nat) : (s.bump o).ce = s.ce := rfl
@[simp] theorem bump_em (o : Nat) : (s.bump o).em = s.em := rfl
@[simp] theorem bump_cz (o : Nat) : (s.bump o).cz = s.cz := rfl
@[simp] theorem bump_rc (o : Nat) : (s.bump o).rc = s.rc := rfl
@[simp] theorem bump_ha (o : Nat) : (s.bump o).ha = s.ha := rfl
@[simp] theorem bump_mf (o : Nat) : (s.bump o).mf = s.mf := rfl
@[simp] theorem bump_pwrEn (o : Nat) : (s.bump o).pwrEn = s.pwrEn := rfl
@[simp] theorem bump_pmbusOn (o : Nat) : (s.bump o).pmbusOn = s.pmbusOn := rfl
@[simp] theorem bump_gpioPins (o : Nat) : (s.bump o).gpioPins = s.gpioPins := rfl
@[simp] theorem bump_freeN (o : Nat) : (s.bump o).freeN = s.freeN := rfl

/-! ### signal -/

@[simp] theorem signal_pending (v : Nat) : (s.signal v).pending = s.pending := rfl
@[simp] theorem signal_gts (v : Nat) : (s.signal v).gts = s.gts := rfl
@[simp] theorem signal_regs (v : Nat) : (s.signal v).regs = s.regs := rfl
@[simp] theorem signal_ctrs (v : Nat) : (s.signal v).ctrs = s.ctrs := rfl
@[simp] theorem signal_cntHi (v : Nat) : (s.signal v).cntHi = s.cntHi := rfl
@[simp] theorem signal_rdata (v : Nat) : (s.signal v).rdata = s.rdata := rfl
@[simp] theorem signal_spiStatus (v : Nat) : (s.signal v).spiStatus = s.spiStatus := rfl
@[simp] theorem signal_log (v : Nat) : (s.signal v).log = s.log := rfl
@[simp] theorem signal_cfg (v : Nat) : (s.signal v).cfg = s.cfg := rfl
@[simp] theorem signal_load (v : Nat) : (s.signal v).load = s.load := rfl
@[simp] theorem signal_staging (v : Nat) : (s.signal v).staging = s.staging := rfl
@[simp] theorem signal_ports (v : Nat) : (s.signal v).ports = s.ports := rfl
@[simp] theorem signal_queues (v : Nat) : (s.signal v).queues = s.queues := rfl
@[simp] theorem signal_qfResult (v : Nat) : (s.signal v).qfResult = s.qfResult := rfl
@[simp] theorem signal_sup (v : Nat) : (s.signal v).sup = s.sup := rfl
@[simp] theorem signal_fuses (v : Nat) : (s.signal v).fuses = s.fuses := rfl
@[simp] theorem signal_trust (v : Nat) : (s.signal v).trust = s.trust := rfl
@[simp] theorem signal_host (v : Nat) : (s.signal v).host = s.host := rfl
@[simp] theorem signal_tb (v : Nat) : (s.signal v).tb = s.tb := rfl
@[simp] theorem signal_se (v : Nat) : (s.signal v).se = s.se := rfl
@[simp] theorem signal_ce (v : Nat) : (s.signal v).ce = s.ce := rfl
@[simp] theorem signal_em (v : Nat) : (s.signal v).em = s.em := rfl
@[simp] theorem signal_cz (v : Nat) : (s.signal v).cz = s.cz := rfl
@[simp] theorem signal_rc (v : Nat) : (s.signal v).rc = s.rc := rfl
@[simp] theorem signal_ha (v : Nat) : (s.signal v).ha = s.ha := rfl
@[simp] theorem signal_mf (v : Nat) : (s.signal v).mf = s.mf := rfl
@[simp] theorem signal_pwrEn (v : Nat) : (s.signal v).pwrEn = s.pwrEn := rfl
@[simp] theorem signal_pmbusOn (v : Nat) : (s.signal v).pmbusOn = s.pmbusOn := rfl
@[simp] theorem signal_gpioPins (v : Nat) : (s.signal v).gpioPins = s.gpioPins := rfl
@[simp] theorem signal_freeN (v : Nat) : (s.signal v).freeN = s.freeN := rfl

/-! ### updSup -/

@[simp] theorem updSup_pending (f : Sup → Sup) : (s.updSup f).pending = s.pending := rfl
@[simp] theorem updSup_gts (f : Sup → Sup) : (s.updSup f).gts = s.gts := rfl
@[simp] theorem updSup_regs (f : Sup → Sup) : (s.updSup f).regs = s.regs := rfl
@[simp] theorem updSup_ctrs (f : Sup → Sup) : (s.updSup f).ctrs = s.ctrs := rfl
@[simp] theorem updSup_cntHi (f : Sup → Sup) : (s.updSup f).cntHi = s.cntHi := rfl
@[simp] theorem updSup_rdata (f : Sup → Sup) : (s.updSup f).rdata = s.rdata := rfl
@[simp] theorem updSup_spiStatus (f : Sup → Sup) : (s.updSup f).spiStatus = s.spiStatus := rfl
@[simp] theorem updSup_msix (f : Sup → Sup) : (s.updSup f).msix = s.msix := rfl
@[simp] theorem updSup_log (f : Sup → Sup) : (s.updSup f).log = s.log := rfl
@[simp] theorem updSup_cfg (f : Sup → Sup) : (s.updSup f).cfg = s.cfg := rfl
@[simp] theorem updSup_load (f : Sup → Sup) : (s.updSup f).load = s.load := rfl
@[simp] theorem updSup_staging (f : Sup → Sup) : (s.updSup f).staging = s.staging := rfl
@[simp] theorem updSup_ports (f : Sup → Sup) : (s.updSup f).ports = s.ports := rfl
@[simp] theorem updSup_queues (f : Sup → Sup) : (s.updSup f).queues = s.queues := rfl
@[simp] theorem updSup_qfResult (f : Sup → Sup) : (s.updSup f).qfResult = s.qfResult := rfl
@[simp] theorem updSup_fuses (f : Sup → Sup) : (s.updSup f).fuses = s.fuses := rfl
@[simp] theorem updSup_trust (f : Sup → Sup) : (s.updSup f).trust = s.trust := rfl
@[simp] theorem updSup_host (f : Sup → Sup) : (s.updSup f).host = s.host := rfl
@[simp] theorem updSup_tb (f : Sup → Sup) : (s.updSup f).tb = s.tb := rfl
@[simp] theorem updSup_se (f : Sup → Sup) : (s.updSup f).se = s.se := rfl
@[simp] theorem updSup_ce (f : Sup → Sup) : (s.updSup f).ce = s.ce := rfl
@[simp] theorem updSup_em (f : Sup → Sup) : (s.updSup f).em = s.em := rfl
@[simp] theorem updSup_cz (f : Sup → Sup) : (s.updSup f).cz = s.cz := rfl
@[simp] theorem updSup_rc (f : Sup → Sup) : (s.updSup f).rc = s.rc := rfl
@[simp] theorem updSup_ha (f : Sup → Sup) : (s.updSup f).ha = s.ha := rfl
@[simp] theorem updSup_mf (f : Sup → Sup) : (s.updSup f).mf = s.mf := rfl
@[simp] theorem updSup_pwrEn (f : Sup → Sup) : (s.updSup f).pwrEn = s.pwrEn := rfl
@[simp] theorem updSup_pmbusOn (f : Sup → Sup) : (s.updSup f).pmbusOn = s.pmbusOn := rfl
@[simp] theorem updSup_gpioPins (f : Sup → Sup) : (s.updSup f).gpioPins = s.gpioPins := rfl
@[simp] theorem updSup_freeN (f : Sup → Sup) : (s.updSup f).freeN = s.freeN := rfl

/-! ### updTrust -/

@[simp] theorem updTrust_pending (f : Trust → Trust) : (s.updTrust f).pending = s.pending := rfl
@[simp] theorem updTrust_gts (f : Trust → Trust) : (s.updTrust f).gts = s.gts := rfl
@[simp] theorem updTrust_regs (f : Trust → Trust) : (s.updTrust f).regs = s.regs := rfl
@[simp] theorem updTrust_ctrs (f : Trust → Trust) : (s.updTrust f).ctrs = s.ctrs := rfl
@[simp] theorem updTrust_cntHi (f : Trust → Trust) : (s.updTrust f).cntHi = s.cntHi := rfl
@[simp] theorem updTrust_rdata (f : Trust → Trust) : (s.updTrust f).rdata = s.rdata := rfl
@[simp] theorem updTrust_spiStatus (f : Trust → Trust) : (s.updTrust f).spiStatus = s.spiStatus := rfl
@[simp] theorem updTrust_msix (f : Trust → Trust) : (s.updTrust f).msix = s.msix := rfl
@[simp] theorem updTrust_log (f : Trust → Trust) : (s.updTrust f).log = s.log := rfl
@[simp] theorem updTrust_cfg (f : Trust → Trust) : (s.updTrust f).cfg = s.cfg := rfl
@[simp] theorem updTrust_load (f : Trust → Trust) : (s.updTrust f).load = s.load := rfl
@[simp] theorem updTrust_staging (f : Trust → Trust) : (s.updTrust f).staging = s.staging := rfl
@[simp] theorem updTrust_ports (f : Trust → Trust) : (s.updTrust f).ports = s.ports := rfl
@[simp] theorem updTrust_queues (f : Trust → Trust) : (s.updTrust f).queues = s.queues := rfl
@[simp] theorem updTrust_qfResult (f : Trust → Trust) : (s.updTrust f).qfResult = s.qfResult := rfl
@[simp] theorem updTrust_sup (f : Trust → Trust) : (s.updTrust f).sup = s.sup := rfl
@[simp] theorem updTrust_fuses (f : Trust → Trust) : (s.updTrust f).fuses = s.fuses := rfl
@[simp] theorem updTrust_host (f : Trust → Trust) : (s.updTrust f).host = s.host := rfl
@[simp] theorem updTrust_tb (f : Trust → Trust) : (s.updTrust f).tb = s.tb := rfl
@[simp] theorem updTrust_se (f : Trust → Trust) : (s.updTrust f).se = s.se := rfl
@[simp] theorem updTrust_ce (f : Trust → Trust) : (s.updTrust f).ce = s.ce := rfl
@[simp] theorem updTrust_em (f : Trust → Trust) : (s.updTrust f).em = s.em := rfl
@[simp] theorem updTrust_cz (f : Trust → Trust) : (s.updTrust f).cz = s.cz := rfl
@[simp] theorem updTrust_rc (f : Trust → Trust) : (s.updTrust f).rc = s.rc := rfl
@[simp] theorem updTrust_ha (f : Trust → Trust) : (s.updTrust f).ha = s.ha := rfl
@[simp] theorem updTrust_mf (f : Trust → Trust) : (s.updTrust f).mf = s.mf := rfl
@[simp] theorem updTrust_pwrEn (f : Trust → Trust) : (s.updTrust f).pwrEn = s.pwrEn := rfl
@[simp] theorem updTrust_pmbusOn (f : Trust → Trust) : (s.updTrust f).pmbusOn = s.pmbusOn := rfl
@[simp] theorem updTrust_gpioPins (f : Trust → Trust) : (s.updTrust f).gpioPins = s.gpioPins := rfl
@[simp] theorem updTrust_freeN (f : Trust → Trust) : (s.updTrust f).freeN = s.freeN := rfl

/-! ### updHost -/

@[simp] theorem updHost_pending (f : HostP → HostP) : (s.updHost f).pending = s.pending := rfl
@[simp] theorem updHost_gts (f : HostP → HostP) : (s.updHost f).gts = s.gts := rfl
@[simp] theorem updHost_regs (f : HostP → HostP) : (s.updHost f).regs = s.regs := rfl
@[simp] theorem updHost_ctrs (f : HostP → HostP) : (s.updHost f).ctrs = s.ctrs := rfl
@[simp] theorem updHost_cntHi (f : HostP → HostP) : (s.updHost f).cntHi = s.cntHi := rfl
@[simp] theorem updHost_rdata (f : HostP → HostP) : (s.updHost f).rdata = s.rdata := rfl
@[simp] theorem updHost_spiStatus (f : HostP → HostP) : (s.updHost f).spiStatus = s.spiStatus := rfl
@[simp] theorem updHost_msix (f : HostP → HostP) : (s.updHost f).msix = s.msix := rfl
@[simp] theorem updHost_log (f : HostP → HostP) : (s.updHost f).log = s.log := rfl
@[simp] theorem updHost_cfg (f : HostP → HostP) : (s.updHost f).cfg = s.cfg := rfl
@[simp] theorem updHost_load (f : HostP → HostP) : (s.updHost f).load = s.load := rfl
@[simp] theorem updHost_staging (f : HostP → HostP) : (s.updHost f).staging = s.staging := rfl
@[simp] theorem updHost_ports (f : HostP → HostP) : (s.updHost f).ports = s.ports := rfl
@[simp] theorem updHost_queues (f : HostP → HostP) : (s.updHost f).queues = s.queues := rfl
@[simp] theorem updHost_qfResult (f : HostP → HostP) : (s.updHost f).qfResult = s.qfResult := rfl
@[simp] theorem updHost_sup (f : HostP → HostP) : (s.updHost f).sup = s.sup := rfl
@[simp] theorem updHost_fuses (f : HostP → HostP) : (s.updHost f).fuses = s.fuses := rfl
@[simp] theorem updHost_trust (f : HostP → HostP) : (s.updHost f).trust = s.trust := rfl
@[simp] theorem updHost_tb (f : HostP → HostP) : (s.updHost f).tb = s.tb := rfl
@[simp] theorem updHost_se (f : HostP → HostP) : (s.updHost f).se = s.se := rfl
@[simp] theorem updHost_ce (f : HostP → HostP) : (s.updHost f).ce = s.ce := rfl
@[simp] theorem updHost_em (f : HostP → HostP) : (s.updHost f).em = s.em := rfl
@[simp] theorem updHost_cz (f : HostP → HostP) : (s.updHost f).cz = s.cz := rfl
@[simp] theorem updHost_rc (f : HostP → HostP) : (s.updHost f).rc = s.rc := rfl
@[simp] theorem updHost_ha (f : HostP → HostP) : (s.updHost f).ha = s.ha := rfl
@[simp] theorem updHost_mf (f : HostP → HostP) : (s.updHost f).mf = s.mf := rfl
@[simp] theorem updHost_pwrEn (f : HostP → HostP) : (s.updHost f).pwrEn = s.pwrEn := rfl
@[simp] theorem updHost_pmbusOn (f : HostP → HostP) : (s.updHost f).pmbusOn = s.pmbusOn := rfl
@[simp] theorem updHost_gpioPins (f : HostP → HostP) : (s.updHost f).gpioPins = s.gpioPins := rfl
@[simp] theorem updHost_freeN (f : HostP → HostP) : (s.updHost f).freeN = s.freeN := rfl

/-! ### updTb -/

@[simp] theorem updTb_pending (f : TimeB → TimeB) : (s.updTb f).pending = s.pending := rfl
@[simp] theorem updTb_gts (f : TimeB → TimeB) : (s.updTb f).gts = s.gts := rfl
@[simp] theorem updTb_regs (f : TimeB → TimeB) : (s.updTb f).regs = s.regs := rfl
@[simp] theorem updTb_ctrs (f : TimeB → TimeB) : (s.updTb f).ctrs = s.ctrs := rfl
@[simp] theorem updTb_cntHi (f : TimeB → TimeB) : (s.updTb f).cntHi = s.cntHi := rfl
@[simp] theorem updTb_rdata (f : TimeB → TimeB) : (s.updTb f).rdata = s.rdata := rfl
@[simp] theorem updTb_spiStatus (f : TimeB → TimeB) : (s.updTb f).spiStatus = s.spiStatus := rfl
@[simp] theorem updTb_msix (f : TimeB → TimeB) : (s.updTb f).msix = s.msix := rfl
@[simp] theorem updTb_log (f : TimeB → TimeB) : (s.updTb f).log = s.log := rfl
@[simp] theorem updTb_cfg (f : TimeB → TimeB) : (s.updTb f).cfg = s.cfg := rfl
@[simp] theorem updTb_load (f : TimeB → TimeB) : (s.updTb f).load = s.load := rfl
@[simp] theorem updTb_staging (f : TimeB → TimeB) : (s.updTb f).staging = s.staging := rfl
@[simp] theorem updTb_ports (f : TimeB → TimeB) : (s.updTb f).ports = s.ports := rfl
@[simp] theorem updTb_queues (f : TimeB → TimeB) : (s.updTb f).queues = s.queues := rfl
@[simp] theorem updTb_qfResult (f : TimeB → TimeB) : (s.updTb f).qfResult = s.qfResult := rfl
@[simp] theorem updTb_sup (f : TimeB → TimeB) : (s.updTb f).sup = s.sup := rfl
@[simp] theorem updTb_fuses (f : TimeB → TimeB) : (s.updTb f).fuses = s.fuses := rfl
@[simp] theorem updTb_trust (f : TimeB → TimeB) : (s.updTb f).trust = s.trust := rfl
@[simp] theorem updTb_host (f : TimeB → TimeB) : (s.updTb f).host = s.host := rfl
@[simp] theorem updTb_se (f : TimeB → TimeB) : (s.updTb f).se = s.se := rfl
@[simp] theorem updTb_ce (f : TimeB → TimeB) : (s.updTb f).ce = s.ce := rfl
@[simp] theorem updTb_em (f : TimeB → TimeB) : (s.updTb f).em = s.em := rfl
@[simp] theorem updTb_cz (f : TimeB → TimeB) : (s.updTb f).cz = s.cz := rfl
@[simp] theorem updTb_rc (f : TimeB → TimeB) : (s.updTb f).rc = s.rc := rfl
@[simp] theorem updTb_ha (f : TimeB → TimeB) : (s.updTb f).ha = s.ha := rfl
@[simp] theorem updTb_mf (f : TimeB → TimeB) : (s.updTb f).mf = s.mf := rfl
@[simp] theorem updTb_pwrEn (f : TimeB → TimeB) : (s.updTb f).pwrEn = s.pwrEn := rfl
@[simp] theorem updTb_pmbusOn (f : TimeB → TimeB) : (s.updTb f).pmbusOn = s.pmbusOn := rfl
@[simp] theorem updTb_gpioPins (f : TimeB → TimeB) : (s.updTb f).gpioPins = s.gpioPins := rfl
@[simp] theorem updTb_freeN (f : TimeB → TimeB) : (s.updTb f).freeN = s.freeN := rfl

/-! ### updFuses -/

@[simp] theorem updFuses_pending (f : Fuses → Fuses) : (s.updFuses f).pending = s.pending := rfl
@[simp] theorem updFuses_gts (f : Fuses → Fuses) : (s.updFuses f).gts = s.gts := rfl
@[simp] theorem updFuses_regs (f : Fuses → Fuses) : (s.updFuses f).regs = s.regs := rfl
@[simp] theorem updFuses_ctrs (f : Fuses → Fuses) : (s.updFuses f).ctrs = s.ctrs := rfl
@[simp] theorem updFuses_cntHi (f : Fuses → Fuses) : (s.updFuses f).cntHi = s.cntHi := rfl
@[simp] theorem updFuses_rdata (f : Fuses → Fuses) : (s.updFuses f).rdata = s.rdata := rfl
@[simp] theorem updFuses_spiStatus (f : Fuses → Fuses) : (s.updFuses f).spiStatus = s.spiStatus := rfl
@[simp] theorem updFuses_msix (f : Fuses → Fuses) : (s.updFuses f).msix = s.msix := rfl
@[simp] theorem updFuses_log (f : Fuses → Fuses) : (s.updFuses f).log = s.log := rfl
@[simp] theorem updFuses_cfg (f : Fuses → Fuses) : (s.updFuses f).cfg = s.cfg := rfl
@[simp] theorem updFuses_load (f : Fuses → Fuses) : (s.updFuses f).load = s.load := rfl
@[simp] theorem updFuses_staging (f : Fuses → Fuses) : (s.updFuses f).staging = s.staging := rfl
@[simp] theorem updFuses_ports (f : Fuses → Fuses) : (s.updFuses f).ports = s.ports := rfl
@[simp] theorem updFuses_queues (f : Fuses → Fuses) : (s.updFuses f).queues = s.queues := rfl
@[simp] theorem updFuses_qfResult (f : Fuses → Fuses) : (s.updFuses f).qfResult = s.qfResult := rfl
@[simp] theorem updFuses_sup (f : Fuses → Fuses) : (s.updFuses f).sup = s.sup := rfl
@[simp] theorem updFuses_trust (f : Fuses → Fuses) : (s.updFuses f).trust = s.trust := rfl
@[simp] theorem updFuses_host (f : Fuses → Fuses) : (s.updFuses f).host = s.host := rfl
@[simp] theorem updFuses_tb (f : Fuses → Fuses) : (s.updFuses f).tb = s.tb := rfl
@[simp] theorem updFuses_se (f : Fuses → Fuses) : (s.updFuses f).se = s.se := rfl
@[simp] theorem updFuses_ce (f : Fuses → Fuses) : (s.updFuses f).ce = s.ce := rfl
@[simp] theorem updFuses_em (f : Fuses → Fuses) : (s.updFuses f).em = s.em := rfl
@[simp] theorem updFuses_cz (f : Fuses → Fuses) : (s.updFuses f).cz = s.cz := rfl
@[simp] theorem updFuses_rc (f : Fuses → Fuses) : (s.updFuses f).rc = s.rc := rfl
@[simp] theorem updFuses_ha (f : Fuses → Fuses) : (s.updFuses f).ha = s.ha := rfl
@[simp] theorem updFuses_mf (f : Fuses → Fuses) : (s.updFuses f).mf = s.mf := rfl
@[simp] theorem updFuses_pwrEn (f : Fuses → Fuses) : (s.updFuses f).pwrEn = s.pwrEn := rfl
@[simp] theorem updFuses_pmbusOn (f : Fuses → Fuses) : (s.updFuses f).pmbusOn = s.pmbusOn := rfl
@[simp] theorem updFuses_gpioPins (f : Fuses → Fuses) : (s.updFuses f).gpioPins = s.gpioPins := rfl
@[simp] theorem updFuses_freeN (f : Fuses → Fuses) : (s.updFuses f).freeN = s.freeN := rfl

/-! ### updLoad -/

@[simp] theorem updLoad_pending (f : Load → Load) : (s.updLoad f).pending = s.pending := rfl
@[simp] theorem updLoad_gts (f : Load → Load) : (s.updLoad f).gts = s.gts := rfl
@[simp] theorem updLoad_regs (f : Load → Load) : (s.updLoad f).regs = s.regs := rfl
@[simp] theorem updLoad_ctrs (f : Load → Load) : (s.updLoad f).ctrs = s.ctrs := rfl
@[simp] theorem updLoad_cntHi (f : Load → Load) : (s.updLoad f).cntHi = s.cntHi := rfl
@[simp] theorem updLoad_rdata (f : Load → Load) : (s.updLoad f).rdata = s.rdata := rfl
@[simp] theorem updLoad_spiStatus (f : Load → Load) : (s.updLoad f).spiStatus = s.spiStatus := rfl
@[simp] theorem updLoad_msix (f : Load → Load) : (s.updLoad f).msix = s.msix := rfl
@[simp] theorem updLoad_log (f : Load → Load) : (s.updLoad f).log = s.log := rfl
@[simp] theorem updLoad_cfg (f : Load → Load) : (s.updLoad f).cfg = s.cfg := rfl
@[simp] theorem updLoad_staging (f : Load → Load) : (s.updLoad f).staging = s.staging := rfl
@[simp] theorem updLoad_ports (f : Load → Load) : (s.updLoad f).ports = s.ports := rfl
@[simp] theorem updLoad_queues (f : Load → Load) : (s.updLoad f).queues = s.queues := rfl
@[simp] theorem updLoad_qfResult (f : Load → Load) : (s.updLoad f).qfResult = s.qfResult := rfl
@[simp] theorem updLoad_sup (f : Load → Load) : (s.updLoad f).sup = s.sup := rfl
@[simp] theorem updLoad_fuses (f : Load → Load) : (s.updLoad f).fuses = s.fuses := rfl
@[simp] theorem updLoad_trust (f : Load → Load) : (s.updLoad f).trust = s.trust := rfl
@[simp] theorem updLoad_host (f : Load → Load) : (s.updLoad f).host = s.host := rfl
@[simp] theorem updLoad_tb (f : Load → Load) : (s.updLoad f).tb = s.tb := rfl
@[simp] theorem updLoad_se (f : Load → Load) : (s.updLoad f).se = s.se := rfl
@[simp] theorem updLoad_ce (f : Load → Load) : (s.updLoad f).ce = s.ce := rfl
@[simp] theorem updLoad_em (f : Load → Load) : (s.updLoad f).em = s.em := rfl
@[simp] theorem updLoad_cz (f : Load → Load) : (s.updLoad f).cz = s.cz := rfl
@[simp] theorem updLoad_rc (f : Load → Load) : (s.updLoad f).rc = s.rc := rfl
@[simp] theorem updLoad_ha (f : Load → Load) : (s.updLoad f).ha = s.ha := rfl
@[simp] theorem updLoad_mf (f : Load → Load) : (s.updLoad f).mf = s.mf := rfl
@[simp] theorem updLoad_pwrEn (f : Load → Load) : (s.updLoad f).pwrEn = s.pwrEn := rfl
@[simp] theorem updLoad_pmbusOn (f : Load → Load) : (s.updLoad f).pmbusOn = s.pmbusOn := rfl
@[simp] theorem updLoad_gpioPins (f : Load → Load) : (s.updLoad f).gpioPins = s.gpioPins := rfl
@[simp] theorem updLoad_freeN (f : Load → Load) : (s.updLoad f).freeN = s.freeN := rfl

/-! ### updCfg -/

@[simp] theorem updCfg_pending (f : Cfg → Cfg) : (s.updCfg f).pending = s.pending := rfl
@[simp] theorem updCfg_gts (f : Cfg → Cfg) : (s.updCfg f).gts = s.gts := rfl
@[simp] theorem updCfg_regs (f : Cfg → Cfg) : (s.updCfg f).regs = s.regs := rfl
@[simp] theorem updCfg_ctrs (f : Cfg → Cfg) : (s.updCfg f).ctrs = s.ctrs := rfl
@[simp] theorem updCfg_cntHi (f : Cfg → Cfg) : (s.updCfg f).cntHi = s.cntHi := rfl
@[simp] theorem updCfg_rdata (f : Cfg → Cfg) : (s.updCfg f).rdata = s.rdata := rfl
@[simp] theorem updCfg_spiStatus (f : Cfg → Cfg) : (s.updCfg f).spiStatus = s.spiStatus := rfl
@[simp] theorem updCfg_msix (f : Cfg → Cfg) : (s.updCfg f).msix = s.msix := rfl
@[simp] theorem updCfg_log (f : Cfg → Cfg) : (s.updCfg f).log = s.log := rfl
@[simp] theorem updCfg_load (f : Cfg → Cfg) : (s.updCfg f).load = s.load := rfl
@[simp] theorem updCfg_staging (f : Cfg → Cfg) : (s.updCfg f).staging = s.staging := rfl
@[simp] theorem updCfg_ports (f : Cfg → Cfg) : (s.updCfg f).ports = s.ports := rfl
@[simp] theorem updCfg_queues (f : Cfg → Cfg) : (s.updCfg f).queues = s.queues := rfl
@[simp] theorem updCfg_qfResult (f : Cfg → Cfg) : (s.updCfg f).qfResult = s.qfResult := rfl
@[simp] theorem updCfg_sup (f : Cfg → Cfg) : (s.updCfg f).sup = s.sup := rfl
@[simp] theorem updCfg_fuses (f : Cfg → Cfg) : (s.updCfg f).fuses = s.fuses := rfl
@[simp] theorem updCfg_trust (f : Cfg → Cfg) : (s.updCfg f).trust = s.trust := rfl
@[simp] theorem updCfg_host (f : Cfg → Cfg) : (s.updCfg f).host = s.host := rfl
@[simp] theorem updCfg_tb (f : Cfg → Cfg) : (s.updCfg f).tb = s.tb := rfl
@[simp] theorem updCfg_se (f : Cfg → Cfg) : (s.updCfg f).se = s.se := rfl
@[simp] theorem updCfg_ce (f : Cfg → Cfg) : (s.updCfg f).ce = s.ce := rfl
@[simp] theorem updCfg_em (f : Cfg → Cfg) : (s.updCfg f).em = s.em := rfl
@[simp] theorem updCfg_cz (f : Cfg → Cfg) : (s.updCfg f).cz = s.cz := rfl
@[simp] theorem updCfg_rc (f : Cfg → Cfg) : (s.updCfg f).rc = s.rc := rfl
@[simp] theorem updCfg_ha (f : Cfg → Cfg) : (s.updCfg f).ha = s.ha := rfl
@[simp] theorem updCfg_mf (f : Cfg → Cfg) : (s.updCfg f).mf = s.mf := rfl
@[simp] theorem updCfg_pwrEn (f : Cfg → Cfg) : (s.updCfg f).pwrEn = s.pwrEn := rfl
@[simp] theorem updCfg_pmbusOn (f : Cfg → Cfg) : (s.updCfg f).pmbusOn = s.pmbusOn := rfl
@[simp] theorem updCfg_gpioPins (f : Cfg → Cfg) : (s.updCfg f).gpioPins = s.gpioPins := rfl
@[simp] theorem updCfg_freeN (f : Cfg → Cfg) : (s.updCfg f).freeN = s.freeN := rfl

/-! ### updCe -/

@[simp] theorem updCe_pending (f : CipherE → CipherE) : (s.updCe f).pending = s.pending := rfl
@[simp] theorem updCe_gts (f : CipherE → CipherE) : (s.updCe f).gts = s.gts := rfl
@[simp] theorem updCe_regs (f : CipherE → CipherE) : (s.updCe f).regs = s.regs := rfl
@[simp] theorem updCe_ctrs (f : CipherE → CipherE) : (s.updCe f).ctrs = s.ctrs := rfl
@[simp] theorem updCe_cntHi (f : CipherE → CipherE) : (s.updCe f).cntHi = s.cntHi := rfl
@[simp] theorem updCe_rdata (f : CipherE → CipherE) : (s.updCe f).rdata = s.rdata := rfl
@[simp] theorem updCe_spiStatus (f : CipherE → CipherE) : (s.updCe f).spiStatus = s.spiStatus := rfl
@[simp] theorem updCe_msix (f : CipherE → CipherE) : (s.updCe f).msix = s.msix := rfl
@[simp] theorem updCe_log (f : CipherE → CipherE) : (s.updCe f).log = s.log := rfl
@[simp] theorem updCe_cfg (f : CipherE → CipherE) : (s.updCe f).cfg = s.cfg := rfl
@[simp] theorem updCe_load (f : CipherE → CipherE) : (s.updCe f).load = s.load := rfl
@[simp] theorem updCe_staging (f : CipherE → CipherE) : (s.updCe f).staging = s.staging := rfl
@[simp] theorem updCe_ports (f : CipherE → CipherE) : (s.updCe f).ports = s.ports := rfl
@[simp] theorem updCe_queues (f : CipherE → CipherE) : (s.updCe f).queues = s.queues := rfl
@[simp] theorem updCe_qfResult (f : CipherE → CipherE) : (s.updCe f).qfResult = s.qfResult := rfl
@[simp] theorem updCe_sup (f : CipherE → CipherE) : (s.updCe f).sup = s.sup := rfl
@[simp] theorem updCe_fuses (f : CipherE → CipherE) : (s.updCe f).fuses = s.fuses := rfl
@[simp] theorem updCe_trust (f : CipherE → CipherE) : (s.updCe f).trust = s.trust := rfl
@[simp] theorem updCe_host (f : CipherE → CipherE) : (s.updCe f).host = s.host := rfl
@[simp] theorem updCe_tb (f : CipherE → CipherE) : (s.updCe f).tb = s.tb := rfl
@[simp] theorem updCe_se (f : CipherE → CipherE) : (s.updCe f).se = s.se := rfl
@[simp] theorem updCe_em (f : CipherE → CipherE) : (s.updCe f).em = s.em := rfl
@[simp] theorem updCe_cz (f : CipherE → CipherE) : (s.updCe f).cz = s.cz := rfl
@[simp] theorem updCe_rc (f : CipherE → CipherE) : (s.updCe f).rc = s.rc := rfl
@[simp] theorem updCe_ha (f : CipherE → CipherE) : (s.updCe f).ha = s.ha := rfl
@[simp] theorem updCe_mf (f : CipherE → CipherE) : (s.updCe f).mf = s.mf := rfl
@[simp] theorem updCe_pwrEn (f : CipherE → CipherE) : (s.updCe f).pwrEn = s.pwrEn := rfl
@[simp] theorem updCe_pmbusOn (f : CipherE → CipherE) : (s.updCe f).pmbusOn = s.pmbusOn := rfl
@[simp] theorem updCe_gpioPins (f : CipherE → CipherE) : (s.updCe f).gpioPins = s.gpioPins := rfl
@[simp] theorem updCe_freeN (f : CipherE → CipherE) : (s.updCe f).freeN = s.freeN := rfl

/-! ### updSe -/

@[simp] theorem updSe_pending (f : StreamE → StreamE) : (s.updSe f).pending = s.pending := rfl
@[simp] theorem updSe_gts (f : StreamE → StreamE) : (s.updSe f).gts = s.gts := rfl
@[simp] theorem updSe_regs (f : StreamE → StreamE) : (s.updSe f).regs = s.regs := rfl
@[simp] theorem updSe_ctrs (f : StreamE → StreamE) : (s.updSe f).ctrs = s.ctrs := rfl
@[simp] theorem updSe_cntHi (f : StreamE → StreamE) : (s.updSe f).cntHi = s.cntHi := rfl
@[simp] theorem updSe_rdata (f : StreamE → StreamE) : (s.updSe f).rdata = s.rdata := rfl
@[simp] theorem updSe_spiStatus (f : StreamE → StreamE) : (s.updSe f).spiStatus = s.spiStatus := rfl
@[simp] theorem updSe_msix (f : StreamE → StreamE) : (s.updSe f).msix = s.msix := rfl
@[simp] theorem updSe_log (f : StreamE → StreamE) : (s.updSe f).log = s.log := rfl
@[simp] theorem updSe_cfg (f : StreamE → StreamE) : (s.updSe f).cfg = s.cfg := rfl
@[simp] theorem updSe_load (f : StreamE → StreamE) : (s.updSe f).load = s.load := rfl
@[simp] theorem updSe_staging (f : StreamE → StreamE) : (s.updSe f).staging = s.staging := rfl
@[simp] theorem updSe_ports (f : StreamE → StreamE) : (s.updSe f).ports = s.ports := rfl
@[simp] theorem updSe_queues (f : StreamE → StreamE) : (s.updSe f).queues = s.queues := rfl
@[simp] theorem updSe_qfResult (f : StreamE → StreamE) : (s.updSe f).qfResult = s.qfResult := rfl
@[simp] theorem updSe_sup (f : StreamE → StreamE) : (s.updSe f).sup = s.sup := rfl
@[simp] theorem updSe_fuses (f : StreamE → StreamE) : (s.updSe f).fuses = s.fuses := rfl
@[simp] theorem updSe_trust (f : StreamE → StreamE) : (s.updSe f).trust = s.trust := rfl
@[simp] theorem updSe_host (f : StreamE → StreamE) : (s.updSe f).host = s.host := rfl
@[simp] theorem updSe_tb (f : StreamE → StreamE) : (s.updSe f).tb = s.tb := rfl
@[simp] theorem updSe_ce (f : StreamE → StreamE) : (s.updSe f).ce = s.ce := rfl
@[simp] theorem updSe_em (f : StreamE → StreamE) : (s.updSe f).em = s.em := rfl
@[simp] theorem updSe_cz (f : StreamE → StreamE) : (s.updSe f).cz = s.cz := rfl
@[simp] theorem updSe_rc (f : StreamE → StreamE) : (s.updSe f).rc = s.rc := rfl
@[simp] theorem updSe_ha (f : StreamE → StreamE) : (s.updSe f).ha = s.ha := rfl
@[simp] theorem updSe_mf (f : StreamE → StreamE) : (s.updSe f).mf = s.mf := rfl
@[simp] theorem updSe_pwrEn (f : StreamE → StreamE) : (s.updSe f).pwrEn = s.pwrEn := rfl
@[simp] theorem updSe_pmbusOn (f : StreamE → StreamE) : (s.updSe f).pmbusOn = s.pmbusOn := rfl
@[simp] theorem updSe_gpioPins (f : StreamE → StreamE) : (s.updSe f).gpioPins = s.gpioPins := rfl
@[simp] theorem updSe_freeN (f : StreamE → StreamE) : (s.updSe f).freeN = s.freeN := rfl

/-! ### updMf -/

@[simp] theorem updMf_pending (f : MixF → MixF) : (s.updMf f).pending = s.pending := rfl
@[simp] theorem updMf_gts (f : MixF → MixF) : (s.updMf f).gts = s.gts := rfl
@[simp] theorem updMf_regs (f : MixF → MixF) : (s.updMf f).regs = s.regs := rfl
@[simp] theorem updMf_ctrs (f : MixF → MixF) : (s.updMf f).ctrs = s.ctrs := rfl
@[simp] theorem updMf_cntHi (f : MixF → MixF) : (s.updMf f).cntHi = s.cntHi := rfl
@[simp] theorem updMf_rdata (f : MixF → MixF) : (s.updMf f).rdata = s.rdata := rfl
@[simp] theorem updMf_spiStatus (f : MixF → MixF) : (s.updMf f).spiStatus = s.spiStatus := rfl
@[simp] theorem updMf_msix (f : MixF → MixF) : (s.updMf f).msix = s.msix := rfl
@[simp] theorem updMf_log (f : MixF → MixF) : (s.updMf f).log = s.log := rfl
@[simp] theorem updMf_cfg (f : MixF → MixF) : (s.updMf f).cfg = s.cfg := rfl
@[simp] theorem updMf_load (f : MixF → MixF) : (s.updMf f).load = s.load := rfl
@[simp] theorem updMf_staging (f : MixF → MixF) : (s.updMf f).staging = s.staging := rfl
@[simp] theorem updMf_ports (f : MixF → MixF) : (s.updMf f).ports = s.ports := rfl
@[simp] theorem updMf_queues (f : MixF → MixF) : (s.updMf f).queues = s.queues := rfl
@[simp] theorem updMf_qfResult (f : MixF → MixF) : (s.updMf f).qfResult = s.qfResult := rfl
@[simp] theorem updMf_sup (f : MixF → MixF) : (s.updMf f).sup = s.sup := rfl
@[simp] theorem updMf_fuses (f : MixF → MixF) : (s.updMf f).fuses = s.fuses := rfl
@[simp] theorem updMf_trust (f : MixF → MixF) : (s.updMf f).trust = s.trust := rfl
@[simp] theorem updMf_host (f : MixF → MixF) : (s.updMf f).host = s.host := rfl
@[simp] theorem updMf_tb (f : MixF → MixF) : (s.updMf f).tb = s.tb := rfl
@[simp] theorem updMf_se (f : MixF → MixF) : (s.updMf f).se = s.se := rfl
@[simp] theorem updMf_ce (f : MixF → MixF) : (s.updMf f).ce = s.ce := rfl
@[simp] theorem updMf_em (f : MixF → MixF) : (s.updMf f).em = s.em := rfl
@[simp] theorem updMf_cz (f : MixF → MixF) : (s.updMf f).cz = s.cz := rfl
@[simp] theorem updMf_rc (f : MixF → MixF) : (s.updMf f).rc = s.rc := rfl
@[simp] theorem updMf_ha (f : MixF → MixF) : (s.updMf f).ha = s.ha := rfl
@[simp] theorem updMf_pwrEn (f : MixF → MixF) : (s.updMf f).pwrEn = s.pwrEn := rfl
@[simp] theorem updMf_pmbusOn (f : MixF → MixF) : (s.updMf f).pmbusOn = s.pmbusOn := rfl
@[simp] theorem updMf_gpioPins (f : MixF → MixF) : (s.updMf f).gpioPins = s.gpioPins := rfl
@[simp] theorem updMf_freeN (f : MixF → MixF) : (s.updMf f).freeN = s.freeN := rfl

/-! ### setPort -/

@[simp] theorem setPort_pending (p : Nat) (x : Port) : (s.setPort p x).pending = s.pending := rfl
@[simp] theorem setPort_gts (p : Nat) (x : Port) : (s.setPort p x).gts = s.gts := rfl
@[simp] theorem setPort_regs (p : Nat) (x : Port) : (s.setPort p x).regs = s.regs := rfl
@[simp] theorem setPort_ctrs (p : Nat) (x : Port) : (s.setPort p x).ctrs = s.ctrs := rfl
@[simp] theorem setPort_cntHi (p : Nat) (x : Port) : (s.setPort p x).cntHi = s.cntHi := rfl
@[simp] theorem setPort_rdata (p : Nat) (x : Port) : (s.setPort p x).rdata = s.rdata := rfl
@[simp] theorem setPort_spiStatus (p : Nat) (x : Port) : (s.setPort p x).spiStatus = s.spiStatus := rfl
@[simp] theorem setPort_msix (p : Nat) (x : Port) : (s.setPort p x).msix = s.msix := rfl
@[simp] theorem setPort_log (p : Nat) (x : Port) : (s.setPort p x).log = s.log := rfl
@[simp] theorem setPort_cfg (p : Nat) (x : Port) : (s.setPort p x).cfg = s.cfg := rfl
@[simp] theorem setPort_load (p : Nat) (x : Port) : (s.setPort p x).load = s.load := rfl
@[simp] theorem setPort_staging (p : Nat) (x : Port) : (s.setPort p x).staging = s.staging := rfl
@[simp] theorem setPort_queues (p : Nat) (x : Port) : (s.setPort p x).queues = s.queues := rfl
@[simp] theorem setPort_qfResult (p : Nat) (x : Port) : (s.setPort p x).qfResult = s.qfResult := rfl
@[simp] theorem setPort_sup (p : Nat) (x : Port) : (s.setPort p x).sup = s.sup := rfl
@[simp] theorem setPort_fuses (p : Nat) (x : Port) : (s.setPort p x).fuses = s.fuses := rfl
@[simp] theorem setPort_trust (p : Nat) (x : Port) : (s.setPort p x).trust = s.trust := rfl
@[simp] theorem setPort_host (p : Nat) (x : Port) : (s.setPort p x).host = s.host := rfl
@[simp] theorem setPort_tb (p : Nat) (x : Port) : (s.setPort p x).tb = s.tb := rfl
@[simp] theorem setPort_se (p : Nat) (x : Port) : (s.setPort p x).se = s.se := rfl
@[simp] theorem setPort_ce (p : Nat) (x : Port) : (s.setPort p x).ce = s.ce := rfl
@[simp] theorem setPort_em (p : Nat) (x : Port) : (s.setPort p x).em = s.em := rfl
@[simp] theorem setPort_cz (p : Nat) (x : Port) : (s.setPort p x).cz = s.cz := rfl
@[simp] theorem setPort_rc (p : Nat) (x : Port) : (s.setPort p x).rc = s.rc := rfl
@[simp] theorem setPort_ha (p : Nat) (x : Port) : (s.setPort p x).ha = s.ha := rfl
@[simp] theorem setPort_mf (p : Nat) (x : Port) : (s.setPort p x).mf = s.mf := rfl
@[simp] theorem setPort_pwrEn (p : Nat) (x : Port) : (s.setPort p x).pwrEn = s.pwrEn := rfl
@[simp] theorem setPort_pmbusOn (p : Nat) (x : Port) : (s.setPort p x).pmbusOn = s.pmbusOn := rfl
@[simp] theorem setPort_gpioPins (p : Nat) (x : Port) : (s.setPort p x).gpioPins = s.gpioPins := rfl
@[simp] theorem setPort_freeN (p : Nat) (x : Port) : (s.setPort p x).freeN = s.freeN := rfl

/-! ### updPort -/

@[simp] theorem updPort_pending (p : Nat) (f : Port → Port) : (s.updPort p f).pending = s.pending := rfl
@[simp] theorem updPort_gts (p : Nat) (f : Port → Port) : (s.updPort p f).gts = s.gts := rfl
@[simp] theorem updPort_regs (p : Nat) (f : Port → Port) : (s.updPort p f).regs = s.regs := rfl
@[simp] theorem updPort_ctrs (p : Nat) (f : Port → Port) : (s.updPort p f).ctrs = s.ctrs := rfl
@[simp] theorem updPort_cntHi (p : Nat) (f : Port → Port) : (s.updPort p f).cntHi = s.cntHi := rfl
@[simp] theorem updPort_rdata (p : Nat) (f : Port → Port) : (s.updPort p f).rdata = s.rdata := rfl
@[simp] theorem updPort_spiStatus (p : Nat) (f : Port → Port) : (s.updPort p f).spiStatus = s.spiStatus := rfl
@[simp] theorem updPort_msix (p : Nat) (f : Port → Port) : (s.updPort p f).msix = s.msix := rfl
@[simp] theorem updPort_log (p : Nat) (f : Port → Port) : (s.updPort p f).log = s.log := rfl
@[simp] theorem updPort_cfg (p : Nat) (f : Port → Port) : (s.updPort p f).cfg = s.cfg := rfl
@[simp] theorem updPort_load (p : Nat) (f : Port → Port) : (s.updPort p f).load = s.load := rfl
@[simp] theorem updPort_staging (p : Nat) (f : Port → Port) : (s.updPort p f).staging = s.staging := rfl
@[simp] theorem updPort_queues (p : Nat) (f : Port → Port) : (s.updPort p f).queues = s.queues := rfl
@[simp] theorem updPort_qfResult (p : Nat) (f : Port → Port) : (s.updPort p f).qfResult = s.qfResult := rfl
@[simp] theorem updPort_sup (p : Nat) (f : Port → Port) : (s.updPort p f).sup = s.sup := rfl
@[simp] theorem updPort_fuses (p : Nat) (f : Port → Port) : (s.updPort p f).fuses = s.fuses := rfl
@[simp] theorem updPort_trust (p : Nat) (f : Port → Port) : (s.updPort p f).trust = s.trust := rfl
@[simp] theorem updPort_host (p : Nat) (f : Port → Port) : (s.updPort p f).host = s.host := rfl
@[simp] theorem updPort_tb (p : Nat) (f : Port → Port) : (s.updPort p f).tb = s.tb := rfl
@[simp] theorem updPort_se (p : Nat) (f : Port → Port) : (s.updPort p f).se = s.se := rfl
@[simp] theorem updPort_ce (p : Nat) (f : Port → Port) : (s.updPort p f).ce = s.ce := rfl
@[simp] theorem updPort_em (p : Nat) (f : Port → Port) : (s.updPort p f).em = s.em := rfl
@[simp] theorem updPort_cz (p : Nat) (f : Port → Port) : (s.updPort p f).cz = s.cz := rfl
@[simp] theorem updPort_rc (p : Nat) (f : Port → Port) : (s.updPort p f).rc = s.rc := rfl
@[simp] theorem updPort_ha (p : Nat) (f : Port → Port) : (s.updPort p f).ha = s.ha := rfl
@[simp] theorem updPort_mf (p : Nat) (f : Port → Port) : (s.updPort p f).mf = s.mf := rfl
@[simp] theorem updPort_pwrEn (p : Nat) (f : Port → Port) : (s.updPort p f).pwrEn = s.pwrEn := rfl
@[simp] theorem updPort_pmbusOn (p : Nat) (f : Port → Port) : (s.updPort p f).pmbusOn = s.pmbusOn := rfl
@[simp] theorem updPort_gpioPins (p : Nat) (f : Port → Port) : (s.updPort p f).gpioPins = s.gpioPins := rfl
@[simp] theorem updPort_freeN (p : Nat) (f : Port → Port) : (s.updPort p f).freeN = s.freeN := rfl

/-! ### setQueue -/

@[simp] theorem setQueue_pending (q : Nat) (x : Queue) : (s.setQueue q x).pending = s.pending := rfl
@[simp] theorem setQueue_gts (q : Nat) (x : Queue) : (s.setQueue q x).gts = s.gts := rfl
@[simp] theorem setQueue_regs (q : Nat) (x : Queue) : (s.setQueue q x).regs = s.regs := rfl
@[simp] theorem setQueue_ctrs (q : Nat) (x : Queue) : (s.setQueue q x).ctrs = s.ctrs := rfl
@[simp] theorem setQueue_cntHi (q : Nat) (x : Queue) : (s.setQueue q x).cntHi = s.cntHi := rfl
@[simp] theorem setQueue_rdata (q : Nat) (x : Queue) : (s.setQueue q x).rdata = s.rdata := rfl
@[simp] theorem setQueue_spiStatus (q : Nat) (x : Queue) : (s.setQueue q x).spiStatus = s.spiStatus := rfl
@[simp] theorem setQueue_msix (q : Nat) (x : Queue) : (s.setQueue q x).msix = s.msix := rfl
@[simp] theorem setQueue_log (q : Nat) (x : Queue) : (s.setQueue q x).log = s.log := rfl
@[simp] theorem setQueue_cfg (q : Nat) (x : Queue) : (s.setQueue q x).cfg = s.cfg := rfl
@[simp] theorem setQueue_load (q : Nat) (x : Queue) : (s.setQueue q x).load = s.load := rfl
@[simp] theorem setQueue_staging (q : Nat) (x : Queue) : (s.setQueue q x).staging = s.staging := rfl
@[simp] theorem setQueue_ports (q : Nat) (x : Queue) : (s.setQueue q x).ports = s.ports := rfl
@[simp] theorem setQueue_qfResult (q : Nat) (x : Queue) : (s.setQueue q x).qfResult = s.qfResult := rfl
@[simp] theorem setQueue_sup (q : Nat) (x : Queue) : (s.setQueue q x).sup = s.sup := rfl
@[simp] theorem setQueue_fuses (q : Nat) (x : Queue) : (s.setQueue q x).fuses = s.fuses := rfl
@[simp] theorem setQueue_trust (q : Nat) (x : Queue) : (s.setQueue q x).trust = s.trust := rfl
@[simp] theorem setQueue_host (q : Nat) (x : Queue) : (s.setQueue q x).host = s.host := rfl
@[simp] theorem setQueue_tb (q : Nat) (x : Queue) : (s.setQueue q x).tb = s.tb := rfl
@[simp] theorem setQueue_se (q : Nat) (x : Queue) : (s.setQueue q x).se = s.se := rfl
@[simp] theorem setQueue_ce (q : Nat) (x : Queue) : (s.setQueue q x).ce = s.ce := rfl
@[simp] theorem setQueue_em (q : Nat) (x : Queue) : (s.setQueue q x).em = s.em := rfl
@[simp] theorem setQueue_cz (q : Nat) (x : Queue) : (s.setQueue q x).cz = s.cz := rfl
@[simp] theorem setQueue_rc (q : Nat) (x : Queue) : (s.setQueue q x).rc = s.rc := rfl
@[simp] theorem setQueue_ha (q : Nat) (x : Queue) : (s.setQueue q x).ha = s.ha := rfl
@[simp] theorem setQueue_mf (q : Nat) (x : Queue) : (s.setQueue q x).mf = s.mf := rfl
@[simp] theorem setQueue_pwrEn (q : Nat) (x : Queue) : (s.setQueue q x).pwrEn = s.pwrEn := rfl
@[simp] theorem setQueue_pmbusOn (q : Nat) (x : Queue) : (s.setQueue q x).pmbusOn = s.pmbusOn := rfl
@[simp] theorem setQueue_gpioPins (q : Nat) (x : Queue) : (s.setQueue q x).gpioPins = s.gpioPins := rfl
@[simp] theorem setQueue_freeN (q : Nat) (x : Queue) : (s.setQueue q x).freeN = s.freeN := rfl

/-! ### updQueue -/

@[simp] theorem updQueue_pending (q : Nat) (f : Queue → Queue) : (s.updQueue q f).pending = s.pending := rfl
@[simp] theorem updQueue_gts (q : Nat) (f : Queue → Queue) : (s.updQueue q f).gts = s.gts := rfl
@[simp] theorem updQueue_regs (q : Nat) (f : Queue → Queue) : (s.updQueue q f).regs = s.regs := rfl
@[simp] theorem updQueue_ctrs (q : Nat) (f : Queue → Queue) : (s.updQueue q f).ctrs = s.ctrs := rfl
@[simp] theorem updQueue_cntHi (q : Nat) (f : Queue → Queue) : (s.updQueue q f).cntHi = s.cntHi := rfl
@[simp] theorem updQueue_rdata (q : Nat) (f : Queue → Queue) : (s.updQueue q f).rdata = s.rdata := rfl
@[simp] theorem updQueue_spiStatus (q : Nat) (f : Queue → Queue) : (s.updQueue q f).spiStatus = s.spiStatus := rfl
@[simp] theorem updQueue_msix (q : Nat) (f : Queue → Queue) : (s.updQueue q f).msix = s.msix := rfl
@[simp] theorem updQueue_log (q : Nat) (f : Queue → Queue) : (s.updQueue q f).log = s.log := rfl
@[simp] theorem updQueue_cfg (q : Nat) (f : Queue → Queue) : (s.updQueue q f).cfg = s.cfg := rfl
@[simp] theorem updQueue_load (q : Nat) (f : Queue → Queue) : (s.updQueue q f).load = s.load := rfl
@[simp] theorem updQueue_staging (q : Nat) (f : Queue → Queue) : (s.updQueue q f).staging = s.staging := rfl
@[simp] theorem updQueue_ports (q : Nat) (f : Queue → Queue) : (s.updQueue q f).ports = s.ports := rfl
@[simp] theorem updQueue_qfResult (q : Nat) (f : Queue → Queue) : (s.updQueue q f).qfResult = s.qfResult := rfl
@[simp] theorem updQueue_sup (q : Nat) (f : Queue → Queue) : (s.updQueue q f).sup = s.sup := rfl
@[simp] theorem updQueue_fuses (q : Nat) (f : Queue → Queue) : (s.updQueue q f).fuses = s.fuses := rfl
@[simp] theorem updQueue_trust (q : Nat) (f : Queue → Queue) : (s.updQueue q f).trust = s.trust := rfl
@[simp] theorem updQueue_host (q : Nat) (f : Queue → Queue) : (s.updQueue q f).host = s.host := rfl
@[simp] theorem updQueue_tb (q : Nat) (f : Queue → Queue) : (s.updQueue q f).tb = s.tb := rfl
@[simp] theorem updQueue_se (q : Nat) (f : Queue → Queue) : (s.updQueue q f).se = s.se := rfl
@[simp] theorem updQueue_ce (q : Nat) (f : Queue → Queue) : (s.updQueue q f).ce = s.ce := rfl
@[simp] theorem updQueue_em (q : Nat) (f : Queue → Queue) : (s.updQueue q f).em = s.em := rfl
@[simp] theorem updQueue_cz (q : Nat) (f : Queue → Queue) : (s.updQueue q f).cz = s.cz := rfl
@[simp] theorem updQueue_rc (q : Nat) (f : Queue → Queue) : (s.updQueue q f).rc = s.rc := rfl
@[simp] theorem updQueue_ha (q : Nat) (f : Queue → Queue) : (s.updQueue q f).ha = s.ha := rfl
@[simp] theorem updQueue_mf (q : Nat) (f : Queue → Queue) : (s.updQueue q f).mf = s.mf := rfl
@[simp] theorem updQueue_pwrEn (q : Nat) (f : Queue → Queue) : (s.updQueue q f).pwrEn = s.pwrEn := rfl
@[simp] theorem updQueue_pmbusOn (q : Nat) (f : Queue → Queue) : (s.updQueue q f).pmbusOn = s.pmbusOn := rfl
@[simp] theorem updQueue_gpioPins (q : Nat) (f : Queue → Queue) : (s.updQueue q f).gpioPins = s.gpioPins := rfl
@[simp] theorem updQueue_freeN (q : Nat) (f : Queue → Queue) : (s.updQueue q f).freeN = s.freeN := rfl

/-! ### setInst -/

@[simp] theorem setInst_pending (i : Nat) (x : PtpInst) : (s.setInst i x).pending = s.pending := rfl
@[simp] theorem setInst_gts (i : Nat) (x : PtpInst) : (s.setInst i x).gts = s.gts := rfl
@[simp] theorem setInst_regs (i : Nat) (x : PtpInst) : (s.setInst i x).regs = s.regs := rfl
@[simp] theorem setInst_ctrs (i : Nat) (x : PtpInst) : (s.setInst i x).ctrs = s.ctrs := rfl
@[simp] theorem setInst_cntHi (i : Nat) (x : PtpInst) : (s.setInst i x).cntHi = s.cntHi := rfl
@[simp] theorem setInst_rdata (i : Nat) (x : PtpInst) : (s.setInst i x).rdata = s.rdata := rfl
@[simp] theorem setInst_spiStatus (i : Nat) (x : PtpInst) : (s.setInst i x).spiStatus = s.spiStatus := rfl
@[simp] theorem setInst_msix (i : Nat) (x : PtpInst) : (s.setInst i x).msix = s.msix := rfl
@[simp] theorem setInst_log (i : Nat) (x : PtpInst) : (s.setInst i x).log = s.log := rfl
@[simp] theorem setInst_cfg (i : Nat) (x : PtpInst) : (s.setInst i x).cfg = s.cfg := rfl
@[simp] theorem setInst_load (i : Nat) (x : PtpInst) : (s.setInst i x).load = s.load := rfl
@[simp] theorem setInst_staging (i : Nat) (x : PtpInst) : (s.setInst i x).staging = s.staging := rfl
@[simp] theorem setInst_ports (i : Nat) (x : PtpInst) : (s.setInst i x).ports = s.ports := rfl
@[simp] theorem setInst_queues (i : Nat) (x : PtpInst) : (s.setInst i x).queues = s.queues := rfl
@[simp] theorem setInst_qfResult (i : Nat) (x : PtpInst) : (s.setInst i x).qfResult = s.qfResult := rfl
@[simp] theorem setInst_sup (i : Nat) (x : PtpInst) : (s.setInst i x).sup = s.sup := rfl
@[simp] theorem setInst_fuses (i : Nat) (x : PtpInst) : (s.setInst i x).fuses = s.fuses := rfl
@[simp] theorem setInst_trust (i : Nat) (x : PtpInst) : (s.setInst i x).trust = s.trust := rfl
@[simp] theorem setInst_host (i : Nat) (x : PtpInst) : (s.setInst i x).host = s.host := rfl
@[simp] theorem setInst_se (i : Nat) (x : PtpInst) : (s.setInst i x).se = s.se := rfl
@[simp] theorem setInst_ce (i : Nat) (x : PtpInst) : (s.setInst i x).ce = s.ce := rfl
@[simp] theorem setInst_em (i : Nat) (x : PtpInst) : (s.setInst i x).em = s.em := rfl
@[simp] theorem setInst_cz (i : Nat) (x : PtpInst) : (s.setInst i x).cz = s.cz := rfl
@[simp] theorem setInst_rc (i : Nat) (x : PtpInst) : (s.setInst i x).rc = s.rc := rfl
@[simp] theorem setInst_ha (i : Nat) (x : PtpInst) : (s.setInst i x).ha = s.ha := rfl
@[simp] theorem setInst_mf (i : Nat) (x : PtpInst) : (s.setInst i x).mf = s.mf := rfl
@[simp] theorem setInst_pwrEn (i : Nat) (x : PtpInst) : (s.setInst i x).pwrEn = s.pwrEn := rfl
@[simp] theorem setInst_pmbusOn (i : Nat) (x : PtpInst) : (s.setInst i x).pmbusOn = s.pmbusOn := rfl
@[simp] theorem setInst_gpioPins (i : Nat) (x : PtpInst) : (s.setInst i x).gpioPins = s.gpioPins := rfl
@[simp] theorem setInst_freeN (i : Nat) (x : PtpInst) : (s.setInst i x).freeN = s.freeN := rfl

/-! ### setCtx -/

@[simp] theorem setCtx_pending (c : Nat) (x : CeCtx) : (s.setCtx c x).pending = s.pending := rfl
@[simp] theorem setCtx_gts (c : Nat) (x : CeCtx) : (s.setCtx c x).gts = s.gts := rfl
@[simp] theorem setCtx_regs (c : Nat) (x : CeCtx) : (s.setCtx c x).regs = s.regs := rfl
@[simp] theorem setCtx_ctrs (c : Nat) (x : CeCtx) : (s.setCtx c x).ctrs = s.ctrs := rfl
@[simp] theorem setCtx_cntHi (c : Nat) (x : CeCtx) : (s.setCtx c x).cntHi = s.cntHi := rfl
@[simp] theorem setCtx_rdata (c : Nat) (x : CeCtx) : (s.setCtx c x).rdata = s.rdata := rfl
@[simp] theorem setCtx_spiStatus (c : Nat) (x : CeCtx) : (s.setCtx c x).spiStatus = s.spiStatus := rfl
@[simp] theorem setCtx_msix (c : Nat) (x : CeCtx) : (s.setCtx c x).msix = s.msix := rfl
@[simp] theorem setCtx_log (c : Nat) (x : CeCtx) : (s.setCtx c x).log = s.log := rfl
@[simp] theorem setCtx_cfg (c : Nat) (x : CeCtx) : (s.setCtx c x).cfg = s.cfg := rfl
@[simp] theorem setCtx_load (c : Nat) (x : CeCtx) : (s.setCtx c x).load = s.load := rfl
@[simp] theorem setCtx_staging (c : Nat) (x : CeCtx) : (s.setCtx c x).staging = s.staging := rfl
@[simp] theorem setCtx_ports (c : Nat) (x : CeCtx) : (s.setCtx c x).ports = s.ports := rfl
@[simp] theorem setCtx_queues (c : Nat) (x : CeCtx) : (s.setCtx c x).queues = s.queues := rfl
@[simp] theorem setCtx_qfResult (c : Nat) (x : CeCtx) : (s.setCtx c x).qfResult = s.qfResult := rfl
@[simp] theorem setCtx_sup (c : Nat) (x : CeCtx) : (s.setCtx c x).sup = s.sup := rfl
@[simp] theorem setCtx_fuses (c : Nat) (x : CeCtx) : (s.setCtx c x).fuses = s.fuses := rfl
@[simp] theorem setCtx_trust (c : Nat) (x : CeCtx) : (s.setCtx c x).trust = s.trust := rfl
@[simp] theorem setCtx_host (c : Nat) (x : CeCtx) : (s.setCtx c x).host = s.host := rfl
@[simp] theorem setCtx_tb (c : Nat) (x : CeCtx) : (s.setCtx c x).tb = s.tb := rfl
@[simp] theorem setCtx_se (c : Nat) (x : CeCtx) : (s.setCtx c x).se = s.se := rfl
@[simp] theorem setCtx_em (c : Nat) (x : CeCtx) : (s.setCtx c x).em = s.em := rfl
@[simp] theorem setCtx_cz (c : Nat) (x : CeCtx) : (s.setCtx c x).cz = s.cz := rfl
@[simp] theorem setCtx_rc (c : Nat) (x : CeCtx) : (s.setCtx c x).rc = s.rc := rfl
@[simp] theorem setCtx_ha (c : Nat) (x : CeCtx) : (s.setCtx c x).ha = s.ha := rfl
@[simp] theorem setCtx_mf (c : Nat) (x : CeCtx) : (s.setCtx c x).mf = s.mf := rfl
@[simp] theorem setCtx_pwrEn (c : Nat) (x : CeCtx) : (s.setCtx c x).pwrEn = s.pwrEn := rfl
@[simp] theorem setCtx_pmbusOn (c : Nat) (x : CeCtx) : (s.setCtx c x).pmbusOn = s.pmbusOn := rfl
@[simp] theorem setCtx_gpioPins (c : Nat) (x : CeCtx) : (s.setCtx c x).gpioPins = s.gpioPins := rfl
@[simp] theorem setCtx_freeN (c : Nat) (x : CeCtx) : (s.setCtx c x).freeN = s.freeN := rfl

/-! ### setSa -/

@[simp] theorem setSa_pending (i : Nat) (x : Sa) : (s.setSa i x).pending = s.pending := rfl
@[simp] theorem setSa_gts (i : Nat) (x : Sa) : (s.setSa i x).gts = s.gts := rfl
@[simp] theorem setSa_regs (i : Nat) (x : Sa) : (s.setSa i x).regs = s.regs := rfl
@[simp] theorem setSa_ctrs (i : Nat) (x : Sa) : (s.setSa i x).ctrs = s.ctrs := rfl
@[simp] theorem setSa_cntHi (i : Nat) (x : Sa) : (s.setSa i x).cntHi = s.cntHi := rfl
@[simp] theorem setSa_rdata (i : Nat) (x : Sa) : (s.setSa i x).rdata = s.rdata := rfl
@[simp] theorem setSa_spiStatus (i : Nat) (x : Sa) : (s.setSa i x).spiStatus = s.spiStatus := rfl
@[simp] theorem setSa_msix (i : Nat) (x : Sa) : (s.setSa i x).msix = s.msix := rfl
@[simp] theorem setSa_log (i : Nat) (x : Sa) : (s.setSa i x).log = s.log := rfl
@[simp] theorem setSa_cfg (i : Nat) (x : Sa) : (s.setSa i x).cfg = s.cfg := rfl
@[simp] theorem setSa_load (i : Nat) (x : Sa) : (s.setSa i x).load = s.load := rfl
@[simp] theorem setSa_staging (i : Nat) (x : Sa) : (s.setSa i x).staging = s.staging := rfl
@[simp] theorem setSa_ports (i : Nat) (x : Sa) : (s.setSa i x).ports = s.ports := rfl
@[simp] theorem setSa_queues (i : Nat) (x : Sa) : (s.setSa i x).queues = s.queues := rfl
@[simp] theorem setSa_qfResult (i : Nat) (x : Sa) : (s.setSa i x).qfResult = s.qfResult := rfl
@[simp] theorem setSa_sup (i : Nat) (x : Sa) : (s.setSa i x).sup = s.sup := rfl
@[simp] theorem setSa_fuses (i : Nat) (x : Sa) : (s.setSa i x).fuses = s.fuses := rfl
@[simp] theorem setSa_trust (i : Nat) (x : Sa) : (s.setSa i x).trust = s.trust := rfl
@[simp] theorem setSa_host (i : Nat) (x : Sa) : (s.setSa i x).host = s.host := rfl
@[simp] theorem setSa_tb (i : Nat) (x : Sa) : (s.setSa i x).tb = s.tb := rfl
@[simp] theorem setSa_se (i : Nat) (x : Sa) : (s.setSa i x).se = s.se := rfl
@[simp] theorem setSa_em (i : Nat) (x : Sa) : (s.setSa i x).em = s.em := rfl
@[simp] theorem setSa_cz (i : Nat) (x : Sa) : (s.setSa i x).cz = s.cz := rfl
@[simp] theorem setSa_rc (i : Nat) (x : Sa) : (s.setSa i x).rc = s.rc := rfl
@[simp] theorem setSa_ha (i : Nat) (x : Sa) : (s.setSa i x).ha = s.ha := rfl
@[simp] theorem setSa_mf (i : Nat) (x : Sa) : (s.setSa i x).mf = s.mf := rfl
@[simp] theorem setSa_pwrEn (i : Nat) (x : Sa) : (s.setSa i x).pwrEn = s.pwrEn := rfl
@[simp] theorem setSa_pmbusOn (i : Nat) (x : Sa) : (s.setSa i x).pmbusOn = s.pmbusOn := rfl
@[simp] theorem setSa_gpioPins (i : Nat) (x : Sa) : (s.setSa i x).gpioPins = s.gpioPins := rfl
@[simp] theorem setSa_freeN (i : Nat) (x : Sa) : (s.setSa i x).freeN = s.freeN := rfl

/-! ### setLane -/

@[simp] theorem setLane_pending (n : Nat) (x : Lane) : (s.setLane n x).pending = s.pending := rfl
@[simp] theorem setLane_gts (n : Nat) (x : Lane) : (s.setLane n x).gts = s.gts := rfl
@[simp] theorem setLane_regs (n : Nat) (x : Lane) : (s.setLane n x).regs = s.regs := rfl
@[simp] theorem setLane_ctrs (n : Nat) (x : Lane) : (s.setLane n x).ctrs = s.ctrs := rfl
@[simp] theorem setLane_cntHi (n : Nat) (x : Lane) : (s.setLane n x).cntHi = s.cntHi := rfl
@[simp] theorem setLane_rdata (n : Nat) (x : Lane) : (s.setLane n x).rdata = s.rdata := rfl
@[simp] theorem setLane_spiStatus (n : Nat) (x : Lane) : (s.setLane n x).spiStatus = s.spiStatus := rfl
@[simp] theorem setLane_msix (n : Nat) (x : Lane) : (s.setLane n x).msix = s.msix := rfl
@[simp] theorem setLane_log (n : Nat) (x : Lane) : (s.setLane n x).log = s.log := rfl
@[simp] theorem setLane_cfg (n : Nat) (x : Lane) : (s.setLane n x).cfg = s.cfg := rfl
@[simp] theorem setLane_load (n : Nat) (x : Lane) : (s.setLane n x).load = s.load := rfl
@[simp] theorem setLane_staging (n : Nat) (x : Lane) : (s.setLane n x).staging = s.staging := rfl
@[simp] theorem setLane_ports (n : Nat) (x : Lane) : (s.setLane n x).ports = s.ports := rfl
@[simp] theorem setLane_queues (n : Nat) (x : Lane) : (s.setLane n x).queues = s.queues := rfl
@[simp] theorem setLane_qfResult (n : Nat) (x : Lane) : (s.setLane n x).qfResult = s.qfResult := rfl
@[simp] theorem setLane_sup (n : Nat) (x : Lane) : (s.setLane n x).sup = s.sup := rfl
@[simp] theorem setLane_fuses (n : Nat) (x : Lane) : (s.setLane n x).fuses = s.fuses := rfl
@[simp] theorem setLane_trust (n : Nat) (x : Lane) : (s.setLane n x).trust = s.trust := rfl
@[simp] theorem setLane_host (n : Nat) (x : Lane) : (s.setLane n x).host = s.host := rfl
@[simp] theorem setLane_tb (n : Nat) (x : Lane) : (s.setLane n x).tb = s.tb := rfl
@[simp] theorem setLane_se (n : Nat) (x : Lane) : (s.setLane n x).se = s.se := rfl
@[simp] theorem setLane_em (n : Nat) (x : Lane) : (s.setLane n x).em = s.em := rfl
@[simp] theorem setLane_cz (n : Nat) (x : Lane) : (s.setLane n x).cz = s.cz := rfl
@[simp] theorem setLane_rc (n : Nat) (x : Lane) : (s.setLane n x).rc = s.rc := rfl
@[simp] theorem setLane_ha (n : Nat) (x : Lane) : (s.setLane n x).ha = s.ha := rfl
@[simp] theorem setLane_mf (n : Nat) (x : Lane) : (s.setLane n x).mf = s.mf := rfl
@[simp] theorem setLane_pwrEn (n : Nat) (x : Lane) : (s.setLane n x).pwrEn = s.pwrEn := rfl
@[simp] theorem setLane_pmbusOn (n : Nat) (x : Lane) : (s.setLane n x).pmbusOn = s.pmbusOn := rfl
@[simp] theorem setLane_gpioPins (n : Nat) (x : Lane) : (s.setLane n x).gpioPins = s.gpioPins := rfl
@[simp] theorem setLane_freeN (n : Nat) (x : Lane) : (s.setLane n x).freeN = s.freeN := rfl

/-! ### setRx -/

@[simp] theorem setRx_pending (i : Nat) (x : RxStream) : (s.setRx i x).pending = s.pending := rfl
@[simp] theorem setRx_gts (i : Nat) (x : RxStream) : (s.setRx i x).gts = s.gts := rfl
@[simp] theorem setRx_regs (i : Nat) (x : RxStream) : (s.setRx i x).regs = s.regs := rfl
@[simp] theorem setRx_ctrs (i : Nat) (x : RxStream) : (s.setRx i x).ctrs = s.ctrs := rfl
@[simp] theorem setRx_cntHi (i : Nat) (x : RxStream) : (s.setRx i x).cntHi = s.cntHi := rfl
@[simp] theorem setRx_rdata (i : Nat) (x : RxStream) : (s.setRx i x).rdata = s.rdata := rfl
@[simp] theorem setRx_spiStatus (i : Nat) (x : RxStream) : (s.setRx i x).spiStatus = s.spiStatus := rfl
@[simp] theorem setRx_msix (i : Nat) (x : RxStream) : (s.setRx i x).msix = s.msix := rfl
@[simp] theorem setRx_log (i : Nat) (x : RxStream) : (s.setRx i x).log = s.log := rfl
@[simp] theorem setRx_cfg (i : Nat) (x : RxStream) : (s.setRx i x).cfg = s.cfg := rfl
@[simp] theorem setRx_load (i : Nat) (x : RxStream) : (s.setRx i x).load = s.load := rfl
@[simp] theorem setRx_staging (i : Nat) (x : RxStream) : (s.setRx i x).staging = s.staging := rfl
@[simp] theorem setRx_ports (i : Nat) (x : RxStream) : (s.setRx i x).ports = s.ports := rfl
@[simp] theorem setRx_queues (i : Nat) (x : RxStream) : (s.setRx i x).queues = s.queues := rfl
@[simp] theorem setRx_qfResult (i : Nat) (x : RxStream) : (s.setRx i x).qfResult = s.qfResult := rfl
@[simp] theorem setRx_sup (i : Nat) (x : RxStream) : (s.setRx i x).sup = s.sup := rfl
@[simp] theorem setRx_fuses (i : Nat) (x : RxStream) : (s.setRx i x).fuses = s.fuses := rfl
@[simp] theorem setRx_trust (i : Nat) (x : RxStream) : (s.setRx i x).trust = s.trust := rfl
@[simp] theorem setRx_host (i : Nat) (x : RxStream) : (s.setRx i x).host = s.host := rfl
@[simp] theorem setRx_tb (i : Nat) (x : RxStream) : (s.setRx i x).tb = s.tb := rfl
@[simp] theorem setRx_ce (i : Nat) (x : RxStream) : (s.setRx i x).ce = s.ce := rfl
@[simp] theorem setRx_em (i : Nat) (x : RxStream) : (s.setRx i x).em = s.em := rfl
@[simp] theorem setRx_cz (i : Nat) (x : RxStream) : (s.setRx i x).cz = s.cz := rfl
@[simp] theorem setRx_rc (i : Nat) (x : RxStream) : (s.setRx i x).rc = s.rc := rfl
@[simp] theorem setRx_ha (i : Nat) (x : RxStream) : (s.setRx i x).ha = s.ha := rfl
@[simp] theorem setRx_mf (i : Nat) (x : RxStream) : (s.setRx i x).mf = s.mf := rfl
@[simp] theorem setRx_pwrEn (i : Nat) (x : RxStream) : (s.setRx i x).pwrEn = s.pwrEn := rfl
@[simp] theorem setRx_pmbusOn (i : Nat) (x : RxStream) : (s.setRx i x).pmbusOn = s.pmbusOn := rfl
@[simp] theorem setRx_gpioPins (i : Nat) (x : RxStream) : (s.setRx i x).gpioPins = s.gpioPins := rfl
@[simp] theorem setRx_freeN (i : Nat) (x : RxStream) : (s.setRx i x).freeN = s.freeN := rfl

/-! ### setTx -/

@[simp] theorem setTx_pending (i : Nat) (x : TxStream) : (s.setTx i x).pending = s.pending := rfl
@[simp] theorem setTx_gts (i : Nat) (x : TxStream) : (s.setTx i x).gts = s.gts := rfl
@[simp] theorem setTx_regs (i : Nat) (x : TxStream) : (s.setTx i x).regs = s.regs := rfl
@[simp] theorem setTx_ctrs (i : Nat) (x : TxStream) : (s.setTx i x).ctrs = s.ctrs := rfl
@[simp] theorem setTx_cntHi (i : Nat) (x : TxStream) : (s.setTx i x).cntHi = s.cntHi := rfl
@[simp] theorem setTx_rdata (i : Nat) (x : TxStream) : (s.setTx i x).rdata = s.rdata := rfl
@[simp] theorem setTx_spiStatus (i : Nat) (x : TxStream) : (s.setTx i x).spiStatus = s.spiStatus := rfl
@[simp] theorem setTx_msix (i : Nat) (x : TxStream) : (s.setTx i x).msix = s.msix := rfl
@[simp] theorem setTx_log (i : Nat) (x : TxStream) : (s.setTx i x).log = s.log := rfl
@[simp] theorem setTx_cfg (i : Nat) (x : TxStream) : (s.setTx i x).cfg = s.cfg := rfl
@[simp] theorem setTx_load (i : Nat) (x : TxStream) : (s.setTx i x).load = s.load := rfl
@[simp] theorem setTx_staging (i : Nat) (x : TxStream) : (s.setTx i x).staging = s.staging := rfl
@[simp] theorem setTx_ports (i : Nat) (x : TxStream) : (s.setTx i x).ports = s.ports := rfl
@[simp] theorem setTx_queues (i : Nat) (x : TxStream) : (s.setTx i x).queues = s.queues := rfl
@[simp] theorem setTx_qfResult (i : Nat) (x : TxStream) : (s.setTx i x).qfResult = s.qfResult := rfl
@[simp] theorem setTx_sup (i : Nat) (x : TxStream) : (s.setTx i x).sup = s.sup := rfl
@[simp] theorem setTx_fuses (i : Nat) (x : TxStream) : (s.setTx i x).fuses = s.fuses := rfl
@[simp] theorem setTx_trust (i : Nat) (x : TxStream) : (s.setTx i x).trust = s.trust := rfl
@[simp] theorem setTx_host (i : Nat) (x : TxStream) : (s.setTx i x).host = s.host := rfl
@[simp] theorem setTx_tb (i : Nat) (x : TxStream) : (s.setTx i x).tb = s.tb := rfl
@[simp] theorem setTx_ce (i : Nat) (x : TxStream) : (s.setTx i x).ce = s.ce := rfl
@[simp] theorem setTx_em (i : Nat) (x : TxStream) : (s.setTx i x).em = s.em := rfl
@[simp] theorem setTx_cz (i : Nat) (x : TxStream) : (s.setTx i x).cz = s.cz := rfl
@[simp] theorem setTx_rc (i : Nat) (x : TxStream) : (s.setTx i x).rc = s.rc := rfl
@[simp] theorem setTx_ha (i : Nat) (x : TxStream) : (s.setTx i x).ha = s.ha := rfl
@[simp] theorem setTx_mf (i : Nat) (x : TxStream) : (s.setTx i x).mf = s.mf := rfl
@[simp] theorem setTx_pwrEn (i : Nat) (x : TxStream) : (s.setTx i x).pwrEn = s.pwrEn := rfl
@[simp] theorem setTx_pmbusOn (i : Nat) (x : TxStream) : (s.setTx i x).pmbusOn = s.pmbusOn := rfl
@[simp] theorem setTx_gpioPins (i : Nat) (x : TxStream) : (s.setTx i x).gpioPins = s.gpioPins := rfl
@[simp] theorem setTx_freeN (i : Nat) (x : TxStream) : (s.setTx i x).freeN = s.freeN := rfl

/-! ### setUnit -/

@[simp] theorem setUnit_pending (u : Nat) (x : CzUnit) : (s.setUnit u x).pending = s.pending := rfl
@[simp] theorem setUnit_gts (u : Nat) (x : CzUnit) : (s.setUnit u x).gts = s.gts := rfl
@[simp] theorem setUnit_regs (u : Nat) (x : CzUnit) : (s.setUnit u x).regs = s.regs := rfl
@[simp] theorem setUnit_ctrs (u : Nat) (x : CzUnit) : (s.setUnit u x).ctrs = s.ctrs := rfl
@[simp] theorem setUnit_cntHi (u : Nat) (x : CzUnit) : (s.setUnit u x).cntHi = s.cntHi := rfl
@[simp] theorem setUnit_rdata (u : Nat) (x : CzUnit) : (s.setUnit u x).rdata = s.rdata := rfl
@[simp] theorem setUnit_spiStatus (u : Nat) (x : CzUnit) : (s.setUnit u x).spiStatus = s.spiStatus := rfl
@[simp] theorem setUnit_msix (u : Nat) (x : CzUnit) : (s.setUnit u x).msix = s.msix := rfl
@[simp] theorem setUnit_log (u : Nat) (x : CzUnit) : (s.setUnit u x).log = s.log := rfl
@[simp] theorem setUnit_cfg (u : Nat) (x : CzUnit) : (s.setUnit u x).cfg = s.cfg := rfl
@[simp] theorem setUnit_load (u : Nat) (x : CzUnit) : (s.setUnit u x).load = s.load := rfl
@[simp] theorem setUnit_staging (u : Nat) (x : CzUnit) : (s.setUnit u x).staging = s.staging := rfl
@[simp] theorem setUnit_ports (u : Nat) (x : CzUnit) : (s.setUnit u x).ports = s.ports := rfl
@[simp] theorem setUnit_queues (u : Nat) (x : CzUnit) : (s.setUnit u x).queues = s.queues := rfl
@[simp] theorem setUnit_qfResult (u : Nat) (x : CzUnit) : (s.setUnit u x).qfResult = s.qfResult := rfl
@[simp] theorem setUnit_sup (u : Nat) (x : CzUnit) : (s.setUnit u x).sup = s.sup := rfl
@[simp] theorem setUnit_fuses (u : Nat) (x : CzUnit) : (s.setUnit u x).fuses = s.fuses := rfl
@[simp] theorem setUnit_trust (u : Nat) (x : CzUnit) : (s.setUnit u x).trust = s.trust := rfl
@[simp] theorem setUnit_host (u : Nat) (x : CzUnit) : (s.setUnit u x).host = s.host := rfl
@[simp] theorem setUnit_tb (u : Nat) (x : CzUnit) : (s.setUnit u x).tb = s.tb := rfl
@[simp] theorem setUnit_se (u : Nat) (x : CzUnit) : (s.setUnit u x).se = s.se := rfl
@[simp] theorem setUnit_ce (u : Nat) (x : CzUnit) : (s.setUnit u x).ce = s.ce := rfl
@[simp] theorem setUnit_em (u : Nat) (x : CzUnit) : (s.setUnit u x).em = s.em := rfl
@[simp] theorem setUnit_rc (u : Nat) (x : CzUnit) : (s.setUnit u x).rc = s.rc := rfl
@[simp] theorem setUnit_ha (u : Nat) (x : CzUnit) : (s.setUnit u x).ha = s.ha := rfl
@[simp] theorem setUnit_mf (u : Nat) (x : CzUnit) : (s.setUnit u x).mf = s.mf := rfl
@[simp] theorem setUnit_pwrEn (u : Nat) (x : CzUnit) : (s.setUnit u x).pwrEn = s.pwrEn := rfl
@[simp] theorem setUnit_pmbusOn (u : Nat) (x : CzUnit) : (s.setUnit u x).pmbusOn = s.pmbusOn := rfl
@[simp] theorem setUnit_gpioPins (u : Nat) (x : CzUnit) : (s.setUnit u x).gpioPins = s.gpioPins := rfl
@[simp] theorem setUnit_freeN (u : Nat) (x : CzUnit) : (s.setUnit u x).freeN = s.freeN := rfl

/-! ### setCzStat -/

@[simp] theorem setCzStat_pending (c : Nat) (x : CzStat) : (s.setCzStat c x).pending = s.pending := rfl
@[simp] theorem setCzStat_gts (c : Nat) (x : CzStat) : (s.setCzStat c x).gts = s.gts := rfl
@[simp] theorem setCzStat_regs (c : Nat) (x : CzStat) : (s.setCzStat c x).regs = s.regs := rfl
@[simp] theorem setCzStat_ctrs (c : Nat) (x : CzStat) : (s.setCzStat c x).ctrs = s.ctrs := rfl
@[simp] theorem setCzStat_cntHi (c : Nat) (x : CzStat) : (s.setCzStat c x).cntHi = s.cntHi := rfl
@[simp] theorem setCzStat_rdata (c : Nat) (x : CzStat) : (s.setCzStat c x).rdata = s.rdata := rfl
@[simp] theorem setCzStat_spiStatus (c : Nat) (x : CzStat) : (s.setCzStat c x).spiStatus = s.spiStatus := rfl
@[simp] theorem setCzStat_msix (c : Nat) (x : CzStat) : (s.setCzStat c x).msix = s.msix := rfl
@[simp] theorem setCzStat_log (c : Nat) (x : CzStat) : (s.setCzStat c x).log = s.log := rfl
@[simp] theorem setCzStat_cfg (c : Nat) (x : CzStat) : (s.setCzStat c x).cfg = s.cfg := rfl
@[simp] theorem setCzStat_load (c : Nat) (x : CzStat) : (s.setCzStat c x).load = s.load := rfl
@[simp] theorem setCzStat_staging (c : Nat) (x : CzStat) : (s.setCzStat c x).staging = s.staging := rfl
@[simp] theorem setCzStat_ports (c : Nat) (x : CzStat) : (s.setCzStat c x).ports = s.ports := rfl
@[simp] theorem setCzStat_queues (c : Nat) (x : CzStat) : (s.setCzStat c x).queues = s.queues := rfl
@[simp] theorem setCzStat_qfResult (c : Nat) (x : CzStat) : (s.setCzStat c x).qfResult = s.qfResult := rfl
@[simp] theorem setCzStat_sup (c : Nat) (x : CzStat) : (s.setCzStat c x).sup = s.sup := rfl
@[simp] theorem setCzStat_fuses (c : Nat) (x : CzStat) : (s.setCzStat c x).fuses = s.fuses := rfl
@[simp] theorem setCzStat_trust (c : Nat) (x : CzStat) : (s.setCzStat c x).trust = s.trust := rfl
@[simp] theorem setCzStat_host (c : Nat) (x : CzStat) : (s.setCzStat c x).host = s.host := rfl
@[simp] theorem setCzStat_tb (c : Nat) (x : CzStat) : (s.setCzStat c x).tb = s.tb := rfl
@[simp] theorem setCzStat_se (c : Nat) (x : CzStat) : (s.setCzStat c x).se = s.se := rfl
@[simp] theorem setCzStat_ce (c : Nat) (x : CzStat) : (s.setCzStat c x).ce = s.ce := rfl
@[simp] theorem setCzStat_em (c : Nat) (x : CzStat) : (s.setCzStat c x).em = s.em := rfl
@[simp] theorem setCzStat_rc (c : Nat) (x : CzStat) : (s.setCzStat c x).rc = s.rc := rfl
@[simp] theorem setCzStat_ha (c : Nat) (x : CzStat) : (s.setCzStat c x).ha = s.ha := rfl
@[simp] theorem setCzStat_mf (c : Nat) (x : CzStat) : (s.setCzStat c x).mf = s.mf := rfl
@[simp] theorem setCzStat_pwrEn (c : Nat) (x : CzStat) : (s.setCzStat c x).pwrEn = s.pwrEn := rfl
@[simp] theorem setCzStat_pmbusOn (c : Nat) (x : CzStat) : (s.setCzStat c x).pmbusOn = s.pmbusOn := rfl
@[simp] theorem setCzStat_gpioPins (c : Nat) (x : CzStat) : (s.setCzStat c x).gpioPins = s.gpioPins := rfl
@[simp] theorem setCzStat_freeN (c : Nat) (x : CzStat) : (s.setCzStat c x).freeN = s.freeN := rfl

/-! ### setRate -/

@[simp] theorem setRate_pending (i : Nat) (x : RateInst) : (s.setRate i x).pending = s.pending := rfl
@[simp] theorem setRate_gts (i : Nat) (x : RateInst) : (s.setRate i x).gts = s.gts := rfl
@[simp] theorem setRate_regs (i : Nat) (x : RateInst) : (s.setRate i x).regs = s.regs := rfl
@[simp] theorem setRate_ctrs (i : Nat) (x : RateInst) : (s.setRate i x).ctrs = s.ctrs := rfl
@[simp] theorem setRate_cntHi (i : Nat) (x : RateInst) : (s.setRate i x).cntHi = s.cntHi := rfl
@[simp] theorem setRate_rdata (i : Nat) (x : RateInst) : (s.setRate i x).rdata = s.rdata := rfl
@[simp] theorem setRate_spiStatus (i : Nat) (x : RateInst) : (s.setRate i x).spiStatus = s.spiStatus := rfl
@[simp] theorem setRate_msix (i : Nat) (x : RateInst) : (s.setRate i x).msix = s.msix := rfl
@[simp] theorem setRate_log (i : Nat) (x : RateInst) : (s.setRate i x).log = s.log := rfl
@[simp] theorem setRate_cfg (i : Nat) (x : RateInst) : (s.setRate i x).cfg = s.cfg := rfl
@[simp] theorem setRate_load (i : Nat) (x : RateInst) : (s.setRate i x).load = s.load := rfl
@[simp] theorem setRate_staging (i : Nat) (x : RateInst) : (s.setRate i x).staging = s.staging := rfl
@[simp] theorem setRate_ports (i : Nat) (x : RateInst) : (s.setRate i x).ports = s.ports := rfl
@[simp] theorem setRate_queues (i : Nat) (x : RateInst) : (s.setRate i x).queues = s.queues := rfl
@[simp] theorem setRate_qfResult (i : Nat) (x : RateInst) : (s.setRate i x).qfResult = s.qfResult := rfl
@[simp] theorem setRate_sup (i : Nat) (x : RateInst) : (s.setRate i x).sup = s.sup := rfl
@[simp] theorem setRate_fuses (i : Nat) (x : RateInst) : (s.setRate i x).fuses = s.fuses := rfl
@[simp] theorem setRate_trust (i : Nat) (x : RateInst) : (s.setRate i x).trust = s.trust := rfl
@[simp] theorem setRate_host (i : Nat) (x : RateInst) : (s.setRate i x).host = s.host := rfl
@[simp] theorem setRate_tb (i : Nat) (x : RateInst) : (s.setRate i x).tb = s.tb := rfl
@[simp] theorem setRate_se (i : Nat) (x : RateInst) : (s.setRate i x).se = s.se := rfl
@[simp] theorem setRate_ce (i : Nat) (x : RateInst) : (s.setRate i x).ce = s.ce := rfl
@[simp] theorem setRate_em (i : Nat) (x : RateInst) : (s.setRate i x).em = s.em := rfl
@[simp] theorem setRate_cz (i : Nat) (x : RateInst) : (s.setRate i x).cz = s.cz := rfl
@[simp] theorem setRate_ha (i : Nat) (x : RateInst) : (s.setRate i x).ha = s.ha := rfl
@[simp] theorem setRate_mf (i : Nat) (x : RateInst) : (s.setRate i x).mf = s.mf := rfl
@[simp] theorem setRate_pwrEn (i : Nat) (x : RateInst) : (s.setRate i x).pwrEn = s.pwrEn := rfl
@[simp] theorem setRate_pmbusOn (i : Nat) (x : RateInst) : (s.setRate i x).pmbusOn = s.pmbusOn := rfl
@[simp] theorem setRate_gpioPins (i : Nat) (x : RateInst) : (s.setRate i x).gpioPins = s.gpioPins := rfl
@[simp] theorem setRate_freeN (i : Nat) (x : RateInst) : (s.setRate i x).freeN = s.freeN := rfl

/-! ### setCore -/

@[simp] theorem setCore_pending (i : Nat) (x : Core) : (s.setCore i x).pending = s.pending := rfl
@[simp] theorem setCore_gts (i : Nat) (x : Core) : (s.setCore i x).gts = s.gts := rfl
@[simp] theorem setCore_regs (i : Nat) (x : Core) : (s.setCore i x).regs = s.regs := rfl
@[simp] theorem setCore_ctrs (i : Nat) (x : Core) : (s.setCore i x).ctrs = s.ctrs := rfl
@[simp] theorem setCore_cntHi (i : Nat) (x : Core) : (s.setCore i x).cntHi = s.cntHi := rfl
@[simp] theorem setCore_rdata (i : Nat) (x : Core) : (s.setCore i x).rdata = s.rdata := rfl
@[simp] theorem setCore_spiStatus (i : Nat) (x : Core) : (s.setCore i x).spiStatus = s.spiStatus := rfl
@[simp] theorem setCore_msix (i : Nat) (x : Core) : (s.setCore i x).msix = s.msix := rfl
@[simp] theorem setCore_log (i : Nat) (x : Core) : (s.setCore i x).log = s.log := rfl
@[simp] theorem setCore_cfg (i : Nat) (x : Core) : (s.setCore i x).cfg = s.cfg := rfl
@[simp] theorem setCore_load (i : Nat) (x : Core) : (s.setCore i x).load = s.load := rfl
@[simp] theorem setCore_staging (i : Nat) (x : Core) : (s.setCore i x).staging = s.staging := rfl
@[simp] theorem setCore_ports (i : Nat) (x : Core) : (s.setCore i x).ports = s.ports := rfl
@[simp] theorem setCore_queues (i : Nat) (x : Core) : (s.setCore i x).queues = s.queues := rfl
@[simp] theorem setCore_qfResult (i : Nat) (x : Core) : (s.setCore i x).qfResult = s.qfResult := rfl
@[simp] theorem setCore_sup (i : Nat) (x : Core) : (s.setCore i x).sup = s.sup := rfl
@[simp] theorem setCore_fuses (i : Nat) (x : Core) : (s.setCore i x).fuses = s.fuses := rfl
@[simp] theorem setCore_trust (i : Nat) (x : Core) : (s.setCore i x).trust = s.trust := rfl
@[simp] theorem setCore_host (i : Nat) (x : Core) : (s.setCore i x).host = s.host := rfl
@[simp] theorem setCore_tb (i : Nat) (x : Core) : (s.setCore i x).tb = s.tb := rfl
@[simp] theorem setCore_se (i : Nat) (x : Core) : (s.setCore i x).se = s.se := rfl
@[simp] theorem setCore_ce (i : Nat) (x : Core) : (s.setCore i x).ce = s.ce := rfl
@[simp] theorem setCore_em (i : Nat) (x : Core) : (s.setCore i x).em = s.em := rfl
@[simp] theorem setCore_cz (i : Nat) (x : Core) : (s.setCore i x).cz = s.cz := rfl
@[simp] theorem setCore_rc (i : Nat) (x : Core) : (s.setCore i x).rc = s.rc := rfl
@[simp] theorem setCore_mf (i : Nat) (x : Core) : (s.setCore i x).mf = s.mf := rfl
@[simp] theorem setCore_pwrEn (i : Nat) (x : Core) : (s.setCore i x).pwrEn = s.pwrEn := rfl
@[simp] theorem setCore_pmbusOn (i : Nat) (x : Core) : (s.setCore i x).pmbusOn = s.pmbusOn := rfl
@[simp] theorem setCore_gpioPins (i : Nat) (x : Core) : (s.setCore i x).gpioPins = s.gpioPins := rfl
@[simp] theorem setCore_freeN (i : Nat) (x : Core) : (s.setCore i x).freeN = s.freeN := rfl

/-! ### setTask -/

@[simp] theorem setTask_pending (k : Nat) (x : Inst) : (s.setTask k x).pending = s.pending := rfl
@[simp] theorem setTask_gts (k : Nat) (x : Inst) : (s.setTask k x).gts = s.gts := rfl
@[simp] theorem setTask_regs (k : Nat) (x : Inst) : (s.setTask k x).regs = s.regs := rfl
@[simp] theorem setTask_ctrs (k : Nat) (x : Inst) : (s.setTask k x).ctrs = s.ctrs := rfl
@[simp] theorem setTask_cntHi (k : Nat) (x : Inst) : (s.setTask k x).cntHi = s.cntHi := rfl
@[simp] theorem setTask_rdata (k : Nat) (x : Inst) : (s.setTask k x).rdata = s.rdata := rfl
@[simp] theorem setTask_spiStatus (k : Nat) (x : Inst) : (s.setTask k x).spiStatus = s.spiStatus := rfl
@[simp] theorem setTask_msix (k : Nat) (x : Inst) : (s.setTask k x).msix = s.msix := rfl
@[simp] theorem setTask_log (k : Nat) (x : Inst) : (s.setTask k x).log = s.log := rfl
@[simp] theorem setTask_cfg (k : Nat) (x : Inst) : (s.setTask k x).cfg = s.cfg := rfl
@[simp] theorem setTask_load (k : Nat) (x : Inst) : (s.setTask k x).load = s.load := rfl
@[simp] theorem setTask_staging (k : Nat) (x : Inst) : (s.setTask k x).staging = s.staging := rfl
@[simp] theorem setTask_ports (k : Nat) (x : Inst) : (s.setTask k x).ports = s.ports := rfl
@[simp] theorem setTask_queues (k : Nat) (x : Inst) : (s.setTask k x).queues = s.queues := rfl
@[simp] theorem setTask_qfResult (k : Nat) (x : Inst) : (s.setTask k x).qfResult = s.qfResult := rfl
@[simp] theorem setTask_sup (k : Nat) (x : Inst) : (s.setTask k x).sup = s.sup := rfl
@[simp] theorem setTask_fuses (k : Nat) (x : Inst) : (s.setTask k x).fuses = s.fuses := rfl
@[simp] theorem setTask_trust (k : Nat) (x : Inst) : (s.setTask k x).trust = s.trust := rfl
@[simp] theorem setTask_host (k : Nat) (x : Inst) : (s.setTask k x).host = s.host := rfl
@[simp] theorem setTask_tb (k : Nat) (x : Inst) : (s.setTask k x).tb = s.tb := rfl
@[simp] theorem setTask_se (k : Nat) (x : Inst) : (s.setTask k x).se = s.se := rfl
@[simp] theorem setTask_ce (k : Nat) (x : Inst) : (s.setTask k x).ce = s.ce := rfl
@[simp] theorem setTask_em (k : Nat) (x : Inst) : (s.setTask k x).em = s.em := rfl
@[simp] theorem setTask_cz (k : Nat) (x : Inst) : (s.setTask k x).cz = s.cz := rfl
@[simp] theorem setTask_rc (k : Nat) (x : Inst) : (s.setTask k x).rc = s.rc := rfl
@[simp] theorem setTask_mf (k : Nat) (x : Inst) : (s.setTask k x).mf = s.mf := rfl
@[simp] theorem setTask_pwrEn (k : Nat) (x : Inst) : (s.setTask k x).pwrEn = s.pwrEn := rfl
@[simp] theorem setTask_pmbusOn (k : Nat) (x : Inst) : (s.setTask k x).pmbusOn = s.pmbusOn := rfl
@[simp] theorem setTask_gpioPins (k : Nat) (x : Inst) : (s.setTask k x).gpioPins = s.gpioPins := rfl
@[simp] theorem setTask_freeN (k : Nat) (x : Inst) : (s.setTask k x).freeN = s.freeN := rfl

/-! ### setTstat -/

@[simp] theorem setTstat_pending (t : Nat) (x : TaskStat) : (s.setTstat t x).pending = s.pending := rfl
@[simp] theorem setTstat_gts (t : Nat) (x : TaskStat) : (s.setTstat t x).gts = s.gts := rfl
@[simp] theorem setTstat_regs (t : Nat) (x : TaskStat) : (s.setTstat t x).regs = s.regs := rfl
@[simp] theorem setTstat_ctrs (t : Nat) (x : TaskStat) : (s.setTstat t x).ctrs = s.ctrs := rfl
@[simp] theorem setTstat_cntHi (t : Nat) (x : TaskStat) : (s.setTstat t x).cntHi = s.cntHi := rfl
@[simp] theorem setTstat_rdata (t : Nat) (x : TaskStat) : (s.setTstat t x).rdata = s.rdata := rfl
@[simp] theorem setTstat_spiStatus (t : Nat) (x : TaskStat) : (s.setTstat t x).spiStatus = s.spiStatus := rfl
@[simp] theorem setTstat_msix (t : Nat) (x : TaskStat) : (s.setTstat t x).msix = s.msix := rfl
@[simp] theorem setTstat_log (t : Nat) (x : TaskStat) : (s.setTstat t x).log = s.log := rfl
@[simp] theorem setTstat_cfg (t : Nat) (x : TaskStat) : (s.setTstat t x).cfg = s.cfg := rfl
@[simp] theorem setTstat_load (t : Nat) (x : TaskStat) : (s.setTstat t x).load = s.load := rfl
@[simp] theorem setTstat_staging (t : Nat) (x : TaskStat) : (s.setTstat t x).staging = s.staging := rfl
@[simp] theorem setTstat_ports (t : Nat) (x : TaskStat) : (s.setTstat t x).ports = s.ports := rfl
@[simp] theorem setTstat_queues (t : Nat) (x : TaskStat) : (s.setTstat t x).queues = s.queues := rfl
@[simp] theorem setTstat_qfResult (t : Nat) (x : TaskStat) : (s.setTstat t x).qfResult = s.qfResult := rfl
@[simp] theorem setTstat_sup (t : Nat) (x : TaskStat) : (s.setTstat t x).sup = s.sup := rfl
@[simp] theorem setTstat_fuses (t : Nat) (x : TaskStat) : (s.setTstat t x).fuses = s.fuses := rfl
@[simp] theorem setTstat_trust (t : Nat) (x : TaskStat) : (s.setTstat t x).trust = s.trust := rfl
@[simp] theorem setTstat_host (t : Nat) (x : TaskStat) : (s.setTstat t x).host = s.host := rfl
@[simp] theorem setTstat_tb (t : Nat) (x : TaskStat) : (s.setTstat t x).tb = s.tb := rfl
@[simp] theorem setTstat_se (t : Nat) (x : TaskStat) : (s.setTstat t x).se = s.se := rfl
@[simp] theorem setTstat_ce (t : Nat) (x : TaskStat) : (s.setTstat t x).ce = s.ce := rfl
@[simp] theorem setTstat_em (t : Nat) (x : TaskStat) : (s.setTstat t x).em = s.em := rfl
@[simp] theorem setTstat_cz (t : Nat) (x : TaskStat) : (s.setTstat t x).cz = s.cz := rfl
@[simp] theorem setTstat_rc (t : Nat) (x : TaskStat) : (s.setTstat t x).rc = s.rc := rfl
@[simp] theorem setTstat_mf (t : Nat) (x : TaskStat) : (s.setTstat t x).mf = s.mf := rfl
@[simp] theorem setTstat_pwrEn (t : Nat) (x : TaskStat) : (s.setTstat t x).pwrEn = s.pwrEn := rfl
@[simp] theorem setTstat_pmbusOn (t : Nat) (x : TaskStat) : (s.setTstat t x).pmbusOn = s.pmbusOn := rfl
@[simp] theorem setTstat_gpioPins (t : Nat) (x : TaskStat) : (s.setTstat t x).gpioPins = s.gpioPins := rfl
@[simp] theorem setTstat_freeN (t : Nat) (x : TaskStat) : (s.setTstat t x).freeN = s.freeN := rfl

/-! ### setXp -/

@[simp] theorem setXp_pending (x : Nat) (v : Xp) : (s.setXp x v).pending = s.pending := rfl
@[simp] theorem setXp_gts (x : Nat) (v : Xp) : (s.setXp x v).gts = s.gts := rfl
@[simp] theorem setXp_regs (x : Nat) (v : Xp) : (s.setXp x v).regs = s.regs := rfl
@[simp] theorem setXp_ctrs (x : Nat) (v : Xp) : (s.setXp x v).ctrs = s.ctrs := rfl
@[simp] theorem setXp_cntHi (x : Nat) (v : Xp) : (s.setXp x v).cntHi = s.cntHi := rfl
@[simp] theorem setXp_rdata (x : Nat) (v : Xp) : (s.setXp x v).rdata = s.rdata := rfl
@[simp] theorem setXp_spiStatus (x : Nat) (v : Xp) : (s.setXp x v).spiStatus = s.spiStatus := rfl
@[simp] theorem setXp_msix (x : Nat) (v : Xp) : (s.setXp x v).msix = s.msix := rfl
@[simp] theorem setXp_log (x : Nat) (v : Xp) : (s.setXp x v).log = s.log := rfl
@[simp] theorem setXp_cfg (x : Nat) (v : Xp) : (s.setXp x v).cfg = s.cfg := rfl
@[simp] theorem setXp_load (x : Nat) (v : Xp) : (s.setXp x v).load = s.load := rfl
@[simp] theorem setXp_staging (x : Nat) (v : Xp) : (s.setXp x v).staging = s.staging := rfl
@[simp] theorem setXp_ports (x : Nat) (v : Xp) : (s.setXp x v).ports = s.ports := rfl
@[simp] theorem setXp_queues (x : Nat) (v : Xp) : (s.setXp x v).queues = s.queues := rfl
@[simp] theorem setXp_qfResult (x : Nat) (v : Xp) : (s.setXp x v).qfResult = s.qfResult := rfl
@[simp] theorem setXp_sup (x : Nat) (v : Xp) : (s.setXp x v).sup = s.sup := rfl
@[simp] theorem setXp_fuses (x : Nat) (v : Xp) : (s.setXp x v).fuses = s.fuses := rfl
@[simp] theorem setXp_trust (x : Nat) (v : Xp) : (s.setXp x v).trust = s.trust := rfl
@[simp] theorem setXp_host (x : Nat) (v : Xp) : (s.setXp x v).host = s.host := rfl
@[simp] theorem setXp_tb (x : Nat) (v : Xp) : (s.setXp x v).tb = s.tb := rfl
@[simp] theorem setXp_se (x : Nat) (v : Xp) : (s.setXp x v).se = s.se := rfl
@[simp] theorem setXp_ce (x : Nat) (v : Xp) : (s.setXp x v).ce = s.ce := rfl
@[simp] theorem setXp_em (x : Nat) (v : Xp) : (s.setXp x v).em = s.em := rfl
@[simp] theorem setXp_cz (x : Nat) (v : Xp) : (s.setXp x v).cz = s.cz := rfl
@[simp] theorem setXp_rc (x : Nat) (v : Xp) : (s.setXp x v).rc = s.rc := rfl
@[simp] theorem setXp_ha (x : Nat) (v : Xp) : (s.setXp x v).ha = s.ha := rfl
@[simp] theorem setXp_pwrEn (x : Nat) (v : Xp) : (s.setXp x v).pwrEn = s.pwrEn := rfl
@[simp] theorem setXp_pmbusOn (x : Nat) (v : Xp) : (s.setXp x v).pmbusOn = s.pmbusOn := rfl
@[simp] theorem setXp_gpioPins (x : Nat) (v : Xp) : (s.setXp x v).gpioPins = s.gpioPins := rfl
@[simp] theorem setXp_freeN (x : Nat) (v : Xp) : (s.setXp x v).freeN = s.freeN := rfl

/-! ### setBus -/

@[simp] theorem setBus_pending (b : Nat) (v : BusStat) : (s.setBus b v).pending = s.pending := rfl
@[simp] theorem setBus_gts (b : Nat) (v : BusStat) : (s.setBus b v).gts = s.gts := rfl
@[simp] theorem setBus_regs (b : Nat) (v : BusStat) : (s.setBus b v).regs = s.regs := rfl
@[simp] theorem setBus_ctrs (b : Nat) (v : BusStat) : (s.setBus b v).ctrs = s.ctrs := rfl
@[simp] theorem setBus_cntHi (b : Nat) (v : BusStat) : (s.setBus b v).cntHi = s.cntHi := rfl
@[simp] theorem setBus_rdata (b : Nat) (v : BusStat) : (s.setBus b v).rdata = s.rdata := rfl
@[simp] theorem setBus_spiStatus (b : Nat) (v : BusStat) : (s.setBus b v).spiStatus = s.spiStatus := rfl
@[simp] theorem setBus_msix (b : Nat) (v : BusStat) : (s.setBus b v).msix = s.msix := rfl
@[simp] theorem setBus_log (b : Nat) (v : BusStat) : (s.setBus b v).log = s.log := rfl
@[simp] theorem setBus_cfg (b : Nat) (v : BusStat) : (s.setBus b v).cfg = s.cfg := rfl
@[simp] theorem setBus_load (b : Nat) (v : BusStat) : (s.setBus b v).load = s.load := rfl
@[simp] theorem setBus_staging (b : Nat) (v : BusStat) : (s.setBus b v).staging = s.staging := rfl
@[simp] theorem setBus_ports (b : Nat) (v : BusStat) : (s.setBus b v).ports = s.ports := rfl
@[simp] theorem setBus_queues (b : Nat) (v : BusStat) : (s.setBus b v).queues = s.queues := rfl
@[simp] theorem setBus_qfResult (b : Nat) (v : BusStat) : (s.setBus b v).qfResult = s.qfResult := rfl
@[simp] theorem setBus_sup (b : Nat) (v : BusStat) : (s.setBus b v).sup = s.sup := rfl
@[simp] theorem setBus_fuses (b : Nat) (v : BusStat) : (s.setBus b v).fuses = s.fuses := rfl
@[simp] theorem setBus_trust (b : Nat) (v : BusStat) : (s.setBus b v).trust = s.trust := rfl
@[simp] theorem setBus_host (b : Nat) (v : BusStat) : (s.setBus b v).host = s.host := rfl
@[simp] theorem setBus_tb (b : Nat) (v : BusStat) : (s.setBus b v).tb = s.tb := rfl
@[simp] theorem setBus_se (b : Nat) (v : BusStat) : (s.setBus b v).se = s.se := rfl
@[simp] theorem setBus_ce (b : Nat) (v : BusStat) : (s.setBus b v).ce = s.ce := rfl
@[simp] theorem setBus_em (b : Nat) (v : BusStat) : (s.setBus b v).em = s.em := rfl
@[simp] theorem setBus_cz (b : Nat) (v : BusStat) : (s.setBus b v).cz = s.cz := rfl
@[simp] theorem setBus_rc (b : Nat) (v : BusStat) : (s.setBus b v).rc = s.rc := rfl
@[simp] theorem setBus_ha (b : Nat) (v : BusStat) : (s.setBus b v).ha = s.ha := rfl
@[simp] theorem setBus_pwrEn (b : Nat) (v : BusStat) : (s.setBus b v).pwrEn = s.pwrEn := rfl
@[simp] theorem setBus_pmbusOn (b : Nat) (v : BusStat) : (s.setBus b v).pmbusOn = s.pmbusOn := rfl
@[simp] theorem setBus_gpioPins (b : Nat) (v : BusStat) : (s.setBus b v).gpioPins = s.gpioPins := rfl
@[simp] theorem setBus_freeN (b : Nat) (v : BusStat) : (s.setBus b v).freeN = s.freeN := rfl

/-! ### setRing -/

@[simp] theorem setRing_pending (r : Nat) (x : Ring) : (s.setRing r x).pending = s.pending := rfl
@[simp] theorem setRing_gts (r : Nat) (x : Ring) : (s.setRing r x).gts = s.gts := rfl
@[simp] theorem setRing_regs (r : Nat) (x : Ring) : (s.setRing r x).regs = s.regs := rfl
@[simp] theorem setRing_ctrs (r : Nat) (x : Ring) : (s.setRing r x).ctrs = s.ctrs := rfl
@[simp] theorem setRing_cntHi (r : Nat) (x : Ring) : (s.setRing r x).cntHi = s.cntHi := rfl
@[simp] theorem setRing_rdata (r : Nat) (x : Ring) : (s.setRing r x).rdata = s.rdata := rfl
@[simp] theorem setRing_spiStatus (r : Nat) (x : Ring) : (s.setRing r x).spiStatus = s.spiStatus := rfl
@[simp] theorem setRing_msix (r : Nat) (x : Ring) : (s.setRing r x).msix = s.msix := rfl
@[simp] theorem setRing_log (r : Nat) (x : Ring) : (s.setRing r x).log = s.log := rfl
@[simp] theorem setRing_cfg (r : Nat) (x : Ring) : (s.setRing r x).cfg = s.cfg := rfl
@[simp] theorem setRing_load (r : Nat) (x : Ring) : (s.setRing r x).load = s.load := rfl
@[simp] theorem setRing_staging (r : Nat) (x : Ring) : (s.setRing r x).staging = s.staging := rfl
@[simp] theorem setRing_ports (r : Nat) (x : Ring) : (s.setRing r x).ports = s.ports := rfl
@[simp] theorem setRing_queues (r : Nat) (x : Ring) : (s.setRing r x).queues = s.queues := rfl
@[simp] theorem setRing_qfResult (r : Nat) (x : Ring) : (s.setRing r x).qfResult = s.qfResult := rfl
@[simp] theorem setRing_sup (r : Nat) (x : Ring) : (s.setRing r x).sup = s.sup := rfl
@[simp] theorem setRing_fuses (r : Nat) (x : Ring) : (s.setRing r x).fuses = s.fuses := rfl
@[simp] theorem setRing_trust (r : Nat) (x : Ring) : (s.setRing r x).trust = s.trust := rfl
@[simp] theorem setRing_tb (r : Nat) (x : Ring) : (s.setRing r x).tb = s.tb := rfl
@[simp] theorem setRing_se (r : Nat) (x : Ring) : (s.setRing r x).se = s.se := rfl
@[simp] theorem setRing_ce (r : Nat) (x : Ring) : (s.setRing r x).ce = s.ce := rfl
@[simp] theorem setRing_em (r : Nat) (x : Ring) : (s.setRing r x).em = s.em := rfl
@[simp] theorem setRing_cz (r : Nat) (x : Ring) : (s.setRing r x).cz = s.cz := rfl
@[simp] theorem setRing_rc (r : Nat) (x : Ring) : (s.setRing r x).rc = s.rc := rfl
@[simp] theorem setRing_ha (r : Nat) (x : Ring) : (s.setRing r x).ha = s.ha := rfl
@[simp] theorem setRing_mf (r : Nat) (x : Ring) : (s.setRing r x).mf = s.mf := rfl
@[simp] theorem setRing_pwrEn (r : Nat) (x : Ring) : (s.setRing r x).pwrEn = s.pwrEn := rfl
@[simp] theorem setRing_pmbusOn (r : Nat) (x : Ring) : (s.setRing r x).pmbusOn = s.pmbusOn := rfl
@[simp] theorem setRing_gpioPins (r : Nat) (x : Ring) : (s.setRing r x).gpioPins = s.gpioPins := rfl
@[simp] theorem setRing_freeN (r : Nat) (x : Ring) : (s.setRing r x).freeN = s.freeN := rfl

/-! ### setLport -/

@[simp] theorem setLport_pending (p : Nat) (x : LPort) : (s.setLport p x).pending = s.pending := rfl
@[simp] theorem setLport_gts (p : Nat) (x : LPort) : (s.setLport p x).gts = s.gts := rfl
@[simp] theorem setLport_regs (p : Nat) (x : LPort) : (s.setLport p x).regs = s.regs := rfl
@[simp] theorem setLport_ctrs (p : Nat) (x : LPort) : (s.setLport p x).ctrs = s.ctrs := rfl
@[simp] theorem setLport_cntHi (p : Nat) (x : LPort) : (s.setLport p x).cntHi = s.cntHi := rfl
@[simp] theorem setLport_rdata (p : Nat) (x : LPort) : (s.setLport p x).rdata = s.rdata := rfl
@[simp] theorem setLport_spiStatus (p : Nat) (x : LPort) : (s.setLport p x).spiStatus = s.spiStatus := rfl
@[simp] theorem setLport_msix (p : Nat) (x : LPort) : (s.setLport p x).msix = s.msix := rfl
@[simp] theorem setLport_log (p : Nat) (x : LPort) : (s.setLport p x).log = s.log := rfl
@[simp] theorem setLport_cfg (p : Nat) (x : LPort) : (s.setLport p x).cfg = s.cfg := rfl
@[simp] theorem setLport_load (p : Nat) (x : LPort) : (s.setLport p x).load = s.load := rfl
@[simp] theorem setLport_staging (p : Nat) (x : LPort) : (s.setLport p x).staging = s.staging := rfl
@[simp] theorem setLport_ports (p : Nat) (x : LPort) : (s.setLport p x).ports = s.ports := rfl
@[simp] theorem setLport_queues (p : Nat) (x : LPort) : (s.setLport p x).queues = s.queues := rfl
@[simp] theorem setLport_qfResult (p : Nat) (x : LPort) : (s.setLport p x).qfResult = s.qfResult := rfl
@[simp] theorem setLport_sup (p : Nat) (x : LPort) : (s.setLport p x).sup = s.sup := rfl
@[simp] theorem setLport_fuses (p : Nat) (x : LPort) : (s.setLport p x).fuses = s.fuses := rfl
@[simp] theorem setLport_trust (p : Nat) (x : LPort) : (s.setLport p x).trust = s.trust := rfl
@[simp] theorem setLport_tb (p : Nat) (x : LPort) : (s.setLport p x).tb = s.tb := rfl
@[simp] theorem setLport_se (p : Nat) (x : LPort) : (s.setLport p x).se = s.se := rfl
@[simp] theorem setLport_ce (p : Nat) (x : LPort) : (s.setLport p x).ce = s.ce := rfl
@[simp] theorem setLport_em (p : Nat) (x : LPort) : (s.setLport p x).em = s.em := rfl
@[simp] theorem setLport_cz (p : Nat) (x : LPort) : (s.setLport p x).cz = s.cz := rfl
@[simp] theorem setLport_rc (p : Nat) (x : LPort) : (s.setLport p x).rc = s.rc := rfl
@[simp] theorem setLport_ha (p : Nat) (x : LPort) : (s.setLport p x).ha = s.ha := rfl
@[simp] theorem setLport_mf (p : Nat) (x : LPort) : (s.setLport p x).mf = s.mf := rfl
@[simp] theorem setLport_pwrEn (p : Nat) (x : LPort) : (s.setLport p x).pwrEn = s.pwrEn := rfl
@[simp] theorem setLport_pmbusOn (p : Nat) (x : LPort) : (s.setLport p x).pmbusOn = s.pmbusOn := rfl
@[simp] theorem setLport_gpioPins (p : Nat) (x : LPort) : (s.setLport p x).gpioPins = s.gpioPins := rfl
@[simp] theorem setLport_freeN (p : Nat) (x : LPort) : (s.setLport p x).freeN = s.freeN := rfl

/-! ### What an update writes -/

theorem setReg_regs (o v : Nat) : (s.setReg o v).regs = tset (regInit o) s.regs o (BitVec.ofNat 32 v) := rfl
theorem bumpBy_ctrs (o n : Nat) : (s.bumpBy o n).ctrs = tupd 0 s.ctrs o (· + BitVec.ofNat 64 n) := rfl
theorem signal_msix (v : Nat) : (s.signal v).msix = tupd 0 s.msix v (· + 1) := rfl
@[simp] theorem updSup_sup (f : Sup → Sup) : (s.updSup f).sup = f s.sup := rfl
@[simp] theorem updTrust_trust (f : Trust → Trust) : (s.updTrust f).trust = f s.trust := rfl
@[simp] theorem updHost_host (f : HostP → HostP) : (s.updHost f).host = f s.host := rfl
@[simp] theorem updTb_tb (f : TimeB → TimeB) : (s.updTb f).tb = f s.tb := rfl
@[simp] theorem updFuses_fuses (f : Fuses → Fuses) : (s.updFuses f).fuses = f s.fuses := rfl
@[simp] theorem updLoad_load (f : Load → Load) : (s.updLoad f).load = f s.load := rfl
@[simp] theorem updCfg_cfg (f : Cfg → Cfg) : (s.updCfg f).cfg = f s.cfg := rfl
@[simp] theorem updCe_ce (f : CipherE → CipherE) : (s.updCe f).ce = f s.ce := rfl
@[simp] theorem updSe_se (f : StreamE → StreamE) : (s.updSe f).se = f s.se := rfl
@[simp] theorem updMf_mf (f : MixF → MixF) : (s.updMf f).mf = f s.mf := rfl

/-! ### Reading what was written -/

@[simp] theorem setPort_port_same (p : Nat) (y : Port) : (s.setPort p y).port p = y := tget_tset_same _ _ _ _
theorem setPort_port (p j : Nat) (y : Port) : (s.setPort p y).port j = if j = p then y else s.port j := tget_tset _ _ _ _ _
@[simp] theorem setQueue_queue_same (q : Nat) (y : Queue) : (s.setQueue q y).queue q = y := tget_tset_same _ _ _ _
theorem setQueue_queue (q j : Nat) (y : Queue) : (s.setQueue q y).queue j = if j = q then y else s.queue j := tget_tset _ _ _ _ _
@[simp] theorem setInst_inst_same (i : Nat) (y : PtpInst) : (s.setInst i y).inst i = y := tget_tset_same _ _ _ _
theorem setInst_inst (i j : Nat) (y : PtpInst) : (s.setInst i y).inst j = if j = i then y else s.inst j := tget_tset _ _ _ _ _
@[simp] theorem setCtx_ctx_same (c : Nat) (y : CeCtx) : (s.setCtx c y).ctx c = y := tget_tset_same _ _ _ _
theorem setCtx_ctx (c j : Nat) (y : CeCtx) : (s.setCtx c y).ctx j = if j = c then y else s.ctx j := tget_tset _ _ _ _ _
@[simp] theorem setSa_sa_same (i : Nat) (y : Sa) : (s.setSa i y).sa i = y := tget_tset_same _ _ _ _
theorem setSa_sa (i j : Nat) (y : Sa) : (s.setSa i y).sa j = if j = i then y else s.sa j := tget_tset _ _ _ _ _
@[simp] theorem setLane_lane_same (n : Nat) (y : Lane) : (s.setLane n y).lane n = y := tget_tset_same _ _ _ _
theorem setLane_lane (n j : Nat) (y : Lane) : (s.setLane n y).lane j = if j = n then y else s.lane j := tget_tset _ _ _ _ _
@[simp] theorem setRx_rx_same (i : Nat) (y : RxStream) : (s.setRx i y).rx i = y := tget_tset_same _ _ _ _
theorem setRx_rx (i j : Nat) (y : RxStream) : (s.setRx i y).rx j = if j = i then y else s.rx j := tget_tset _ _ _ _ _
@[simp] theorem setTx_tx_same (i : Nat) (y : TxStream) : (s.setTx i y).tx i = y := tget_tset_same _ _ _ _
theorem setTx_tx (i j : Nat) (y : TxStream) : (s.setTx i y).tx j = if j = i then y else s.tx j := tget_tset _ _ _ _ _
@[simp] theorem setUnit_unit_same (u : Nat) (y : CzUnit) : (s.setUnit u y).unit u = y := tget_tset_same _ _ _ _
theorem setUnit_unit (u j : Nat) (y : CzUnit) : (s.setUnit u y).unit j = if j = u then y else s.unit j := tget_tset _ _ _ _ _
@[simp] theorem setCzStat_czStat_same (c : Nat) (y : CzStat) : (s.setCzStat c y).czStat c = y := tget_tset_same _ _ _ _
theorem setCzStat_czStat (c j : Nat) (y : CzStat) : (s.setCzStat c y).czStat j = if j = c then y else s.czStat j := tget_tset _ _ _ _ _
@[simp] theorem setRate_rate_same (i : Nat) (y : RateInst) : (s.setRate i y).rate i = y := tget_tset_same _ _ _ _
theorem setRate_rate (i j : Nat) (y : RateInst) : (s.setRate i y).rate j = if j = i then y else s.rate j := tget_tset _ _ _ _ _
@[simp] theorem setCore_core_same (i : Nat) (y : Core) : (s.setCore i y).core i = y := tget_tset_same _ _ _ _
theorem setCore_core (i j : Nat) (y : Core) : (s.setCore i y).core j = if j = i then y else s.core j := tget_tset _ _ _ _ _
@[simp] theorem setTask_task_same (k : Nat) (y : Inst) : (s.setTask k y).task k = y := tget_tset_same _ _ _ _
theorem setTask_task (k j : Nat) (y : Inst) : (s.setTask k y).task j = if j = k then y else s.task j := tget_tset _ _ _ _ _
@[simp] theorem setTstat_tstat_same (t : Nat) (y : TaskStat) : (s.setTstat t y).tstat t = y := tget_tset_same _ _ _ _
theorem setTstat_tstat (t j : Nat) (y : TaskStat) : (s.setTstat t y).tstat j = if j = t then y else s.tstat j := tget_tset _ _ _ _ _
@[simp] theorem setXp_xp_same (x : Nat) (y : Xp) : (s.setXp x y).xp x = y := tget_tset_same _ _ _ _
theorem setXp_xp (x j : Nat) (y : Xp) : (s.setXp x y).xp j = if j = x then y else s.xp j := tget_tset _ _ _ _ _
@[simp] theorem setBus_busStat_same (b : Nat) (y : BusStat) : (s.setBus b y).busStat b = y := tget_tset_same _ _ _ _
theorem setBus_busStat (b j : Nat) (y : BusStat) : (s.setBus b y).busStat j = if j = b then y else s.busStat j := tget_tset _ _ _ _ _
@[simp] theorem setRing_ring_same (r : Nat) (y : Ring) : (s.setRing r y).ring r = y := tget_tset_same _ _ _ _
theorem setRing_ring (r j : Nat) (y : Ring) : (s.setRing r y).ring j = if j = r then y else s.ring j := tget_tset _ _ _ _ _
@[simp] theorem setLport_lport_same (p : Nat) (y : LPort) : (s.setLport p y).lport p = y := tget_tset_same _ _ _ _
theorem setLport_lport (p j : Nat) (y : LPort) : (s.setLport p y).lport j = if j = p then y else s.lport j := tget_tset _ _ _ _ _
@[simp] theorem updPort_port_same (p : Nat) (f : Port → Port) : (s.updPort p f).port p = f (s.port p) := tget_tset_same _ _ _ _
@[simp] theorem updQueue_queue_same (q : Nat) (f : Queue → Queue) : (s.updQueue q f).queue q = f (s.queue q) := tget_tset_same _ _ _ _

/-- A stored register after a write of it. -/
@[simp] theorem setReg_reg_same (o v : Nat) : (s.setReg o v).reg o = v % 2 ^ 32 := by
  simp [reg, setReg]

/-- A stored register after a write of another. -/
theorem setReg_reg_ne {o j : Nat} (v : Nat) (h : j ≠ o) : (s.setReg o v).reg j = s.reg j := by
  unfold reg
  by_cases hr : regInit o = regInit j
  · simp only [setReg, hr, tget_tset_ne _ _ _ h]
  · simp only [setReg]
    exact congrArg BitVec.toNat (by
      simp only [tset]
      split
      · exact tget_filter_ne _ _ h
      · rw [tget_tins_ne _ _ _ h, tget_filter_ne _ _ h])

/-- A counter after it is counted up. -/
@[simp] theorem bumpBy_ctr_same (o n : Nat) : (s.bumpBy o n).ctr o = (s.ctr o + n) % 2 ^ 64 := by
  simp [ctr, bumpBy, tupd]

/-- Another counter. -/
theorem bumpBy_ctr_ne {o j : Nat} (n : Nat) (h : j ≠ o) : (s.bumpBy o n).ctr j = s.ctr j := by
  simp [ctr, bumpBy, tupd, tget_tset_ne _ _ _ h]

/-! ### Events -/

/-- Signalling vectors changes only the vectors. -/
theorem signalEv_eq (o : Nat) (w : Nat → Bool) : ∃ m, s.signalEv o w = { s with msix := m } := by
  unfold signalEv
  generalize evVectors o = l
  have : ∀ (l : List (Nat × Nat)) (s' : State), (∃ m, s' = { s with msix := m }) →
      ∃ m, l.foldl (fun s v => if s.evAnd o v.2 ≠ 0 ∧ w v.1 then s.signal v.1 else s) s' = { s with msix := m } := by
    intro l
    induction l with
    | nil => intro s' h; exact h
    | cons v l ih =>
      rintro s' ⟨m, rfl⟩
      apply ih
      simp only []
      split
      · exact ⟨_, rfl⟩
      · exact ⟨m, rfl⟩
  exact this l s ⟨_, rfl⟩

/-- Setting an event bit changes only that register and the vectors. -/
theorem setEvBit_eq (o b : Nat) :
    ∃ m, s.setEvBit o b = { s with regs := (s.setReg o (s.reg o ||| 2 ^ b)).regs, msix := m } := by
  obtain ⟨m, h⟩ := signalEv_eq (s.setReg o (s.reg o ||| 2 ^ b)) o
    fun v => (evVectors o).all fun e => e.1 ≠ v || s.evAnd o e.2 == 0
  exact ⟨m, h⟩

/-- Raising an event: the event waits for the log, and otherwise only event registers and vectors change. -/
theorem raise_eq (src code : Nat) (d : List Nat) (svc : Nat) :
    ∃ r m, s.raise src code d svc =
      { s with log := { s.log with fresh := s.log.fresh ++ [{ gts := s.now, source := src, svc, code, d }] }, regs := r, msix := m } := by
  unfold raise
  simp only []
  split
  · next o b _ =>
    obtain ⟨m, h⟩ := setEvBit_eq
      { s with log := { s.log with fresh := s.log.fresh ++ [{ gts := s.now, source := src, svc, code, d }] } } o b
    exact ⟨_, m, h⟩
  · exact ⟨_, _, rfl⟩

/-- The event that is raised. -/
@[simp] theorem raise_fresh (src code : Nat) (d : List Nat) (svc : Nat) :
    (s.raise src code d svc).log.fresh = s.log.fresh ++ [{ gts := s.now, source := src, svc, code, d }] := by
  obtain ⟨r, m, h⟩ := raise_eq s src code d svc; rw [h]

@[simp] theorem raise_pending (src code : Nat) (d : List Nat) (svc : Nat) : (s.raise src code d svc).pending = s.pending := by
  obtain ⟨r, m, h⟩ := raise_eq s src code d svc; rw [h]
@[simp] theorem raiseSv_pending (low : Nat) (d : List Nat) : (s.raiseSv low d).pending = s.pending := raise_pending s _ _ _ _
@[simp] theorem raise_gts (src code : Nat) (d : List Nat) (svc : Nat) : (s.raise src code d svc).gts = s.gts := by
  obtain ⟨r, m, h⟩ := raise_eq s src code d svc; rw [h]
@[simp] theorem raiseSv_gts (low : Nat) (d : List Nat) : (s.raiseSv low d).gts = s.gts := raise_gts s _ _ _ _
@[simp] theorem raise_ctrs (src code : Nat) (d : List Nat) (svc : Nat) : (s.raise src code d svc).ctrs = s.ctrs := by
  obtain ⟨r, m, h⟩ := raise_eq s src code d svc; rw [h]
@[simp] theorem raiseSv_ctrs (low : Nat) (d : List Nat) : (s.raiseSv low d).ctrs = s.ctrs := raise_ctrs s _ _ _ _
@[simp] theorem raise_cntHi (src code : Nat) (d : List Nat) (svc : Nat) : (s.raise src code d svc).cntHi = s.cntHi := by
  obtain ⟨r, m, h⟩ := raise_eq s src code d svc; rw [h]
@[simp] theorem raiseSv_cntHi (low : Nat) (d : List Nat) : (s.raiseSv low d).cntHi = s.cntHi := raise_cntHi s _ _ _ _
@[simp] theorem raise_rdata (src code : Nat) (d : List Nat) (svc : Nat) : (s.raise src code d svc).rdata = s.rdata := by
  obtain ⟨r, m, h⟩ := raise_eq s src code d svc; rw [h]
@[simp] theorem raiseSv_rdata (low : Nat) (d : List Nat) : (s.raiseSv low d).rdata = s.rdata := raise_rdata s _ _ _ _
@[simp] theorem raise_spiStatus (src code : Nat) (d : List Nat) (svc : Nat) : (s.raise src code d svc).spiStatus = s.spiStatus := by
  obtain ⟨r, m, h⟩ := raise_eq s src code d svc; rw [h]
@[simp] theorem raiseSv_spiStatus (low : Nat) (d : List Nat) : (s.raiseSv low d).spiStatus = s.spiStatus := raise_spiStatus s _ _ _ _
@[simp] theorem raise_cfg (src code : Nat) (d : List Nat) (svc : Nat) : (s.raise src code d svc).cfg = s.cfg := by
  obtain ⟨r, m, h⟩ := raise_eq s src code d svc; rw [h]
@[simp] theorem raiseSv_cfg (low : Nat) (d : List Nat) : (s.raiseSv low d).cfg = s.cfg := raise_cfg s _ _ _ _
@[simp] theorem raise_load (src code : Nat) (d : List Nat) (svc : Nat) : (s.raise src code d svc).load = s.load := by
  obtain ⟨r, m, h⟩ := raise_eq s src code d svc; rw [h]
@[simp] theorem raiseSv_load (low : Nat) (d : List Nat) : (s.raiseSv low d).load = s.load := raise_load s _ _ _ _
@[simp] theorem raise_staging (src code : Nat) (d : List Nat) (svc : Nat) : (s.raise src code d svc).staging = s.staging := by
  obtain ⟨r, m, h⟩ := raise_eq s src code d svc; rw [h]
@[simp] theorem raiseSv_staging (low : Nat) (d : List Nat) : (s.raiseSv low d).staging = s.staging := raise_staging s _ _ _ _
@[simp] theorem raise_ports (src code : Nat) (d : List Nat) (svc : Nat) : (s.raise src code d svc).ports = s.ports := by
  obtain ⟨r, m, h⟩ := raise_eq s src code d svc; rw [h]
@[simp] theorem raiseSv_ports (low : Nat) (d : List Nat) : (s.raiseSv low d).ports = s.ports := raise_ports s _ _ _ _
@[simp] theorem raise_queues (src code : Nat) (d : List Nat) (svc : Nat) : (s.raise src code d svc).queues = s.queues := by
  obtain ⟨r, m, h⟩ := raise_eq s src code d svc; rw [h]
@[simp] theorem raiseSv_queues (low : Nat) (d : List Nat) : (s.raiseSv low d).queues = s.queues := raise_queues s _ _ _ _
@[simp] theorem raise_qfResult (src code : Nat) (d : List Nat) (svc : Nat) : (s.raise src code d svc).qfResult = s.qfResult := by
  obtain ⟨r, m, h⟩ := raise_eq s src code d svc; rw [h]
@[simp] theorem raiseSv_qfResult (low : Nat) (d : List Nat) : (s.raiseSv low d).qfResult = s.qfResult := raise_qfResult s _ _ _ _
@[simp] theorem raise_sup (src code : Nat) (d : List Nat) (svc : Nat) : (s.raise src code d svc).sup = s.sup := by
  obtain ⟨r, m, h⟩ := raise_eq s src code d svc; rw [h]
@[simp] theorem raiseSv_sup (low : Nat) (d : List Nat) : (s.raiseSv low d).sup = s.sup := raise_sup s _ _ _ _
@[simp] theorem raise_fuses (src code : Nat) (d : List Nat) (svc : Nat) : (s.raise src code d svc).fuses = s.fuses := by
  obtain ⟨r, m, h⟩ := raise_eq s src code d svc; rw [h]
@[simp] theorem raiseSv_fuses (low : Nat) (d : List Nat) : (s.raiseSv low d).fuses = s.fuses := raise_fuses s _ _ _ _
@[simp] theorem raise_trust (src code : Nat) (d : List Nat) (svc : Nat) : (s.raise src code d svc).trust = s.trust := by
  obtain ⟨r, m, h⟩ := raise_eq s src code d svc; rw [h]
@[simp] theorem raiseSv_trust (low : Nat) (d : List Nat) : (s.raiseSv low d).trust = s.trust := raise_trust s _ _ _ _
@[simp] theorem raise_host (src code : Nat) (d : List Nat) (svc : Nat) : (s.raise src code d svc).host = s.host := by
  obtain ⟨r, m, h⟩ := raise_eq s src code d svc; rw [h]
@[simp] theorem raiseSv_host (low : Nat) (d : List Nat) : (s.raiseSv low d).host = s.host := raise_host s _ _ _ _
@[simp] theorem raise_tb (src code : Nat) (d : List Nat) (svc : Nat) : (s.raise src code d svc).tb = s.tb := by
  obtain ⟨r, m, h⟩ := raise_eq s src code d svc; rw [h]
@[simp] theorem raiseSv_tb (low : Nat) (d : List Nat) : (s.raiseSv low d).tb = s.tb := raise_tb s _ _ _ _
@[simp] theorem raise_se (src code : Nat) (d : List Nat) (svc : Nat) : (s.raise src code d svc).se = s.se := by
  obtain ⟨r, m, h⟩ := raise_eq s src code d svc; rw [h]
@[simp] theorem raiseSv_se (low : Nat) (d : List Nat) : (s.raiseSv low d).se = s.se := raise_se s _ _ _ _
@[simp] theorem raise_ce (src code : Nat) (d : List Nat) (svc : Nat) : (s.raise src code d svc).ce = s.ce := by
  obtain ⟨r, m, h⟩ := raise_eq s src code d svc; rw [h]
@[simp] theorem raiseSv_ce (low : Nat) (d : List Nat) : (s.raiseSv low d).ce = s.ce := raise_ce s _ _ _ _
@[simp] theorem raise_em (src code : Nat) (d : List Nat) (svc : Nat) : (s.raise src code d svc).em = s.em := by
  obtain ⟨r, m, h⟩ := raise_eq s src code d svc; rw [h]
@[simp] theorem raiseSv_em (low : Nat) (d : List Nat) : (s.raiseSv low d).em = s.em := raise_em s _ _ _ _
@[simp] theorem raise_cz (src code : Nat) (d : List Nat) (svc : Nat) : (s.raise src code d svc).cz = s.cz := by
  obtain ⟨r, m, h⟩ := raise_eq s src code d svc; rw [h]
@[simp] theorem raiseSv_cz (low : Nat) (d : List Nat) : (s.raiseSv low d).cz = s.cz := raise_cz s _ _ _ _
@[simp] theorem raise_rc (src code : Nat) (d : List Nat) (svc : Nat) : (s.raise src code d svc).rc = s.rc := by
  obtain ⟨r, m, h⟩ := raise_eq s src code d svc; rw [h]
@[simp] theorem raiseSv_rc (low : Nat) (d : List Nat) : (s.raiseSv low d).rc = s.rc := raise_rc s _ _ _ _
@[simp] theorem raise_ha (src code : Nat) (d : List Nat) (svc : Nat) : (s.raise src code d svc).ha = s.ha := by
  obtain ⟨r, m, h⟩ := raise_eq s src code d svc; rw [h]
@[simp] theorem raiseSv_ha (low : Nat) (d : List Nat) : (s.raiseSv low d).ha = s.ha := raise_ha s _ _ _ _
@[simp] theorem raise_mf (src code : Nat) (d : List Nat) (svc : Nat) : (s.raise src code d svc).mf = s.mf := by
  obtain ⟨r, m, h⟩ := raise_eq s src code d svc; rw [h]
@[simp] theorem raiseSv_mf (low : Nat) (d : List Nat) : (s.raiseSv low d).mf = s.mf := raise_mf s _ _ _ _
@[simp] theorem raise_pwrEn (src code : Nat) (d : List Nat) (svc : Nat) : (s.raise src code d svc).pwrEn = s.pwrEn := by
  obtain ⟨r, m, h⟩ := raise_eq s src code d svc; rw [h]
@[simp] theorem raiseSv_pwrEn (low : Nat) (d : List Nat) : (s.raiseSv low d).pwrEn = s.pwrEn := raise_pwrEn s _ _ _ _
@[simp] theorem raise_pmbusOn (src code : Nat) (d : List Nat) (svc : Nat) : (s.raise src code d svc).pmbusOn = s.pmbusOn := by
  obtain ⟨r, m, h⟩ := raise_eq s src code d svc; rw [h]
@[simp] theorem raiseSv_pmbusOn (low : Nat) (d : List Nat) : (s.raiseSv low d).pmbusOn = s.pmbusOn := raise_pmbusOn s _ _ _ _
@[simp] theorem raise_gpioPins (src code : Nat) (d : List Nat) (svc : Nat) : (s.raise src code d svc).gpioPins = s.gpioPins := by
  obtain ⟨r, m, h⟩ := raise_eq s src code d svc; rw [h]
@[simp] theorem raiseSv_gpioPins (low : Nat) (d : List Nat) : (s.raiseSv low d).gpioPins = s.gpioPins := raise_gpioPins s _ _ _ _
@[simp] theorem raise_freeN (src code : Nat) (d : List Nat) (svc : Nat) : (s.raise src code d svc).freeN = s.freeN := by
  obtain ⟨r, m, h⟩ := raise_eq s src code d svc; rw [h]
@[simp] theorem raiseSv_freeN (low : Nat) (d : List Nat) : (s.raiseSv low d).freeN = s.freeN := raise_freeN s _ _ _ _

@[simp] theorem raiseSv_fresh (low : Nat) (d : List Nat) :
    (s.raiseSv low d).log.fresh = s.log.fresh ++ [{ gts := s.now, source := 15, code := 0xF00 + low, d }] := raise_fresh s _ _ _ _

end Sys2Proof.Machine.State
end

