-- ==== Sys2Proof/Laws/Access.lean ====
section
/-! SUPPORT. What the shared operations of a bus access can do: the decision of R425 leaves an allowed request's state alone, and
a guarded operation acts, or is turned away. -/

namespace Sys2Proof.Machine

/-- An access that is allowed changes nothing by being decided. -/
theorem access_allowed {m : Master} {off : Nat} {w : Bool} {s : State} (h : (access m off w s).1 = true) :
    access m off w s = (true, s) := by
  unfold access at h ⊢
  cases m <;> (repeat' split at *) <;> first | rfl | simp_all

/-- A guarded operation that is allowed acts on the state in which the request began. -/
theorem guardWrite_allowed {m : Master} {off : Nat} {f : State → State} {s : State} (h : allows m off true s = true) :
    guardWrite m off f s = f (begun m s) := by
  unfold guardWrite
  rw [access_allowed h]

/-- A guarded operation that is refused leaves what the refusal leaves. -/
theorem guardWrite_refused {m : Master} {off : Nat} {f : State → State} {s : State} (h : allows m off true s = false) :
    guardWrite m off f s = (access m off true (begun m s)).2 := by
  unfold guardWrite
  unfold allows at h
  generalize access m off true (begun m s) = a at h ⊢
  obtain ⟨b, s'⟩ := a
  simp at h
  subst h
  rfl

/-- A read that is allowed returns the word and its side effect. -/
theorem busRead_allowed {m : Master} {off : Nat} {s : State} (h : allows m off false s = true) :
    busRead m off s = ([BitVec.ofNat 32 (readWord m off (begun m s)).1], (readWord m off (begun m s)).2) := by
  unfold busRead
  rw [access_allowed h]

/-- A request's beginning changes the host port alone. -/
theorem begun_eq (m : Master) (s : State) : ∃ h, begun m s = { s with host := h } := by
  unfold begun
  split
  · exact ⟨_, rfl⟩
  · exact ⟨_, rfl⟩

/-- The queue, the time and the fuses pass a sealed command unchanged but for the advance of time. -/
theorem act_next (t : Gts) (f : State → State) (s : State) :
    act t f s = .next { f (s.advance t) with
      pending := s.pending, gts := (s.advance t).gts, fuses := (s.advance t).fuses } := rfl

/-- A command that may reach the fuses. -/
theorem actTrust_next (t : Gts) (f : State → State) (s : State) :
    actTrust t f s = .next { f (s.advance t) with pending := s.pending, gts := (s.advance t).gts } := rfl

/-- A refused access changes neither the queue nor the fuses. -/
theorem access_fuses (m : Master) (off : Nat) (w : Bool) (s : State) : (access m off w s).2.fuses = s.fuses := by
  have hc : ∀ (k : Nat) (s : State), (closeDebug k s).fuses = s.fuses := by
    intro k s; unfold closeDebug; split <;> simp
  have hz : ∀ (a b : Nat) (s : State), (freeze a b s).fuses = s.fuses := by
    intro a b s; unfold freeze; split
    · rfl
    · simp only []; split
      · simp
      · split
        · rw [hc]; simp
        · simp
  have hv : ∀ (win : Option Nat), (violate m off w win s).fuses = s.fuses := by
    intro win
    unfold violate
    cases m <;> simp [hz, abortHost]
  unfold access
  cases m <;> simp only [] <;> (repeat' split) <;> simp [hv, abortHost, spiRefuse]

end Sys2Proof.Machine
end

