-- ==== Sys2Proof/Laws/Geldin.lean ====
section
/-! SUPPORT. What the issue of a Geldin instruction can do, once for each kind of instruction. -/

namespace Sys2Proof.Machine

/-! ## Residues (R208, R209) -/

/-- A residue is the remainder by 7. -/
theorem res7_toNat (v : Int) : ((res7 v).toNat : Int) = v % 7 := by
  simp only [res7, BitVec.toNat_ofNat]
  omega

/-- The residue that the MAC units predict from those of their operands is the residue of the sum. -/
theorem predictMac_eq (a x y : Int) : predictMac (res7 a) (res7 x) (res7 y) = res7 (a + 2 * x * y) := by
  have h : (a % 7 + 2 * (x % 7) * (y % 7)) % 7 = (a + 2 * x * y) % 7 := by
    have h1 : (2 * (x % 7) * (y % 7)) % 7 = (2 * x * y) % 7 := by
      rw [Int.mul_emod, Int.mul_emod 2 (x % 7), Int.emod_emod_of_dvd x (Int.dvd_refl 7), ← Int.mul_emod 2 x,
        Int.emod_emod_of_dvd y (Int.dvd_refl 7), ← Int.mul_emod]
    omega
  apply BitVec.eq_of_toNat_eq
  have ha := res7_toNat a
  have hx := res7_toNat x
  have hy := res7_toNat y
  rw [← ha, ← hx, ← hy] at h
  have hr := res7_toNat (a + 2 * x * y)
  rw [← h] at hr
  simp only [predictMac, BitVec.toNat_ofNat]
  have : ((((res7 a).toNat + 2 * (res7 x).toNat * (res7 y).toNat) % 7 : Nat) : Int) = ((res7 (a + 2 * x * y)).toNat : Int) := by
    rw [hr]
    simp only [Int.natCast_emod, Int.natCast_add, Int.natCast_mul, Int.cast_ofNat_Int]
  omega

/-! ## Parts of an instruction that leave the PC alone -/

/-- A change of registers that leaves the PC and its parity alone. -/
def KeepsPc (f : Regs → Regs) : Prop := ∀ r, (f r).pc = r.pc ∧ (f r).pcPar = r.pcPar

theorem writeCode_keepsPc (code : Nat) (x : DReg) : KeepsPc (writeCode code x) := by
  intro r
  unfold writeCode
  dsimp only
  repeat' split
  all_goals exact ⟨rfl, rfl⟩

theorem landAll_keepsPc (l : List Landing) : KeepsPc (landAll l) := by
  induction l with
  | nil => exact fun _ => ⟨rfl, rfl⟩
  | cons x l ih =>
    intro r
    obtain ⟨h1, h2⟩ := writeCode_keepsPc x.code { v := x.v, tag := x.tag } r
    exact ⟨(ih _).1.trans h1, (ih _).2.trans h2⟩

theorem setP_fold_keepsPc (l : List (BitVec 3 × BitVec 22)) : KeepsPc (l.foldl fun r m => r.setP m.1 m.2) := by
  induction l with
  | nil => exact fun _ => ⟨rfl, rfl⟩
  | cons m l ih => exact fun r => ih _

theorem setNzv_keepsPc (f : Option Nzv) : KeepsPc (setNzv f) := by
  intro r
  cases f <;> exact ⟨rfl, rfl⟩

theorem orCr_keepsPc (cr : Bool) : KeepsPc fun r => r.orCr cr := by
  intro r
  cases cr <;> exact ⟨rfl, rfl⟩

theorem regsAfter_keepsPc (c : Core) (e : Eff) (h : KeepsPc e.apply) :
    (regsAfter c e).pc = c.regs.pc ∧ (regsAfter c e).pcPar = c.regs.pcPar := by
  unfold regsAfter
  dsimp only
  have h1 := landAll_keepsPc c.land c.regs
  have h2 := h (landAll c.land c.regs)
  have h3 := setNzv_keepsPc e.flags (e.apply (landAll c.land c.regs))
  generalize hr : setNzv e.flags (e.apply (landAll c.land c.regs)) = r at h3
  have h4 : (match e.move with | some (d, x) => r.setD d x | none => r).pc = r.pc ∧
      (match e.move with | some (d, x) => r.setD d x | none => r).pcPar = r.pcPar := by
    split <;> exact ⟨rfl, rfl⟩
  have h5 := setP_fold_keepsPc e.mods (match e.move with | some (d, x) => r.setD d x | none => r)
  have h6 := orCr_keepsPc e.cr (e.mods.foldl (fun r m => r.setP m.1 m.2) (match e.move with | some (d, x) => r.setD d x | none => r))
  exact ⟨h6.1.trans (h5.1.trans (h4.1.trans (h3.1.trans (h2.1.trans h1.1)))),
    h6.2.trans (h5.2.trans (h4.2.trans (h3.2.trans (h2.2.trans h1.2))))⟩

/-! ## Moving on -/

/-- The event point after an instruction changes the debug state of the core alone. -/
theorem takeEvents_eq (c : Core) :
    ∃ sp h d tr, takeEvents c = { c with stop := sp, halted := h, traceDue := d, trace := tr } := by
  unfold takeEvents
  dsimp only
  repeat' split
  all_goals exact ⟨_, _, _, _, rfl⟩

/-- Moving on in sequence changes the PC and the delay and repeat counts alone. -/
theorem nextPc_eq (c : Core) (h : c.regs.pcPar = parityOf 17 c.regs.pc.toNat) :
    ∃ p d t n, nextPc c = { c with regs := c.regs.setPc p, ds := d, target := t, rep := n } := by
  unfold nextPc
  split
  · refine ⟨c.regs.pc, c.ds, c.target, c.rep - 1, ?_⟩
    have : c.regs.setPc c.regs.pc = c.regs := by unfold Regs.setPc; rw [← h]
    rw [this]
  · dsimp only
    split
    all_goals exact ⟨_, _, _, _, rfl⟩

/-- Moving on and the event point after it change the PC, the delay and repeat counts and the debug state alone. -/
theorem retire_eq (c : Core) (h : c.regs.pcPar = parityOf 17 c.regs.pc.toNat) :
    ∃ p d t n sp hl du tr, takeEvents (nextPc c) =
      { c with regs := c.regs.setPc p, ds := d, target := t, rep := n, stop := sp, halted := hl, traceDue := du, trace := tr } := by
  obtain ⟨p, d, t, n, h1⟩ := nextPc_eq c h
  obtain ⟨sp, hl, du, tr, h2⟩ := takeEvents_eq (nextPc c)
  refine ⟨p, d, t, n, sp, hl, du, tr, ?_⟩
  rw [h2, h1]

/-! ## Issue -/

/-- An instruction that is issued normally acts. -/
theorem issue_ok {cmd : Instr} {i : Issue} {k : Kind} {f : Nat → Core → State → State} {s : State} (h : Issues cmd i k s) :
    issue cmd i k true f s = act i.t (fun s => f i.core.val (s.core i.core.val) s) s := by
  obtain ⟨⟨h1, h2, h3, h4⟩, h5, h6⟩ := h
  simp only [issue, act, h1, h2, h3, h4, h5, h6, not_true_eq_false, if_false, reduceCtorEq, Bool.false_eq_true, or_self]

/-- Banks that come into use leave the queue, the time and the fuses alone. -/
theorem useBanks_frame (b : List Nat) (s : State) (n : Nat) (y : Core) :
    { (useBanks b s).setCore n y with pending := s.pending, gts := s.gts, fuses := s.fuses } = (useBanks b s).setCore n y := by
  unfold useBanks
  split <;> rfl

/-- An ordinary instruction whose accesses are allowed retires. -/
theorem dataInstr_ok {cmd : Instr} {i : Issue} {f : Core → Option Eff} {s : State} {e : Eff} (h : Issues cmd i .plain s)
    (he : f ((s.advance i.t).core i.core.val) = some e) (hk : KeepsPc e.apply)
    (hl : ∀ x ∈ e.loads, mayAccess (s.advance i.t) ((s.advance i.t).core i.core.val) x.addr false = true)
    (hs : ∀ a w, e.store = some (a, w) → mayAccess (s.advance i.t) ((s.advance i.t).core i.core.val) a true = true ∧
      ((tget none ((s.advance i.t).core i.core.val).buf a).isSome = true ∨
        4 * (((s.advance i.t).core i.core.val).buf.length + 1) ≤
          tkFoot (instBody (s.advance i.t) ((s.advance i.t).core i.core.val).inst))) :
    ∃ y, dataInstr cmd i f s = .next
        ((useBanks (banksOf (s.advance i.t) ((s.advance i.t).core i.core.val) e.loads) (s.advance i.t)).setCore i.core.val y) ∧
      y.regs = (regsAfter ((s.advance i.t).core i.core.val) e).setPc y.regs.pc ∧
      y.land = (e.loads.map fun x =>
        let d := ofContainer (loadWord (s.advance i.t) ((s.advance i.t).core i.core.val) x.addr) x.nf
        { code := x.code, v := d.v, tag := d.tag, tap := x.tap }) ∧
      y.buf = (match e.store with
        | some (a, w) => tset none ((s.advance i.t).core i.core.val).buf a (some w)
        | none => ((s.advance i.t).core i.core.val).buf) ∧
      SameControl ((s.advance i.t).core i.core.val) y := by
  have hp := regsAfter_keepsPc ((s.advance i.t).core i.core.val) e hk
  have hg := h.2.2
  unfold dataInstr
  rw [issue_ok h]
  simp only [act, he, h.1.2.1]
  unfold perform
  have h1 : (e.loads.find? fun x => !mayAccess (s.advance i.t) ((s.advance i.t).core i.core.val) x.addr false) = none := by
    rw [List.find?_eq_none]
    intro x hx
    simp [hl x hx]
  simp only [h1]
  simp only [show (CoreFault.none == CoreFault.eccRead) = false from rfl, Bool.false_eq_true, if_false]
  have hpar : (regsAfter ((s.advance i.t).core i.core.val) e).pcPar =
      parityOf 17 (regsAfter ((s.advance i.t).core i.core.val) e).pc.toNat := by
    simp only [readsGood, Bool.and_eq_true, beq_iff_eq] at hg
    rw [hp.1, hp.2]
    exact hg.1.2
  generalize hst : e.store = st at hs ⊢
  have fin (c' : Core) (hr : c'.regs = regsAfter ((s.advance i.t).core i.core.val) e)
      (hc : SameControl ((s.advance i.t).core i.core.val) c') :
      (takeEvents (nextPc c')).regs = (regsAfter ((s.advance i.t).core i.core.val) e).setPc (takeEvents (nextPc c')).regs.pc ∧
        (takeEvents (nextPc c')).land = c'.land ∧ (takeEvents (nextPc c')).buf = c'.buf ∧
        SameControl ((s.advance i.t).core i.core.val) (takeEvents (nextPc c')) := by
    obtain ⟨p, d, t, n, sp, hl, du, tr, h2⟩ := retire_eq c' (by rw [hr]; exact hpar)
    rw [h2, ← hr]
    exact ⟨rfl, rfl, rfl, hc⟩
  obtain _ | ⟨a, w⟩ := st
  · simp only [Bool.false_eq_true, if_false]
    refine ⟨_, congrArg Host.Outcome.next (useBanks_frame _ (s.advance i.t) _ _), ?_⟩
    exact fin _ rfl ⟨⟨rfl, rfl, rfl, rfl, rfl, rfl, rfl, rfl, rfl, rfl⟩, rfl, rfl, rfl, rfl, rfl⟩
  · obtain ⟨ha, hb⟩ := hs a w rfl
    have hover : ((tget none ((s.advance i.t).core i.core.val).buf a).isNone &&
        decide (tkFoot (instBody (s.advance i.t) ((s.advance i.t).core i.core.val).inst) <
          4 * (((s.advance i.t).core i.core.val).buf.length + 1))) = false := by
      rcases hb with hb | hb
      · cases hx : tget none ((s.advance i.t).core i.core.val).buf a <;> simp_all
      · rw [decide_eq_false (by omega), Bool.and_false]
    simp only [ha, hover, Bool.not_true, Bool.false_eq_true, if_false]
    refine ⟨_, congrArg Host.Outcome.next (useBanks_frame _ (s.advance i.t) _ _), ?_⟩
    exact fin _ rfl ⟨⟨rfl, rfl, rfl, rfl, rfl, rfl, rfl, rfl, rfl, rfl⟩, rfl, rfl, rfl, rfl, rfl⟩

/-- A control instruction that may stand at the PC moves its core as `f` says. -/
theorem ctlInstr_ok {cmd : Instr} {i : Issue} {k : Kind} {f : Core → Option Core} {s : State} {c1 c' : Core} (h : Issues cmd i k s)
    (h1 : f { (s.advance i.t).core i.core.val with land := [] } = some c1)
    (h2 : f { (s.advance i.t).core i.core.val with
      ibuf := (fetchCost ((s.advance i.t).core i.core.val) (tkHolm (instBody (s.advance i.t) ((s.advance i.t).core i.core.val).inst))).1
      hc := ((s.advance i.t).core i.core.val).hc + 1 +
        (fetchCost ((s.advance i.t).core i.core.val) (tkHolm (instBody (s.advance i.t) ((s.advance i.t).core i.core.val).inst))).2
      land := []
      regs := landAll ((s.advance i.t).core i.core.val).land ((s.advance i.t).core i.core.val).regs } = some c') :
    ctlInstr cmd i k f s = .next ((s.advance i.t).setCore i.core.val (takeEvents c')) := by
  unfold ctlInstr
  rw [issue_ok h]
  simp only [act, h1, h2]
  rfl

end Sys2Proof.Machine
end

