-- ==== Sys2Proof/Laws/Queues.lean ====
section
/-! SUPPORT. What the shared operations of the Queue Fabric can do: each changes the state within `QueueFrame`, so that a proof about
a queue command needs to open none of them for its frame. -/

namespace Sys2Proof.Machine

theorem queueFrame_refl (s : State) : QueueFrame s s := rfl

theorem queueFrame_trans {a b c : State} (h : QueueFrame a b) (k : QueueFrame b c) : QueueFrame a c := by
  unfold QueueFrame at *
  rw [k, h]

/-- One more operation that stays within the frame. -/
theorem queueFrame_of {a b c : State} (k : QueueFrame b c) (h : QueueFrame a b) : QueueFrame a c :=
  queueFrame_trans h k

theorem queueFrame_setQueue (q : Nat) (x : Queue) (s : State) : QueueFrame s (s.setQueue q x) := rfl

theorem queueFrame_updQueue (q : Nat) (f : Queue → Queue) (s : State) : QueueFrame s (s.updQueue q f) := rfl

theorem queueFrame_bumpBy (off n : Nat) (s : State) : QueueFrame s (s.bumpBy off n) := rfl

theorem queueFrame_bump (off : Nat) (s : State) : QueueFrame s (s.bump off) := rfl

theorem queueFrame_updPort (p : Nat) (f : Port → Port) (s : State) : QueueFrame s (s.updPort p f) := rfl

theorem queueFrame_draw (s : State) : QueueFrame s s.draw.2 := rfl

theorem queueFrame_setEvBit (off b : Nat) (s : State) : QueueFrame s (s.setEvBit off b) := by
  obtain ⟨m, h⟩ := State.setEvBit_eq s off b
  rw [h]
  rfl

theorem queueFrame_raise (source code : Nat) (d : List Nat) (svc : Nat) (s : State) : QueueFrame s (s.raise source code d svc) := by
  unfold State.raise
  simp only []
  split
  · exact queueFrame_of (queueFrame_setEvBit _ _ _) rfl
  · rfl

theorem queueFrame_qEvent (low q x : Nat) (s : State) : QueueFrame s (qEvent low q x s) := queueFrame_raise _ _ _ _ s

theorem queueFrame_sendPfc (d : List Byte) (quanta : Nat) (s : State) : QueueFrame s (sendPfc d quanta s) := by
  unfold sendPfc
  simp only []
  split <;> rfl

theorem queueFrame_pfcRise (q : Nat) (d : List Byte) (s : State) : QueueFrame s (pfcRise q d s) := by
  unfold pfcRise
  simp only []
  split
  · exact queueFrame_of (queueFrame_sendPfc _ _ _) (queueFrame_of (queueFrame_qEvent _ _ _ _) (queueFrame_setQueue _ _ s))
  · rfl

theorem queueFrame_pfcFall (q : Nat) (d : List Byte) (s : State) : QueueFrame s (pfcFall q d s) := by
  unfold pfcFall
  simp only []
  split
  · exact queueFrame_of (queueFrame_sendPfc _ _ _) (queueFrame_of (queueFrame_qEvent _ _ _ _) (queueFrame_setQueue _ _ s))
  · rfl

theorem queueFrame_qStore (q : Nat) (d : List Byte) (it : Item) (s : State) : QueueFrame s (qStore q d it s) := by
  unfold qStore
  exact queueFrame_of (queueFrame_pfcRise _ _ _) (queueFrame_of (queueFrame_bump _ _) (queueFrame_setQueue _ _ s))

theorem queueFrame_qDrop (q : Nat) (s : State) : QueueFrame s (qDrop q s) := by
  unfold qDrop
  simp only []
  split
  · exact queueFrame_of (queueFrame_qEvent _ _ _ _) (queueFrame_of (queueFrame_bump _ _) (queueFrame_setQueue _ _ s))
  · rfl

theorem queueFrame_qBegin (q : Nat) (it : Item) (more : List (Gts × List Byte)) (s : State) : QueueFrame s (qBegin q it more s) := rfl

theorem queueFrame_qPush (q : Nat) (d : List Byte) (it : Item) (whole : Bool) (more : List (Gts × List Byte)) (s : State) :
    QueueFrame s (qPush q d it whole more s) := by
  unfold qPush
  simp only []
  repeat' split
  all_goals first | exact queueFrame_qDrop q s | rfl

theorem queueFrame_qRead (d : List Byte) (x : Queue) (s : State) : QueueFrame s (qRead d x s).2 := by
  unfold qRead
  split <;> rfl

theorem queueFrame_qFlush (q : Nat) (d : List Byte) (immediate : Bool) (s : State) : QueueFrame s (qFlush q d immediate s) := by
  unfold qFlush
  simp only []
  refine queueFrame_of (queueFrame_pfcFall _ _ _) (queueFrame_of (queueFrame_bumpBy _ _ _) (queueFrame_of (queueFrame_setQueue _ _ _) ?_))
  split
  · exact queueFrame_qRead _ _ s
  · rfl

theorem queueFrame_qExpire (q : Nat) (d : List Byte) (g : Nat) (s : State) : QueueFrame s (qExpire q d g s) := by
  unfold qExpire
  simp only []
  split
  · rfl
  · have e : ∀ n b, QueueFrame b (qEvent 2 q n (b.bump (qCtr q 4))) := fun _ b =>
      queueFrame_of (queueFrame_qEvent _ _ _ _) (queueFrame_bump _ b)
    have p : ∀ c : Bool, QueueFrame s (if c = true then s.updQueue q fun x => { x with popStall := false, timedOut := true } else s) := by
      intro c; split <;> rfl
    split
    · refine queueFrame_of (queueFrame_qEvent _ _ _ _) (queueFrame_of (queueFrame_qFlush _ _ _ _) (queueFrame_of (e _ _) ?_))
      split
      · exact queueFrame_of (queueFrame_bump _ _) (queueFrame_of (queueFrame_updQueue _ _ _) (queueFrame_of (queueFrame_qStore _ _ _ _) (p _)))
      · exact p _
    · refine queueFrame_of (e _ _) ?_
      split
      · exact queueFrame_of (queueFrame_bump _ _) (queueFrame_of (queueFrame_updQueue _ _ _) (queueFrame_of (queueFrame_qStore _ _ _ _) (p _)))
      · exact p _

theorem queueFrame_qWrite (q : Nat) (d : List Byte) (l : List (Gts × List Byte)) (s : State) : QueueFrame s (qWrite q d l s) := by
  induction l generalizing s with
  | nil => exact queueFrame_of (queueFrame_qExpire _ _ _ _) (queueFrame_updQueue _ _ s)
  | cons x r ih =>
    unfold qWrite
    simp only []
    split
    · exact queueFrame_of (queueFrame_qExpire _ _ _ _) (queueFrame_updQueue _ _ s)
    · exact queueFrame_trans (queueFrame_qExpire q d x.1.toNat s) (queueFrame_trans (queueFrame_updQueue _ _ _) (ih _))

/-- A queue brought up to the present (R129, R130). -/
theorem queueFrame_queueNow (q : Nat) (d : List Byte) (s : State) : QueueFrame s (queueNow q d s) := queueFrame_qWrite _ _ _ s

theorem queueFrame_qDeliver (q : Nat) (d : List Byte) (s : State) : QueueFrame s (qDeliver q d s) := by
  unfold qDeliver
  simp only []
  split
  · rfl
  · exact queueFrame_of (queueFrame_pfcFall _ _ _) (queueFrame_of (queueFrame_bump _ _) (queueFrame_setQueue _ _ s))

end Sys2Proof.Machine
end

