-- ==== Sys2Proof/Laws/Shape.lean ====
section
/-! SUPPORT. The shape of every meaning, once for all: a command acts at its GTS and leaves the queue alone. -/

namespace Sys2Proof.Machine

/-- Every command is a sealed action at its GTS, one that may reach the fuses, or a restart. -/
theorem exec_cases (c : Instr) (s : State) :
    (∃ t f, exec c s = act t f s) ∨ (∃ t f, exec c s = actTrust t f s) ∨
      ∃ t k, restarts c = true ∧ exec c s = .next (powerOn k (s.advance t)) := by
  cases c
  case registerWrite => right; left; dsimp only [exec]; unfold execRegisterWrite; exact ⟨_, _, rfl⟩
  case counterLowRead => left; dsimp only [exec]; unfold execCounterLowRead; exact ⟨_, _, rfl⟩
  case eventWrite => left; dsimp only [exec]; unfold execEventWrite; exact ⟨_, _, rfl⟩
  case cutOff => left; dsimp only [exec]; unfold execCutOff; exact ⟨_, _, rfl⟩
  case playoutStart => left; dsimp only [exec]; unfold execPlayoutStart; exact ⟨_, _, rfl⟩
  case ellTick => left; dsimp only [exec]; unfold execEllTick; exact ⟨_, _, rfl⟩
  case rateChainComplete => left; dsimp only [exec]; unfold execRateChainComplete; exact ⟨_, _, rfl⟩
  case mixComplete => left; dsimp only [exec]; unfold execMixComplete; exact ⟨_, _, rfl⟩
  case taskDispatch => left; dsimp only [exec]; unfold execTaskDispatch; exact ⟨_, _, rfl⟩
  case taskCommit => left; dsimp only [exec]; unfold execTaskCommit; exact ⟨_, _, rfl⟩
  case slotDeadline => left; dsimp only [exec]; unfold execSlotDeadline; exact ⟨_, _, rfl⟩
  case stageDeadline => left; dsimp only [exec]; unfold execStageDeadline; exact ⟨_, _, rfl⟩
  case eccRetry => left; dsimp only [exec]; unfold execEccRetry; exact ⟨_, _, rfl⟩
  case stateZeroingDone => left; dsimp only [exec]; unfold execStateZeroingDone; exact ⟨_, _, rfl⟩
  case delayedDispatch => left; dsimp only [exec]; unfold execDelayedDispatch; exact ⟨_, _, rfl⟩
  case beginLoad => left; dsimp only [exec]; unfold execBeginLoad; exact ⟨_, _, rfl⟩
  case push => left; dsimp only [exec]; unfold execPush; exact ⟨_, _, rfl⟩
  case pieceTaken => left; dsimp only [exec]; unfold execPieceTaken; exact ⟨_, _, rfl⟩
  case finishLoad => left; dsimp only [exec]; unfold execFinishLoad; exact ⟨_, _, rfl⟩
  case verifyDone => left; dsimp only [exec]; unfold execVerifyDone; exact ⟨_, _, rfl⟩
  case commit => left; dsimp only [exec]; unfold execCommit; exact ⟨_, _, rfl⟩
  case abort => left; dsimp only [exec]; unfold execAbort; exact ⟨_, _, rfl⟩
  case flashLoad => left; dsimp only [exec]; unfold execFlashLoad; exact ⟨_, _, rfl⟩
  case deltaApply => left; dsimp only [exec]; unfold execDeltaApply; exact ⟨_, _, rfl⟩
  case deltaCommit => left; dsimp only [exec]; unfold execDeltaCommit; exact ⟨_, _, rfl⟩
  case rxFrame => left; dsimp only [exec]; unfold execRxFrame; exact ⟨_, _, rfl⟩
  case pauseFrame => left; dsimp only [exec]; unfold execPauseFrame; exact ⟨_, _, rfl⟩
  case pauseExpiry => left; dsimp only [exec]; unfold execPauseExpiry; exact ⟨_, _, rfl⟩
  case pauseStorm => left; dsimp only [exec]; unfold execPauseStorm; exact ⟨_, _, rfl⟩
  case releaseWindowEnd => left; dsimp only [exec]; unfold execReleaseWindowEnd; exact ⟨_, _, rfl⟩
  case linkDown => left; dsimp only [exec]; unfold execLinkDown; exact ⟨_, _, rfl⟩
  case linkUp => left; dsimp only [exec]; unfold execLinkUp; exact ⟨_, _, rfl⟩
  case txStart => left; dsimp only [exec]; unfold execTxStart; exact ⟨_, _, rfl⟩
  case gateEntry => left; dsimp only [exec]; unfold execGateEntry; exact ⟨_, _, rfl⟩
  case lpiEntry => left; dsimp only [exec]; unfold execLpiEntry; exact ⟨_, _, rfl⟩
  case rxParse => left; dsimp only [exec]; unfold execRxParse; exact ⟨_, _, rfl⟩
  case tagResult => left; dsimp only [exec]; unfold execTagResult; exact ⟨_, _, rfl⟩
  case legLost => left; dsimp only [exec]; unfold execLegLost; exact ⟨_, _, rfl⟩
  case adaptPeriodEnd => left; dsimp only [exec]; unfold execAdaptPeriodEnd; exact ⟨_, _, rfl⟩
  case packetBuild => left; dsimp only [exec]; unfold execPacketBuild; exact ⟨_, _, rfl⟩
  case queuePush => left; dsimp only [exec]; unfold execQueuePush; exact ⟨_, _, rfl⟩
  case pushComplete => left; dsimp only [exec]; unfold execPushComplete; exact ⟨_, _, rfl⟩
  case queuePop => left; dsimp only [exec]; unfold execQueuePop; exact ⟨_, _, rfl⟩
  case popComplete => left; dsimp only [exec]; unfold execPopComplete; exact ⟨_, _, rfl⟩
  case stalledPushProceed => left; dsimp only [exec]; unfold execStalledPushProceed; exact ⟨_, _, rfl⟩
  case stalledPopProceed => left; dsimp only [exec]; unfold execStalledPopProceed; exact ⟨_, _, rfl⟩
  case idleTimeout => left; dsimp only [exec]; unfold execIdleTimeout; exact ⟨_, _, rfl⟩
  case immediateFlush => left; dsimp only [exec]; unfold execImmediateFlush; exact ⟨_, _, rfl⟩
  case boundaryFlush => left; dsimp only [exec]; unfold execBoundaryFlush; exact ⟨_, _, rfl⟩
  case flushPoint => left; dsimp only [exec]; unfold execFlushPoint; exact ⟨_, _, rfl⟩
  case flushForced => left; dsimp only [exec]; unfold execFlushForced; exact ⟨_, _, rfl⟩
  case mark => left; dsimp only [exec]; unfold execMark; exact ⟨_, _, rfl⟩
  case release => left; dsimp only [exec]; unfold execRelease; exact ⟨_, _, rfl⟩
  case rewind => left; dsimp only [exec]; unfold execRewind; exact ⟨_, _, rfl⟩
  case pfcRepeat => left; dsimp only [exec]; unfold execPfcRepeat; exact ⟨_, _, rfl⟩
  case rcReset => left; dsimp only [exec]; unfold execRcReset; exact ⟨_, _, rfl⟩
  case mpy => left; dsimp only [exec]; unfold execMpy dataInstr issue; exact ⟨_, _, rfl⟩
  case mpyr => left; dsimp only [exec]; unfold execMpyr dataInstr issue; exact ⟨_, _, rfl⟩
  case mac => left; dsimp only [exec]; unfold execMac dataInstr issue; exact ⟨_, _, rfl⟩
  case msu => left; dsimp only [exec]; unfold execMsu dataInstr issue; exact ⟨_, _, rfl⟩
  case macr => left; dsimp only [exec]; unfold execMacr dataInstr issue; exact ⟨_, _, rfl⟩
  case msur => left; dsimp only [exec]; unfold execMsur dataInstr issue; exact ⟨_, _, rfl⟩
  case tap => left; dsimp only [exec]; unfold execTap dataInstr issue; exact ⟨_, _, rfl⟩
  case tap2 => left; dsimp only [exec]; unfold execTap2 dataInstr issue; exact ⟨_, _, rfl⟩
  case cmac => left; dsimp only [exec]; unfold execCmac dataInstr issue; exact ⟨_, _, rfl⟩
  case add => left; dsimp only [exec]; unfold execAdd aluInstr dataInstr issue; exact ⟨_, _, rfl⟩
  case sub => left; dsimp only [exec]; unfold execSub aluInstr dataInstr issue; exact ⟨_, _, rfl⟩
  case neg => left; dsimp only [exec]; unfold execNeg aluInstr dataInstr issue; exact ⟨_, _, rfl⟩
  case abs => left; dsimp only [exec]; unfold execAbs aluInstr dataInstr issue; exact ⟨_, _, rfl⟩
  case cmp => left; dsimp only [exec]; unfold execCmp aluInstr dataInstr issue; exact ⟨_, _, rfl⟩
  case and => left; dsimp only [exec]; unfold execAnd aluInstr dataInstr issue; exact ⟨_, _, rfl⟩
  case or => left; dsimp only [exec]; unfold execOr aluInstr dataInstr issue; exact ⟨_, _, rfl⟩
  case xor => left; dsimp only [exec]; unfold execXor aluInstr dataInstr issue; exact ⟨_, _, rfl⟩
  case shl => left; dsimp only [exec]; unfold execShl aluInstr dataInstr issue; exact ⟨_, _, rfl⟩
  case shr => left; dsimp only [exec]; unfold execShr aluInstr dataInstr issue; exact ⟨_, _, rfl⟩
  case mva => left; dsimp only [exec]; unfold execMva aluInstr dataInstr issue; exact ⟨_, _, rfl⟩
  case norm => left; dsimp only [exec]; unfold execNorm aluInstr dataInstr issue; exact ⟨_, _, rfl⟩
  case divs => left; dsimp only [exec]; unfold execDivs aluInstr dataInstr issue; exact ⟨_, _, rfl⟩
  case clr => left; dsimp only [exec]; unfold execClr aluInstr dataInstr issue; exact ⟨_, _, rfl⟩
  case ld => left; dsimp only [exec]; unfold execLd dataInstr issue; exact ⟨_, _, rfl⟩
  case st => left; dsimp only [exec]; unfold execSt dataInstr issue; exact ⟨_, _, rfl⟩
  case stMva => left; dsimp only [exec]; unfold execStMva dataInstr issue; exact ⟨_, _, rfl⟩
  case ldLd => left; dsimp only [exec]; unfold execLdLd pairInstr dataInstr issue; exact ⟨_, _, rfl⟩
  case ldSt => left; dsimp only [exec]; unfold execLdSt pairInstr dataInstr issue; exact ⟨_, _, rfl⟩
  case mov => left; dsimp only [exec]; unfold execMov dataInstr issue; exact ⟨_, _, rfl⟩
  case movTagToD => left; dsimp only [exec]; unfold execMovTagToD dataInstr issue; exact ⟨_, _, rfl⟩
  case movTagFromD => left; dsimp only [exec]; unfold execMovTagFromD dataInstr issue; exact ⟨_, _, rfl⟩
  case moviD => left; dsimp only [exec]; unfold execMoviD dataInstr issue; exact ⟨_, _, rfl⟩
  case moviAddress => left; dsimp only [exec]; unfold execMoviAddress dataInstr issue; exact ⟨_, _, rfl⟩
  case nop => left; dsimp only [exec]; unfold execNop ctlInstr issue; exact ⟨_, _, rfl⟩
  case br => left; dsimp only [exec]; unfold execBr ctlInstr issue; exact ⟨_, _, rfl⟩
  case brc => left; dsimp only [exec]; unfold execBrc ctlInstr issue; exact ⟨_, _, rfl⟩
  case call => left; dsimp only [exec]; unfold execCall ctlInstr issue; exact ⟨_, _, rfl⟩
  case ret => left; dsimp only [exec]; unfold execRet ctlInstr issue; exact ⟨_, _, rfl⟩
  case repi => left; dsimp only [exec]; unfold execRepi repeatInstr ctlInstr issue; exact ⟨_, _, rfl⟩
  case repd => left; dsimp only [exec]; unfold execRepd repeatInstr ctlInstr issue; exact ⟨_, _, rfl⟩
  case loopi => left; dsimp only [exec]; unfold execLoopi loopInstr ctlInstr issue; exact ⟨_, _, rfl⟩
  case loopd => left; dsimp only [exec]; unfold execLoopd loopInstr ctlInstr issue; exact ⟨_, _, rfl⟩
  case endLoop => left; dsimp only [exec]; unfold execEndLoop issue; exact ⟨_, _, rfl⟩
  case waite => left; dsimp only [exec]; unfold execWaite ctlInstr issue; exact ⟨_, _, rfl⟩
  case yield => left; dsimp only [exec]; unfold execYield ctlInstr issue; exact ⟨_, _, rfl⟩
  case halt => left; dsimp only [exec]; unfold execHalt coreEvent; exact ⟨_, _, rfl⟩
  case step => left; dsimp only [exec]; unfold execStep coreEvent; exact ⟨_, _, rfl⟩
  case breakAt => left; dsimp only [exec]; unfold execBreakAt coreEvent; exact ⟨_, _, rfl⟩
  case trace => left; dsimp only [exec]; unfold execTrace coreEvent; exact ⟨_, _, rfl⟩
  case sig => left; dsimp only [exec]; unfold execSig coreEvent; exact ⟨_, _, rfl⟩
  case swap => left; dsimp only [exec]; unfold execSwap; exact ⟨_, _, rfl⟩
  case force => left; dsimp only [exec]; unfold execForce; exact ⟨_, _, rfl⟩
  case cancel => left; dsimp only [exec]; unfold execCancel; exact ⟨_, _, rfl⟩
  case coefWrite => left; dsimp only [exec]; unfold execCoefWrite; exact ⟨_, _, rfl⟩
  case claim => left; dsimp only [exec]; unfold execClaim; exact ⟨_, _, rfl⟩
  case lockRelease => left; dsimp only [exec]; unfold execLockRelease; exact ⟨_, _, rfl⟩
  case lockExpired => left; dsimp only [exec]; unfold execLockExpired; exact ⟨_, _, rfl⟩
  case cipherOpStart => left; dsimp only [exec]; unfold execCipherOpStart; exact ⟨_, _, rfl⟩
  case cipherOpDone => left; dsimp only [exec]; unfold execCipherOpDone; exact ⟨_, _, rfl⟩
  case keyload => left; dsimp only [exec]; unfold execKeyload; exact ⟨_, _, rfl⟩
  case change => left; dsimp only [exec]; unfold execChange; exact ⟨_, _, rfl⟩
  case discard => left; dsimp only [exec]; unfold execDiscard; exact ⟨_, _, rfl⟩
  case save => left; dsimp only [exec]; unfold execSave; exact ⟨_, _, rfl⟩
  case restore => left; dsimp only [exec]; unfold execRestore; exact ⟨_, _, rfl⟩
  case exportCtx => left; dsimp only [exec]; unfold execExportCtx; exact ⟨_, _, rfl⟩
  case importCtx => left; dsimp only [exec]; unfold execImportCtx; exact ⟨_, _, rfl⟩
  case cmdComplete => left; dsimp only [exec]; unfold execCmdComplete; exact ⟨_, _, rfl⟩
  case encode => left; dsimp only [exec]; unfold execEncode; exact ⟨_, _, rfl⟩
  case blockVerify => left; dsimp only [exec]; unfold execBlockVerify; exact ⟨_, _, rfl⟩
  case stagingResume => left; dsimp only [exec]; unfold execStagingResume; exact ⟨_, _, rfl⟩
  case encodeDone => left; dsimp only [exec]; unfold execEncodeDone; exact ⟨_, _, rfl⟩
  case decode => left; dsimp only [exec]; unfold execDecode; exact ⟨_, _, rfl⟩
  case decodeDone => left; dsimp only [exec]; unfold execDecodeDone; exact ⟨_, _, rfl⟩
  case sync => left; dsimp only [exec]; unfold execSync; exact ⟨_, _, rfl⟩
  case followUp => left; dsimp only [exec]; unfold execFollowUp; exact ⟨_, _, rfl⟩
  case delayReq => left; dsimp only [exec]; unfold execDelayReq; exact ⟨_, _, rfl⟩
  case delayResp => left; dsimp only [exec]; unfold execDelayResp; exact ⟨_, _, rfl⟩
  case announce => left; dsimp only [exec]; unfold execAnnounce; exact ⟨_, _, rfl⟩
  case syncTx => left; dsimp only [exec]; unfold execSyncTx; exact ⟨_, _, rfl⟩
  case delayReqTx => left; dsimp only [exec]; unfold execDelayReqTx; exact ⟨_, _, rfl⟩
  case egressTimestamp => left; dsimp only [exec]; unfold execEgressTimestamp; exact ⟨_, _, rfl⟩
  case tsDrop => left; dsimp only [exec]; unfold execTsDrop; exact ⟨_, _, rfl⟩
  case holdoverOn => left; dsimp only [exec]; unfold execHoldoverOn; exact ⟨_, _, rfl⟩
  case holdoverExpired => left; dsimp only [exec]; unfold execHoldoverExpired; exact ⟨_, _, rfl⟩
  case ptpStep => left; dsimp only [exec]; unfold execPtpStep; exact ⟨_, _, rfl⟩
  case refRevert => left; dsimp only [exec]; unfold execRefRevert; exact ⟨_, _, rfl⟩
  case realign => left; dsimp only [exec]; unfold execRealign; exact ⟨_, _, rfl⟩
  case setTod => left; dsimp only [exec]; unfold execSetTod; exact ⟨_, _, rfl⟩
  case ppsIn => left; dsimp only [exec]; unfold execPpsIn; exact ⟨_, _, rfl⟩
  case ppsLoss => left; dsimp only [exec]; unfold execPpsLoss; exact ⟨_, _, rfl⟩
  case gtsRead => left; dsimp only [exec]; unfold execGtsRead; exact ⟨_, _, rfl⟩
  case scrub => left; dsimp only [exec]; unfold execScrub; exact ⟨_, _, rfl⟩
  case progRepair => left; dsimp only [exec]; unfold execProgRepair; exact ⟨_, _, rfl⟩
  case hsTimeout => left; dsimp only [exec]; unfold execHsTimeout; exact ⟨_, _, rfl⟩
  case destResetDone => left; dsimp only [exec]; unfold execDestResetDone; exact ⟨_, _, rfl⟩
  case unfreeze => left; dsimp only [exec]; unfold execUnfreeze; exact ⟨_, _, rfl⟩
  case clearViol => left; dsimp only [exec]; unfold execClearViol; exact ⟨_, _, rfl⟩
  case coreBistDone => left; dsimp only [exec]; unfold execCoreBistDone; exact ⟨_, _, rfl⟩
  case hostThaw => left; dsimp only [exec]; unfold execHostThaw; exact ⟨_, _, rfl⟩
  case netLost => left; dsimp only [exec]; unfold execNetLost; exact ⟨_, _, rfl⟩
  case classBack => left; dsimp only [exec]; unfold execClassBack; exact ⟨_, _, rfl⟩
  case logRdWrite => left; dsimp only [exec]; unfold execLogRdWrite; exact ⟨_, _, rfl⟩
  case calTimeout => left; dsimp only [exec]; unfold execCalTimeout; exact ⟨_, _, rfl⟩
  case standby => left; dsimp only [exec]; unfold execStandby; exact ⟨_, _, rfl⟩
  case off => left; dsimp only [exec]; unfold execOff; exact ⟨_, _, rfl⟩
  case test => left; dsimp only [exec]; unfold execTest; exact ⟨_, _, rfl⟩
  case recover => left; dsimp only [exec]; unfold execRecover; exact ⟨_, _, rfl⟩
  case reset => left; dsimp only [exec]; unfold execReset; exact ⟨_, _, rfl⟩
  case wake => left; dsimp only [exec]; unfold execWake; exact ⟨_, _, rfl⟩
  case powerDownDone => left; dsimp only [exec]; unfold execPowerDownDone; exact ⟨_, _, rfl⟩
  case powerOnReset => exact .inr (.inr ⟨_, _, rfl, rfl⟩)
  case brownout => exact .inr (.inr ⟨_, _, rfl, rfl⟩)
  case resetN => left; dsimp only [exec]; unfold execResetN; exact ⟨_, _, rfl⟩
  case debugReset => left; dsimp only [exec]; unfold execDebugReset; exact ⟨_, _, rfl⟩
  case watchdog => left; dsimp only [exec]; unfold execWatchdog; exact ⟨_, _, rfl⟩
  case perstN => left; dsimp only [exec]; unfold execPerstN; exact ⟨_, _, rfl⟩
  case trstN => left; dsimp only [exec]; unfold execTrstN; exact ⟨_, _, rfl⟩
  case wakePin => left; dsimp only [exec]; unfold execWakePin; exact ⟨_, _, rfl⟩
  case firmwareVerified => left; dsimp only [exec]; unfold execFirmwareVerified; exact ⟨_, _, rfl⟩
  case fuseCheck => right; left; dsimp only [exec]; unfold execFuseCheck; exact ⟨_, _, rfl⟩
  case idReady => right; left; dsimp only [exec]; unfold execIdReady; exact ⟨_, _, rfl⟩
  case attest => right; left; dsimp only [exec]; unfold execAttest; exact ⟨_, _, rfl⟩
  case reportReady => right; left; dsimp only [exec]; unfold execReportReady; exact ⟨_, _, rfl⟩
  case present => right; left; dsimp only [exec]; unfold execPresent; exact ⟨_, _, rfl⟩
  case certAccept => right; left; dsimp only [exec]; unfold execCertAccept; exact ⟨_, _, rfl⟩
  case openSession => right; left; dsimp only [exec]; unfold execOpenSession; exact ⟨_, _, rfl⟩
  case closeSession => right; left; dsimp only [exec]; unfold execCloseSession; exact ⟨_, _, rfl⟩
  case debugClose => right; left; dsimp only [exec]; unfold execDebugClose; exact ⟨_, _, rfl⟩
  case progSlot => right; left; dsimp only [exec]; unfold execProgSlot; exact ⟨_, _, rfl⟩
  case progKek => right; left; dsimp only [exec]; unfold execProgKek; exact ⟨_, _, rfl⟩
  case advance => right; left; dsimp only [exec]; unfold execAdvance; exact ⟨_, _, rfl⟩
  case provision => right; left; dsimp only [exec]; unfold execProvision; exact ⟨_, _, rfl⟩
  case deploy => right; left; dsimp only [exec]; unfold execDeploy; exact ⟨_, _, rfl⟩
  case lockdown => right; left; dsimp only [exec]; unfold execLockdown; exact ⟨_, _, rfl⟩
  case glitchDetect => right; left; dsimp only [exec]; unfold execGlitchDetect; exact ⟨_, _, rfl⟩
  case flashPass => right; left; dsimp only [exec]; unfold execFlashPass; exact ⟨_, _, rfl⟩
  case zeroizeComplete => right; left; dsimp only [exec]; unfold execZeroizeComplete; exact ⟨_, _, rfl⟩
  case tailWrite => left; dsimp only [exec]; unfold execTailWrite; exact ⟨_, _, rfl⟩
  case rxRingDeliver => left; dsimp only [exec]; unfold execRxRingDeliver; exact ⟨_, _, rfl⟩
  case txRingPush => left; dsimp only [exec]; unfold execTxRingPush; exact ⟨_, _, rfl⟩
  case ringSignal => left; dsimp only [exec]; unfold execRingSignal; exact ⟨_, _, rfl⟩
  case codedPlace => left; dsimp only [exec]; unfold execCodedPlace; exact ⟨_, _, rfl⟩
  case codedDeliver => left; dsimp only [exec]; unfold execCodedDeliver; exact ⟨_, _, rfl⟩
  case dmaErr => left; dsimp only [exec]; unfold execDmaErr; exact ⟨_, _, rfl⟩
  case localFrame => left; dsimp only [exec]; unfold execLocalFrame; exact ⟨_, _, rfl⟩
  case lpUnlock => left; dsimp only [exec]; unfold execLpUnlock; exact ⟨_, _, rfl⟩
  case spiRead => left; dsimp only [exec]; unfold execSpiRead; exact ⟨_, _, rfl⟩
  case spiWrite => right; left; dsimp only [exec]; unfold execSpiWrite; exact ⟨_, _, rfl⟩
  case bistSram => left; dsimp only [exec]; unfold execBistSram; exact ⟨_, _, rfl⟩
  case bistLanes => left; dsimp only [exec]; unfold execBistLanes; exact ⟨_, _, rfl⟩
  case bistCore => left; dsimp only [exec]; unfold execBistCore; exact ⟨_, _, rfl⟩
  case pcsLoopback => left; dsimp only [exec]; unfold execPcsLoopback; exact ⟨_, _, rfl⟩
  case localLoopback => left; dsimp only [exec]; unfold execLocalLoopback; exact ⟨_, _, rfl⟩
  case endLoopbacks => left; dsimp only [exec]; unfold execEndLoopbacks; exact ⟨_, _, rfl⟩
  case testDone => left; dsimp only [exec]; unfold execTestDone; exact ⟨_, _, rfl⟩
  case illegalInstruction i w =>
    left
    by_cases h : wordBad w.toNat = true
    · exact ⟨i.t, _, by simp only [exec, execIllegalInstruction, if_pos h]; rfl⟩
    · exact ⟨i.t, id, by simp only [exec, execIllegalInstruction, if_neg h]⟩
  case announceReceiptTimeout => left; dsimp only [exec]; unfold execAnnounceReceiptTimeout; exact ⟨_, _, rfl⟩
  case fuseOperationDone => right; left; dsimp only [exec]; unfold execFuseOperationDone; exact ⟨_, _, rfl⟩
  case serdesAndPcieRailsUp => left; dsimp only [exec]; unfold execSerdesAndPcieRailsUp; exact ⟨_, _, rfl⟩
  case tenMhzInputPresent => left; dsimp only [exec]; unfold execTenMhzInputPresent; exact ⟨_, _, rfl⟩
  case lowPowerIdleFromPartner => left; dsimp only [exec]; unfold execLowPowerIdleFromPartner; exact ⟨_, _, rfl⟩

end Sys2Proof.Machine
end

