-- ==== Sys2Proof/Tests/Slice0.lean ====
section
/-! SUPPORT. Checks of the author's own: ill-formed commands are refused, small examples of the spec, and for every statement with
hypotheses concrete states and operands that meet them, clause by clause. -/

set_option Elab.async false
set_option maxRecDepth 100000
set_option synthInstance.maxSize 2000
set_option synthInstance.maxHeartbeats 200000

namespace Sys2Proof.Tests
open Sys2Proof Sys2Proof.Machine Sys2Proof.Machine.State

/-! ### Ill-formed commands are refused by `Instr.wf` -/

theorem test_wf_write_needs_data : (Instr.registerWrite 0 .host 0x4004C true []).wf = false := by decide
theorem test_wf_coefficients_need_data : (Instr.coefWrite 0 .host 0x600000 []).wf = false := by decide
theorem test_wf_coefficients_below_their_banks : (Instr.coefWrite 0 .host 0x5FFFFC [0]).wf = false := by decide
theorem test_wf_coefficients_above_their_banks : (Instr.coefWrite 0 .host 0x800000 [0]).wf = false := by decide
theorem test_wf_pfc_needs_eight_quanta : (Instr.pauseFrame 0 0 (.pfc 0xFF (List.replicate 7 9))).wf = false := by decide
theorem test_wf_queues_end_at_95 :
    ([.queuePush 0 13 96 0 0 ⟨[], []⟩ none, .pushComplete 0 96 [] false, .queuePop 0 13 96, .popComplete 0 96, .stalledPushProceed 0 96,
      .stalledPopProceed 0 96, .idleTimeout 0 96, .immediateFlush 0 (.bus .host) 96, .boundaryFlush 0 (.bus .host) 96, .flushPoint 0 96,
      .flushForced 0 96, .mark 0 (.bus .host) 96, .release 0 (.bus .host) 96, .rewind 0 (.bus .host) 96, .pfcRepeat 0 96] : List Instr).all
      (fun c => !c.wf) = true := by decide
theorem test_wf_contexts_end_at_2047 :
    ([.keyload 0 .host 0 0 2048, .change 0 .host 0 0 2048, .discard 0 .host 0 0 2048, .save 0 .host 0 0 2048, .restore 0 .host 0 0 2048,
      .exportCtx 0 .host 0 0 0x7FFF, .importCtx 0 .host 0 0 0x8020] : List Instr).all (fun c => !c.wf) = true := by decide
theorem test_wf_stretches_rise : (Instr.queuePush 0 13 5 0 0 ⟨[], [(7, [1]), (6, [2])]⟩ none).wf = false := by decide
theorem test_wf_a_write_pass_has_started : (Instr.taskCommit 7 5 ⟨false, 8⟩).wf = false := by decide
theorem test_wf_local_ports : ([.localFrame 0 0x14 [] none, .lpUnlock 0 0x22] : List Instr).all (fun c => !c.wf) = true := by decide
theorem test_wf_accepts :
    ([.registerWrite 0 .host 0x4004C true [7], .coefWrite 0 .host 0x7FFFFC [0], .pauseFrame 0 0 (.pfc 0xFF (List.replicate 8 9)),
      .queuePop 0 13 95, .keyload 0 .host 0 0 2047, .keyload 0 .host 0 0 0x801F, .localFrame 0 0x21 [] none, .trstN 0] : List Instr).all
      (fun c => c.wf) = true := by decide

/-! ### Small examples -/

/-- An empty queue: the device idles (log 1). -/
theorem test_empty_queue_idles : step State.reset = .next State.reset := rfl
/-- No word of the table spells a command (log 2). -/
theorem test_no_word_spells_a_command : State.reset.withFetchWord 32 0x4B41454E = State.reset := rfl
/-- GL_ID, [00]. -/
theorem test_reset_reads_gl_id : readVal State.reset 0 = 0x4096C412 := by decide +kernel
/-- The check value of CRC-32, IEEE 802.3, for the digits 1 to 9. -/
theorem test_crc32_check_value : crc32 [0x31, 0x32, 0x33, 0x34, 0x35, 0x36, 0x37, 0x38, 0x39] = 0xCBF43926 := by decide +kernel
/-- The check value of CRC-32C. -/
theorem test_crc32c_check_value : crc32c [0x31, 0x32, 0x33, 0x34, 0x35, 0x36, 0x37, 0x38, 0x39] = 0xE3069283 := by decide +kernel
/-- SHAKE256 of the empty message, FIPS 202. -/
theorem test_shake256_empty : (shake256 []).take 4 = [0x46, 0xB9, 0xDD, 0x2B] := by decide +kernel
/-- An Ell is 500,000 grains of 250 ps: 8,000 Ells a second. -/
theorem test_ell_of_one_second : ({ ({} : State) with gts := 4000000000 }).ell = 8000 := by decide +kernel

/-! ### States and operands of the witnesses -/

def svc : State := { ({} : State) with gts := 100000000000, sup := { mode := .service } }
def T : Gts := 100000000005
/-- A task of holm 0, core 0, stage 1, with 64 bytes of footprint and its state at 0x100. -/
def taskB : List Byte := [0, 0, 1, 0, 0, 0, 0, 0, 0x10, 0x27, 0, 0, 0x40, 0, 0, 0, 0, 1, 0, 0, 0, 4, 0, 0, 0, 0, 0, 0]
/-- Registers whose pointers stand in the state region. -/
def gregs : Regs :=
  { p := Vector.replicate 8 0x104, b := Vector.replicate 8 0x100, pRes := Vector.replicate 8 (res7 0x104),
    bRes := Vector.replicate 8 (res7 0x100), pc := 100, pcPar := parityOf 17 100 }
def gcore : Core := { st := 1, inst := 5, data := 10, regs := gregs }
/-- A running core whose PC stands at a word. -/
def gstw (w : Word) (c : Core) : State :=
  { svc with cfg := { built := true, recs := [(recKey tyTASK 5, some taskB)] }, trust := { level := 2 },
             ha := { prog := [(100, w)], cores := [(0, c)],
                     insts := [(5, { live := true, data := 10, inEll := 10, stageEnd := 10 ^ 12, run := some 0 })] } }
/-- A running core whose PC stands at the word of a command. -/
def gst (k : Instr) (c : Core) : State := gstw ((encodeGeldin k).getD 0) c
def gi : Issue := { t := T, core := 0 }
def mop (dual : Bool) (ab : BitVec 2) : MacOps := { sm := .signed, dual := dual, aa := 1, ab := ab, x0 := 0, y0 := 7, x1 := 0, y1 := 0 }
def alu (form : BitVec 2) (dst s1 s2 : BitVec 3) : AluOps := { form := form, dst := dst, s1 := s1, s2 := s2, ci := false, cnt := 0 }
def taps : TapLoads := { p0 := 0, m0 := 1, p1 := 7, m1 := 0, nf0 := false, nf1 := true }
def memop (reg : BitVec 6) (mode : BitVec 3) (ea : BitVec 12) : MemOps := { mode := mode, reg := reg, nf := true, ea := ea }
def pair : PairOps := { ptr0 := 0, mode0 := 1, nf0 := false, reg0 := 0, ptr1 := 7, mode1 := 0, nf1 := false, reg1 := 0x0B }
def looping : Core := { gcore with loops := [{ lc := 3, start := 90, endAt := 100 }] }
def nested : Core := { gcore with loops := [{ lc := 3, start := 90, endAt := 110 }, { lc := 3, start := 80, endAt := 120 }] }
def counting : Core := { gcore with regs := { gregs with d := Vector.replicate 8 { v := 5, tag := 0, res := 5 } } }
/-- A PTP record: role, one-step ability, log interval. -/
def ptpB (role : Byte) : List Byte := [role, 0, 0, 1, 0, 0, 0, 3, 0, 0, 100, 0, 0, 0, 0, 0]
def timed (role : Byte) (x : PtpInst) (tb : TimeB) : State :=
  { svc with cfg := { built := true, recs := [(recKey tyPTP 0, some (ptpB role)), (recKey tyPTP 1, some (ptpB role))] }
             tb := { tb with inst := [(0, { x with delay := 1000 })] } }
def msg (two : Bool) (o : Int) : PtpMsg := { origin := o, corr := 3, seq := 7, twoStep := two }
def ann (p : BitVec 4) : BmcResult := { pstate := p, steps := 3, gmId := 99 }
def frame (dst : List Byte) : List Byte := withFcs (dst ++ [2, 0, 0, 0, 0, 9, 0x12, 0x34] ++ List.replicate 60 7) false
def bcast : List Byte := List.replicate 6 0xFF
/-- A queue of 4 items of 2,032 bytes, port 0 to the host or otherwise. -/
def qB (prod cons flags ct idle : Byte) : List Byte :=
  [0, 0, 0, 0, 2, 32, prod, cons, flags, ct, idle, 0, 0, 0, 0, 0, 100, 0, 0, 3, 0, 0, 0, 0, 0, 0, 0, 0, 0, 0, 0, 0]
def ported (cfg : Word) (x : Port) : State :=
  { svc with regs := [(0x40000, cfg), (0x40034, 0x9F01), (0x40038, 0x01000200), (0x40048, 0x140641), (0x4003C, 0x00050505)]
             ports := [(0, x)] }
def filed (x : Port) (q : Queue) : State :=
  { ported 0x43 x with cfg := { built := true, recs := [(recKey tyQUEUE 5, some (qB 0 13 0 0 0))] }, queues := [(5, q)] }
def txf (c : Nat) : TxFrame := { bytes := List.replicate (20 + c * 30) 5, tclass := c, stomp := false }
def sending : State := ported 3 { link := true, txq := [(2, [txf 2]), (6, [txf 6])], hold := [(6, 1000000000000)] }
/-- The same on a port that secures its frames. -/
def sealing : State := { sending with regs := [(0x40000, 0x13)] }
/-- Queue 5 as its descriptor and its state give it. -/
def queued (d : List Byte) (x : Queue) : State := { svc with cfg := { built := true, recs := [(recKey tyQUEUE 5, some d)] }, queues := [(5, x)] }
def host1 : List Byte := qB 9 13 0 0 1
def lossy : List Byte := qB 9 13 1 0 1
def held1 : List Byte := qB 9 13 0 0 0
/-- A lossy queue that the Cipher Engine empties. -/
def lossy7 : List Byte := qB 9 7 1 0 1
def media : List Byte := qB 0 4 0 0 0
def ip (x : Byte) : List Byte := List.replicate 12 0 ++ [239, 0, 0, x]
/-- A receive stream: two channels of L24, one Ell a packet, both legs. -/
def rxB (ce : Nat) : List Byte :=
  toLe 4 (2 ^ 31 + 2 ^ 28 + 2 ^ 27 + 2 ^ 26 + 2 ^ 24 + 2 ^ 22) ++ toLe 2 0 ++ [97, 4] ++ toLe 4 0x1234 ++ toLe 4 0 ++ toLe 2 2 ++ toLe 2 100 ++
    toLe 2 10 ++ toLe 2 20 ++ toLe 2 5004 ++ toLe 2 ce ++ toLe 2 0xFFFF ++ toLe 2 0 ++ ip 1 ++ ip 2
def rtp (seq n : Nat) : List Byte := [0x80, 97] ++ toBe 2 seq ++ toBe 4 1200000 ++ toBe 4 0x1234 ++ List.replicate n 5
def udp (r : List Byte) : List Byte := udpFrame { ipv6 := false, srcMac := [0, 1, 2, 3, 4, 5], dstMac := [1, 0, 0x5E, 0, 0, 1], vlan := 0, dscp := 0, ttl := 3, src := ip 5, dst := ip 1, sport := 5, dport := 5004 } r
def streaming (ce : Nat) (data : List Byte) (r : RxStream) : State :=
  { svc with cfg := { built := true, recs := tset none [(recKey tyQUEUE 5, some (qB 0 4 0 0 0))] (recKey tyRX 3) (some (rxB ce)) }
             ports := [(0, { link := true }), (1, { link := true })], queues := [(5, { w := 1, slots := [(0, { src := 0, tclass := 3, data := data })] })]
             regs := [(0x40000, 1), (0x44000, 2), (0x4003C, 0x050505), (0x80004, 127), (0x80000, 0x10001)], se := { rx := [(3, r)] } }
def popped (s : State) : State := (qPopNow 4 5 (s.advance T)).2
def rxItem (data : List Byte) : Item := { src := 0, tclass := 3, data := data }
def pkt : List Byte := udp (rtp 7 18)
def err1 (it : Item) : Item := { it with err := true }
def streamingErr (data : List Byte) : State :=
  { streaming 0xFFFF [] { high := none } with queues := [(5, { w := 1, slots := [(0, err1 { src := 0, tclass := 3, data := data })] })] }
def bad : List Byte := udp ([0x80, 96] ++ (rtp 7 18).drop 2)
/-- The same stream with SRTP in context 1: ten bytes of tag, no MKI. -/
def sealed1 : List Byte := udp (rtp 7 34)
def direct1 : List Byte := [3, 0, 2, 3, 0, 0, 0, 0] ++ List.replicate 64 1
def relaying : State :=
  { streaming 0xFFFF pkt { high := none } with cfg := { built := true, recs := tset none (tset none [(recKey tyQUEUE 5, some (qB 0 4 0 0 0))] (recKey tyRX 3) (some (rxB 0xFFFF))) (recKey tyDIRECT 7) (some direct1) } }
def dup : RxStream := { high := some 7, merge := [(7, { st := 2, legs := 1, seq := 7 })] }
def copy (ok : Bool) : Copy := { stream := 3, leg := 0, seq := 7, first := 1200000, ts := 9, m := true, gts := 5, payload := List.replicate 18 7, role := .first, len := 30, ok := ok }
def tagged (ok : Bool) (e : Nat) : State :=
  { streaming 1 [] { high := some 7, merge := [(7, { st := 1, legs := 1, leg := 0, seq := 7, first := 1200000 })], authEll := e } with ce := { done := [copy ok] } }
def txB (ce : Nat) : List Byte :=
  toLe 4 (2 ^ 31 + 2 ^ 27 + 3 * 256 + 2 ^ 22) ++ toLe 2 4096 ++ [97, 4] ++ toLe 4 0x1234 ++ toLe 4 77 ++ toLe 2 100 ++ toLe 2 10 ++ toLe 2 20 ++
    toLe 2 5004 ++ toLe 2 ce ++ toLe 2 0xFFFF ++ [7, 0, 0, 0] ++ ip 1 ++ ip 2
def cipherB (tx : Byte) : List Byte := [tx, 1, 0, 0, 3, 0, 0, 0, 2, 0, 0, 0, 0, 0, 0, 0]
def group : List (List Word) := [[0, 1, 2, 3, 4, 5]]
def sender (ce : Nat) (regs : Tbl Word) (ctxs : Tbl CeCtx) : State :=
  { svc with cfg := { built := true, recs := tset none (tset none [(recKey tyQUEUE 5, some (qB 5 0 0 0 0))] (recKey tyTX 3) (some (txB ce)))
                        (recKey tyCIPHER 0) (some (cipherB 1)) }
             regs := regs, se := { tx := [(3, { acc := [(70, group)] })] }, ce := { ctxs := ctxs } }
/-- The same with the link of its port up. -/
def linked : State := { sender 0xFFFF [(0x40000, 1), (0x80008, 5)] [] with ports := [(0, { link := true })] }
/-- A stream whose packet 9 holds the samples of the next Ells. -/
def playing (st : Nat) (m : MergeRec) (ring : Tbl Held) : State :=
  { svc with cfg := { built := true, recs := [(recKey tyRX 3, some (rxB 0xFFFF))] }
             se := { rx := [(3, { st := st, ofs := 10, oPrev := 11, lastSeq := 9, lastFirst := 1199946, merge := [(9, m)], ring := ring })] } }
def ring : Tbl Held := ((List.range 2).flatMap fun ch => (List.range 6).map fun j =>
  (ringKey (rxB 0xFFFF) ch (1199940 + (j : Nat)), { idx := 1199940 + (j : Nat), seq := 9, w := 256 })).foldl (fun t e => tset {} t e.1 e.2) []
def logged : State := { svc with sup := { mode := .configure }, log := { fresh := [{ gts := 77, source := 3, code := 4, d := [] }], rd := 3, wr := 1023 } }
def busB : List Byte := [0, 3, 0xFF, 0xFF] ++ toLe 4 10 ++ [0xFF, 0xFF, 0, 0, 0, 0, 0, 0] ++ toLe 4 5 ++ toLe 4 8191 ++ toLe 4 7
def mixing (m : Mode) (f : MixF) : State :=
  { ({} : State) with gts := 100000000000, sup := { mode := m }, mf := f, cfg := { built := true, recs := [(recKey tyRATE 3, some [1, 2])] } }
/-- The TASK record of instance 3 on holm 1, and one whole holm-array state. -/
def tkB (h c f : Byte) : List Byte := [h, c, 1, 0] ++ toLe 4 77 ++ toLe 4 1000 ++ toLe 4 64 ++ toLe 4 64 ++ toLe 4 16 ++ [f] ++ List.replicate 23 0
def holms (x : Inst) (cores : List (Nat × Core)) (u : Sup) : State :=
  { ({} : State) with gts := 100000000000, sup := u
                      ha := { cores := cores, insts := [(3, x)], mem := [(2 ^ 21 + 64, 9), (2 ^ 21 + 100, 5)] }
                      cfg := { built := true, recs := [(recKey tyTASK 3, some (tkB 1 0 0)), (recKey tySLOTUSE 3, some (toLe 4 (2 ^ 31 + 5000)))] }
                      em := { hold := [(5000, 0x12D6873)], words := [(ellKey 200000 5000 2, 99)] } }
def tinst : Inst := { live := true, data := 200000, inEll := 200000, stageEnd := 100000500000 }
def onCore (st sl : Nat) : Core := { st := st, inst := 3, data := 200000, slotDl := sl, stageDl := 100000500000, buf := [(64, some 77)] }
def up : Sup := { mode := .service }
/-- A library task of one u-law channel, one Ell into its frame of 8: its words stand at 64, channel words at 128. -/
def libState (code : Nat) (par : List Nat) (pos wins : Nat) (lost : Bool) : State :=
  { holms { tinst with data := 200000 + pos, inEll := 200000 + pos } [(5, { onCore 2 100000400006 with data := 200000 + pos, buf := [], gap := 1 })] up with
    ha := { cores := [(5, { onCore 2 100000400006 with data := 200000 + pos, buf := [], gap := 1 })], insts := [(3, { tinst with data := 200000 + pos })]
            mem := tsets 0 (tsets 0 [] (2 ^ 21 + 64) (([code * 2 ^ 16, par.getD 0 0, par.getD 1 0, par.getD 2 0, 0xFFFFFF] ++ par.drop 3).map fun v => BitVec.ofNat 32 (v * 256)))
              (2 ^ 21 + 128) ([10, 5000, 1].map fun v => BitVec.ofNat 32 (v * 256))
            lib := { enc := [(96, { wins := wins, out := { first := 0, data := [], lost := lost, fec := false } })] } }
    cfg := { built := true, recs := [(recKey tyTASK 3, some (tkB 1 0 4)), (recKey tySLOTUSE 3, some (toLe 4 (2 ^ 31 + 5000)))] } }
def zeroing (n : Nat) : State := { holms tinst [] up with ha := { stat := [(3, { zero := n })] } }
def delayed : State := { holms tinst [] up with ha := { insts := [(4099, { tinst with data := 199999 })] } }
def kload (l : Load) (n : Nat) (m : Mode) : State :=
  { ({} : State) with gts := 100000000000, sup := { mode := m }, load := l, regs := [(0x20404, n)], staging := [(0, 0x12345678)] }
def held (st : Nat) : Load := { st := st, k := 200002 }
def piece (b : List Byte) : State := kload { st := 1, piece := b } 0 .service
def ended : State := kload { st := 2, bytes := [1, 2], piece := [3] } 0 .service
def devB : List Byte := List.replicate 64 0
def r0 : Recs := tset none [(recKey tyDEVICE 0, some devB)] (recKey tyADMIT 0) (some [])
/-- Whether a verification ends with the rejection `e`. -/
def failsWith (e : Rej) : Except Rej (Recs × List Byte) → Bool
  | .error x => x == e
  | .ok _ => false
def kbits : List Byte := List.replicate 80 0 ++ [0x4B, 0x53, 0x49, 0x47, 0x65, 0, 0xED, 0x0C] ++ List.replicate 3320 0
/-- A load whose `END` digest, ledger and signature block are right. -/
def whole (delta : Bool) : Load :=
  { st := 2, bytes := kbits, parsed := 80
    hdr := { delta := delta, totalLen := 3408, recCount := if delta then 1 else 3, ledger := if delta then 0 else ledgerOf r0, configId := 5 }
    recs := (if delta then [] else [{ ty := tyDEVICE, op := 0, obj := 0, ord := 1, body := devB },
                                     { ty := tyADMIT, op := 0, obj := 0, ord := 2, body := admitBody r0 }]) ++
      [{ ty := tyEND, op := 0, obj := 0, ord := if delta then 1 else 3, body := shake256 (slice kbits 0 16) }] }
def answer (delta : Bool) : Recs × List Byte :=
  match verify ((kload (whole delta) 0 .configure).advance T) (whole delta) true with | .ok x => x | .error _ => ([], [])
def dueLoad (k st : Nat) : State :=
  { kload { st := st, k := k, hdr := { delta := true, configId := 4294967303 }, digest := [7] } 0 .reconfigure with
    cfg := { built := true, next := [(recKey tyTASK 3, some [1])], deltaK := some k } }
def owner : List Byte := List.replicate 1952 0
/-- A bitstream of 6,544 bytes that configures nothing, without its signature block and `END` digest. -/
def flashHead : List Byte :=
  [0x4B, 0x41, 0x45, 0x4E, 1, 0, 0, 0] ++ toLe 4 6544 ++ toLe 4 3 ++ toLe 4 glId ++ [0, 0, 0, 0] ++ toLe 8 0 ++ toLe 8 5 ++ toLe 8 0 ++
    toLe 4 (ledgerOf r0) ++ List.replicate 12 0 ++ owner ++
  (toLe 2 tyDEVICE ++ [0, 0] ++ toLe 4 64 ++ List.replicate 8 0 ++ devB) ++
  (toLe 2 tyADMIT ++ [0, 0] ++ toLe 4 (admitBody r0).length ++ List.replicate 8 0 ++ admitBody r0 ++ List.replicate ((8 - (admitBody r0).length % 8) % 8) 0) ++
  (toLe 2 tyEND ++ [0, 0] ++ toLe 4 64 ++ List.replicate 8 0)
def flashBits : List Byte := flashHead ++ shake256 flashHead ++ [0x4B, 0x53, 0x49, 0x47, 0x65, 0, 0xED, 0x0C] ++ List.replicate 3320 0
def flashing : State := { ({} : State) with gts := 100000000000, sup := { mode := .configure }, fuses := { slots := [(0, shake256 owner)] } }
def ciphering (e : CipherE) (tx : Byte) : State :=
  { ({} : State) with gts := 100000000000, sup := { mode := .service }, ce := e
                      cfg := { built := true, recs := [(recKey tyCIPHER 7, some [tx, 1, 0, 0, 3, 0, 0, 0, 2, 0, 0, 0, 0, 0, 0, 0]),
                        (recKey tyTX 3, some (txB 7)), (recKey tyRX 3, some (rxB 7))] } }
def macsecOp : LaneOp := { op := .macsecTx 1 77 }
def cpy : Copy := { stream := 3, leg := 0, seq := 7, first := 1200000, ts := 9, m := true, gts := 5, payload := List.replicate 18 7, role := .first, len := 30 }
def rxOp : LaneOp := { op := .srtpRx 3 .red 7, copy := some cpy, ctx := 7, slot := 0, index := 131079 }
def lns : Tbl Lane := [(0, { ops := [macsecOp] }), (1, { owner := some 13 }), (2, { ops := [rxOp, macsecOp] })]
def tpkt : TxPkt := { stream := 3, seq := 10, ts := 4, payload := [], conts := [], ell := 5 }
def half : KeySlot := { st := 1, used := 3, limit := 100 }
def okOp : LaneOp := { rxOp with tagOk := true }
def lnsOk : Tbl Lane := [(0, { ops := [macsecOp] }), (1, { owner := some 13 }), (2, { ops := [okOp, macsecOp] })]
def ceCmd (op slot arg : Nat) : CeCmd := { op := op, ctx := 7, slot := slot, kek := 0, arg := arg, lane := 2, fail := 0, blob := List.replicate 280 3 }
def commanded (op slot : Nat) (tx : Byte) (x : CeCtx) (ready : Bool) : State :=
  { ciphering { cmd := some (ceCmd op slot 65537), ctxs := [(7, x)], saves := [(1, { kind := 0, stream := 3, full := true, ctx := { index := some 5 } })] } tx with
    trust := { idReady := ready } }
def ceB (tx : Byte) : List Byte := [tx, 1, 0, 0, 3, 0, 0, 0, 2, 0, 0, 0, 0, 0, 0, 0]
def zRx : List Byte := toLe 4 (2 ^ 31 + 2 ^ 28 + 2 ^ 27 + 2 ^ 26 + 2 ^ 24 + 2 * 2 ^ 22) ++ toLe 2 0 ++ [97, 4] ++ toLe 4 0x1234 ++ toLe 4 0 ++ toLe 2 2 ++ toLe 2 100 ++
    toLe 2 10 ++ toLe 2 20 ++ toLe 2 5004 ++ toLe 2 7 ++ toLe 2 9 ++ toLe 2 0 ++ ip 1 ++ ip 2
def zTx : List Byte := toLe 4 (2 ^ 31 + 2 ^ 27 + 3 * 256 + 2 * 2 ^ 22) ++ toLe 2 4096 ++ [97, 4] ++ toLe 4 0x1234 ++ toLe 4 77 ++ toLe 2 100 ++ toLe 2 10 ++ toLe 2 20 ++
    toLe 2 5004 ++ toLe 2 7 ++ toLe 2 9 ++ [7, 0, 0, 0] ++ ip 1 ++ ip 2
def zB (kind mode : Byte) : List Byte :=
  [kind, mode, 0, 0] ++ (if kind < 2 then [3, 0, 0x7F, 0x7F] else [0xFF, 0xFF, 5, 6]) ++ [64, 0, 0, 0, 0, 0, 0, 0]
def zQ : List Byte := [0, 0, 0, 0, 2, 1, 8, 13, 0, 0, 0, 0, 0, 0, 0, 0, 100, 0, 0, 3, 0, 0, 0, 0, 0, 0, 0, 0, 0, 0, 0, 0]
def packing (kind mode : Byte) (c : CompE) (r : RxStream) : State :=
  { ({} : State) with gts := 100000000000, sup := { mode := .service }, cz := c, se := { rx := [(3, r)] }, queues := [(6, { w := 1 })]
                      cfg := { built := true, recs := [(recKey tyQUEUE 6, some zQ), (recKey tyCZCTX 9, some (zB kind mode)), (recKey tyTX 3, some zTx), (recKey tyRX 3, some zRx)] } }
def zRaw : List Byte := (List.range 100).map fun j => BitVec.ofNat 8 (j * j)
def zPkt : TxPkt := { tpkt with conts := [0, 9999900, 1999900, 2999700, 3999600, 4999500] }
def zUnit (pos : Nat) : CzUnit :=
  { busy := true, ctx := 9, pkt := some zPkt, hdr := [1, 2, 3, 4], raw := zRaw, pos := pos, blocks := if pos = 0 then 0 else 1
    bits := if pos = 0 then [] else storedBits 0 false (zRaw.take 64) }
def zLast : List Bool := storedBits (zUnit 64).bits.length true (zRaw.drop 64)
/-- Queue 5 holds an item of the host for a context. -/
def packItem (kind : Byte) : State :=
  { packing kind 1 {} {} with
    queues := [(5, { w := 1, slots := [(0, { src := 13, data := zRaw })] })]
    cfg := { built := true, recs := [(recKey tyQUEUE 5, some (qB 13 8 0 0 0)), (recKey tyQUEUE 6, some zQ), (recKey tyCZCTX 9, some (zB kind 1)),
                                     (recKey tyTX 3, some zTx), (recKey tyRX 3, some zRx)] } }
def zTaken (kind : Byte) : State := (takeMarked (zB kind 1) ((packItem kind).advance T)).2
def zItem (pushed : Nat) : CzUnit :=
  { busy := true, ctx := 9, item := some { data := zRaw }, hdr := [1, 2, 3, 4], raw := zRaw, pos := 64, blocks := 1, stalled := true
    bits := List.replicate 600 true, pushed := pushed }
def zImage : List Byte × List Byte := buildImage (zB 1 1) false 1 6 zPkt.conts
def zPay : List Byte := zImage.1 ++ packBits (storedBits 0 true zImage.2) ++ toLe 4 (crc32c zImage.2).toNat
def zCopy (p : List Byte) : Copy := { cpy with payload := p }
def zSeen : RxStream := { high := some 7, merge := [(7, { st := 1, legs := 1, leg := 0, seq := 7, first := 1200000 })] }
def contained (u : Sup) : State := { ({} : State) with gts := 100000000000, sup := u }
def badProg (m : Mode) (v : Word) : State :=
  { contained { mode := m, badProg := [(3, 70), (3, 77), (4, 70)] } with
    cfg := { images := [{ holm := 3, lo := 0, hi := 100, flash := true }] }, regs := [(0x20600, v)] }
def frozen : State :=
  { contained { mode := .service, frozen := [13, 33, 17], bist := [(33, 7), (32, 200000)], hostFrozenAt := 99692000005 } with regs := [(0x20600, 0x4D0000)] }
def moded (m : Mode) (u : Sup) : State := { ({} : State) with gts := 100000000000, sup := { u with mode := m }, regs := [(0x20A04, 0x10003)] }
def booting (m : Mode) (u : Sup) : State := { moded m u with fuses := { rollback := 3 } }
def trusted (life : Nat) (m : Mode) (tr : Trust) (fu : Fuses) : State :=
  { ({} : State) with gts := 100000000000, sup := { mode := m, bootErr := 3 }, trust := { tr with fwSec := 40 }
                      fuses := { fu with lifecycle := life, rollback := 3, slots := [(0, [1])] } }
/-- An INVASIVE session whose debug port a firewall window serves. -/
def windowed : State :=
  { trusted 1 .service { level := 2 } {} with
    cfg := { built := true, recs := [(recKey tyFIREWALL 0, some (toLe 4 0x10000 ++ toLe 4 0x20000 ++ [4, 3, 0, 0]))] } }
def xfer : Trust := { xfer := [(0, 7)] }
def cert (kind : Byte) (arg : Nat) : List Byte :=
  [0x54, 0x43, 0x45, 0x52, 1, 0, kind, 1] ++ List.replicate 0x60 0 ++ toLe 8 arg ++ List.replicate 64 7 ++ List.replicate 50 0
def presented (life : Nat) (m : Mode) (kind : Byte) (arg rejects : Nat) : State :=
  trusted life m { busyOp := 2, cert := cert kind arg, certSrc := .spi, rejects := rejects } {}
def ringQ : List Byte := [0, 0, 0, 0, 2, 1, 13, 13, 0, 0, 0, 0, 0, 0, 0, 0, 100, 0, 0, 3, 0, 0, 0, 0, 0, 0, 0, 0, 0, 0, 0, 0]
/-- Ring `r` of 16 descriptors on queue 5, signalling after 2 write-backs or 3 µs. -/
def ringed (r coded : Nat) (x : Ring) : State :=
  { ({} : State) with gts := 100000000000, sup := { mode := .service }, regs := [(ringReg r 8, 2 ^ 31 + coded * 2 ^ 30 + 2 ^ 26 + 5 * 2 ^ 16 + 0x203)]
                      cfg := { built := true, recs := [(recKey tyQUEUE 5, some ringQ)] }, host := { rings := [(r, x)] }
                      queues := [(5, { w := 1, slots := [(0, { src := 3, tclass := 2, data := List.replicate 70 7, gts := 99 })] })] }
def desc (len fl : Nat) : Desc := ⟨0, BitVec.ofNat 32 len, 0, 0, BitVec.ofNat 16 fl⟩
/-- The same ring on a queue that the Cipher Engine fills and empties. -/
def foreign (r : Nat) : State := { ringed r 0 { tail := 1 } with cfg := { built := true, recs := [(recKey tyQUEUE 5, some (qB 7 7 0 0 0))] } }
/-- A library task that codes slot `slot`: 80 Ells a frame, phase 0. -/
def coder (r slot code n : Nat) : State :=
  { ringed r 1 { tail := 1 } with
    cfg := { built := true, recs := [(recKey tyTASK 7, some ([0, 1, 1, 0] ++ toLe 4 0 ++ toLe 4 100 ++ toLe 4 0 ++ toLe 4 0x1000 ++ toLe 4 0x1000 ++ toLe 4 4 ++ List.replicate 4 0)),
      (recKey tySLOTUSE 7, some (toLe 2 slot ++ [0, 0])), (recKey tyLOCAL 0x40, some (toLe 4 (r * 2 ^ 28 + slot)))] }
    ha := { mem := [(memKey 0 0x1000, BitVec.ofNat 32 (code * 2 ^ 24)), (memKey 0 0x1001, 256), (memKey 0 0x1002, 80 * 256), (memKey 0 0x1041, BitVec.ofNat 32 (slot * 256))] }
    host := { rings := [(r, { tail := 1 })], coded := [(slot, (List.range n).map fun i => { first := 200080 + 80 * i, data := [1], lost := false, fec := false })]
              codedOut := if n = 0 then [(slot, { ready := [{ first := 200000, data := [1, 2], lost := false, fec := false, err := false }] })] else [] } }
def place (ell len slot fl : Nat) : Desc := ⟨0, BitVec.ofNat 32 len, BitVec.ofNat 32 ell, BitVec.ofNat 16 slot, BitVec.ofNat 16 fl⟩
def lb (mode chans : Byte) : List Byte := [mode, 3, chans, 0, 0, 0, 0xFF, 0xFF, 0xFF] ++ List.replicate 39 0
/-- Input `p`, with its index `d` samples from the one expected, less 8. -/
def wired (p : Nat) (mode : Byte) (x : LPort) : State :=
  { ({} : State) with gts := 100000000000, sup := { mode := .service }, cfg := { built := true, recs := [(recKey tyLOCAL p, some (lb mode 2))] }
                      host := { ports := [(p, { x with idx := if x.locked then nearSample { ({} : State) with gts := T } (lb mode 2) + x.idx - 8 else 0 })] } }
def recent (r : Nat) (l : Bool) (d : Nat) : LPort := { locked := l, run := r, lastFrame := 99999999000, fifo := [[1, 2]], idx := d }
def sam (v : BitVec 24) (b : Bool) : LocalSample := { v := v, vbit := false, parityBad := b }
def two : List LocalSample := [sam 5 false, sam 6 true]
def testing (m : Mode) (op : Nat) : State := { ({} : State) with gts := 100000000000, sup := { mode := m }, host := { testOp := op } }

def ws0 : State :=
  { svc with sup := { mode := .off } }
def ws1 : State :=
  (gst (.mpy gi (mop false 0)) gcore)
def ws2 : Instr × Int × Int × Bool :=
  (.mpy gi (mop false 0), 0, 1, false)
def ws3 : State :=
  (gst (.msu gi (mop true 1)) gcore)
def ws4 : Instr × Int × Int × Bool :=
  (.msu gi (mop true 1), 1, -1, false)
def ws5 : State :=
  (gst (.macr gi (mop true 2)) gcore)
def ws6 : Instr × Int × Int × Bool :=
  (.macr gi (mop true 2), 1, 1, true)
def ws7 : State :=
  (gst (.tap gi false 0 0 1 taps) gcore)
def ws8 : State :=
  (gst (.tap2 gi true 0 1 0 1 2 taps) gcore)
def ws9 : State :=
  (gst (.cmac gi false 0 1 0 true 1 taps) gcore)
def ws10 : State :=
  (gst (.add gi (alu 0 7 7 0)) gcore)
def ws11 : Nat × Instr × Int :=
  (0, .add gi (alu 0 7 7 0), 1)
def ws12 : State :=
  (gst (.sub gi (alu 1 3 3 0)) gcore)
def ws13 : Nat × Instr × Int :=
  (1, .sub gi (alu 1 3 3 0), -1)
def ws14 : State :=
  (gst (.sub gi (alu 2 3 3 7)) gcore)
def ws15 : Nat × Instr × Int :=
  (1, .sub gi (alu 2 3 3 7), -1)
def ws16 : State :=
  (gst (.neg gi (alu 0 7 7 0)) gcore)
def ws17 : Nat × Instr × (Int → Int) :=
  (2, .neg gi (alu 0 7 7 0), fun x => -x)
def ws18 : State :=
  (gst (.abs gi (alu 1 3 3 0)) gcore)
def ws19 : Nat × Instr × (Int → Int) :=
  (3, .abs gi (alu 1 3 3 0), fun x => max x (-x))
def ws20 : State :=
  (gst (.cmp gi (alu 1 0 3 0)) gcore)
def ws21 : State :=
  (gst (.and gi (alu 0 7 7 0)) gcore)
def ws22 : Nat × Instr × (BitVec 24 → BitVec 24 → BitVec 24) :=
  (5, .and gi (alu 0 7 7 0), fun x y => x &&& y)
def ws23 : State :=
  (gst (.shl gi (alu 0 7 7 0)) gcore)
def ws24 : Nat × Instr × Int :=
  (8, .shl gi (alu 0 7 7 0), 1)
def ws25 : State :=
  (gst (.shr gi (alu 1 3 3 7)) gcore)
def ws26 : Nat × Instr × Int :=
  (9, .shr gi (alu 1 3 3 7), -1)
def ws27 : State :=
  (gst (.mva gi (alu 3 7 3 0)) gcore)
def ws28 : State :=
  (gst (.norm gi (alu 3 7 3 0)) gcore)
def ws29 : State :=
  (gst (.divs gi (alu 2 3 0 7)) gcore)
def ws30 : State :=
  (gst (.clr gi (alu 0 7 0 0)) gcore)
def ws31 : State :=
  (gst (.ld gi (memop 0x0B 7 0)) gcore)
def ws32 : Access :=
  { addr := 0x3FF000 }
def ws33 : State :=
  (gst (.ld gi (memop 0 0 0)) gcore)
def ws34 : Access :=
  { addr := 0x104 }
def ws35 : State :=
  (gst (.ldLd gi pair) gcore)
def ws36 : State :=
  (gst (.st gi (memop 0x0B 0 0)) gcore)
def ws37 : State :=
  (gst (.stMva gi (memop 0x0B 0 0)) gcore)
def ws38 : State :=
  (gst (.ldSt gi pair) gcore)
def ws39 : State :=
  (gst (.mov gi 8 11) gcore)
def ws40 : State :=
  (gst (.mov gi 0x39 0) gcore)
def ws41 : State :=
  (gst (.movTagToD gi 7 11) gcore)
def ws42 : State :=
  (gst (.movTagFromD gi 11 7) gcore)
def ws43 : State :=
  (gst (.moviD gi 7 0xFFFFFF) gcore)
def ws44 : State :=
  (gst (.moviAddress gi 3 7 0x3FFFFF) gcore)
def ws45 : State :=
  (gst (.nop gi) gcore)
def ws46 : State :=
  (gst (.br gi 0x1FFFF) gcore)
def ws47 : State :=
  (gst (.brc gi 0 9) gcore)
def ws48 : State :=
  (gst (.call gi 9) { gcore with ret := [1, 2, 3, 4, 5, 6, 7] })
def ws49 : State :=
  (gst (.call gi 9) { gcore with ret := [1, 2, 3, 4, 5, 6, 7, 8] })
def ws50 : State :=
  (gst (.ret gi) { gcore with ret := [1] })
def ws51 : State :=
  (gst (.ret gi) gcore)
def ws52 : State :=
  (gst (.repi gi 0) gcore)
def ws53 : State :=
  (gst (.repd gi 0) counting)
def ws54 : State :=
  (gst (.repd gi 0) gcore)
def ws55 : State :=
  (gst (.repd gi 0) { gcore with loops := [{ lc := 3, start := 90, endAt := 101 }] })
def ws56 : State :=
  (gst (.loopi gi 5 2) nested)
def ws57 : State :=
  (gst (.loopi gi 5 2) { nested with loops := { lc := 1, start := 95, endAt := 105 } :: nested.loops })
def ws58 : State :=
  (gst (.loopd gi 5 0) { nested with regs := counting.regs })
def ws59 : State :=
  (gst (.loopd gi 5 0) nested)
def ws60 : State :=
  (gst (.endLoop gi) looping)
def ws61 : LoopF :=
  { lc := 3, start := 90, endAt := 100 }
def ws62 : State :=
  (gst (.loopd gi 5 0) { nested with loops := { lc := 1, start := 95, endAt := 105 } :: nested.loops })
def ws63 : State :=
  (gst (.waite gi 0 1) gcore)
def ws64 : State :=
  (gst (.waite gi 0 0) gcore)
def ws65 : State :=
  (gst (.yield gi) gcore)
def ws66 : State :=
  (gstw 0 gcore)
def ws67 : State :=
  (gstw 0 { gcore with ds := 1 })
def ws68 : State :=
  (gstw 0 { gcore with halted := true })
def ws69 : State :=
  (gstw 0 { gcore with wait := some (0, 1) })
def ws70 : State :=
  (gstw 0xFFFFFFFF gcore)
def ws71 : State :=
  (gst (.add gi (alu 0 0 0 0)) looping)
def ws72 : State :=
  (gst (.nop gi) looping)
def ws73 : State :=
  (gst (.br gi 0) looping)
def ws74 : State :=
  (gst (.endLoop gi) gcore)
def ws75 : State :=
  (gst (.add gi (alu 3 0 0 0)) gcore)
def ws76 : State :=
  (gst (.add gi (alu 0 0 0 0)) { gcore with regs := { gregs with d := Vector.replicate 8 { v := 5, tag := 0, res := 0 } } })
def ws77 : State :=
  (timed 1 { pstate := 9 } { st := 2 })
def ws78 : State :=
  (timed 1 { pstate := 9 } { st := 2, ref := some 0 })
def ws79 : State :=
  (timed 1 { pstate := 9, syncSeq := some 7 } { st := 2 })
def ws80 : State :=
  (timed 2 { pstate := 9 } { st := 2 })
def ws81 : State :=
  (timed 1 { pstate := 4 } {})
def ws82 : State :=
  (timed 2 {} {})
def ws83 : State :=
  (timed 1 { pstate := 9 } {})
def ws84 : State :=
  (timed 1 { txFrom := 100000000000 } {})
def ws85 : State :=
  (timed 1 {} { st := 3 })
def ws86 : State :=
  (timed 1 { stepFrom := 10 } { ref := some 0 })
def ws87 : State :=
  { timed 1 { pstate := 9, slaveFrom := 10, lastSync := 100000000000 } { st := 2, ref := some 1 } with regs := [(0x20814, 0xA00)] }
def ws88 : State :=
  { timed 1 {} { tod := some 25 } with regs := [(0x30000, 0x100)] }
def ws89 : State :=
  (timed 1 {} { ppsOk := true })
def ws90 : State :=
  (timed 1 {} { ref10Ok := true })
def ws91 : State :=
  (filed { link := true } {})
def ws92 : State :=
  { filed { link := true } {} with regs := [(0x40000, 0x43), (0x4003C, 0x007F7F7F)] }
def ws93 : State :=
  (filed { link := true } { w := 3, rd := 0 })
def ws94 : State :=
  { filed {} {} with sup := { mode := .off } }
def ws95 : State :=
  { filed {} {} with sup := { mode := .standby }, regs := [(0x4004C, 0x80000000)] }
def ws96 : State :=
  { ported 3 { link := true } with regs := [(0x40000, 3), (0x40034, 0)] }
def ws97 : State :=
  (ported 3 { link := true })
def ws98 : State :=
  (ported 3 { link := true, hold := [(7, 1000000000000)], pausedFrom := [(7, 7)] })
def ws99 : State :=
  (ported 3 { link := true, hold := [(0, 1000000000000)], pausedFrom := [(0, 7)] })
def ws100 : State :=
  { svc with sup := { mode := .service, moved := [(8, 77)] } }
def ws101 : State :=
  (ported 3 {})
def ws102 : State :=
  (ported 2 { link := true })
def ws103 : State :=
  (ported 0 {})
def ws104 : State :=
  (ported 2 {})
def ws105 : State :=
  (ported 3 { txq := [(2, [txf 2])] })
def ws106 : State :=
  (ported 3 { gclNext := [(5, [1, 2])] })
def ws107 : State :=
  (ported 3 { gclNext := [(1000000000000, [])] })
def ws108 : State :=
  (ported 3 { gclNext := [(5, [1, 2]), (1000000000000, [])] })
def ws109 : State :=
  { ported 3 { link := true, eeePartner := true } with sup := { mode := .recovery } }
def ws110 : State :=
  (queued host1 { push := some { src := 9 }, pushFrom := 100000000000 })
def ws111 : State :=
  (queued host1 {})
def ws112 : State :=
  (queued lossy { w := 4, rd := 1, mkp := 0, mark := true })
def ws113 : State :=
  (queued lossy7 { w := 4, rd := 1, mkp := 0, mark := true })
def ws114 : State :=
  (queued host1 { w := 4, rd := 1, mkp := 0, mark := true })
def ws115 : State :=
  (queued host1 { w := 4 })
def ws116 : State :=
  (queued lossy { w := 4 })
def ws117 : Item :=
  { src := 9 }
def ws118 : State :=
  (queued host1 { pushDead := true })
def ws119 : State :=
  (queued host1 { pushDead := true, backlog := [{ src := 9 }] })
def ws120 : State :=
  (queued host1 { pushWait := some { src := 9 } })
def ws121 : State :=
  (queued host1 { pushWait := some { src := 9 }, waitWhole := true })
def ws122 : State :=
  (queued lossy { w := 4, rd := 1, mkp := 0, mark := true, pushWait := some { src := 9 } })
def ws123 : State :=
  (queued host1 { w := 4, rd := 1, mkp := 0, mark := true, pushWait := some { src := 9 } })
def ws124 : State :=
  (queued host1 { w := 1 })
def ws125 : State :=
  (queued host1 { w := 4, popBusy := true })
def ws126 : State :=
  (queued host1 { w := 1, popStall := true, waitFrom := 100000000000 })
def ws127 : State :=
  (queued host1 { popStall := true, waitFrom := 100000000000 })
def ws128 : State :=
  (queued host1 { popStall := true })
def ws129 : State :=
  (queued host1 { push := some { src := 9 } })
def ws130 : State :=
  (queued held1 { push := some { src := 9 }, coming := [(T, [3])] })
def ws131 : State :=
  (queued held1 { push := some { src := 9 }, coming := [(T + 1, [3])] })
def ws132 : State :=
  (queued host1 { w := 4, flushPend := 7 })
def ws133 : State :=
  (queued host1 { popBusy := true, w := 1 })
def ws134 : State :=
  (queued held1 { w := 4, flushPend := 7, popBusy := true })
def ws135 : State :=
  (queued host1 { w := 4, mark := true })
def ws136 : State :=
  (queued host1 { w := 4, markLost := true })
def ws137 : State :=
  (queued media {})
def ws138 : State :=
  { filed { link := true } {} with cfg := (queued host1 {}).cfg, queues := [(5, { w := 4, pfcOn := true })], regs := [(0x40034, 0x00FF0000), (0x4000C, 0)] }
def ws139 : State :=
  (ported 0x43 { link := true })
def ws140 : State :=
  (streaming 0xFFFF (List.replicate 60 0) { high := none })
def ws141 : State :=
  (popped (streaming 0xFFFF (List.replicate 60 0) { high := none }))
def ws142 : State :=
  (streaming 0xFFFF bad { high := none })
def ws143 : State :=
  (popped (streaming 0xFFFF bad { high := none }))
def ws144 : State :=
  (streamingErr pkt)
def ws145 : State :=
  (popped (streamingErr pkt))
def ws146 : State :=
  (streaming 0xFFFF (udp (rtp 7 0)) { high := none })
def ws147 : State :=
  (popped (streaming 0xFFFF (udp (rtp 7 0)) { high := none }))
def ws148 : State :=
  (streaming 0xFFFF pkt { high := none })
def ws149 : State :=
  (popped (streaming 0xFFFF pkt { high := none }))
def ws150 : State :=
  (streaming 1 sealed1 { high := none })
def ws151 : State :=
  (popped (streaming 1 sealed1 { high := none }))
def ws152 : State :=
  (popped relaying)
def ws153 : Nat × List Byte :=
  (7, direct1)
def ws154 : State :=
  (streaming 0xFFFF pkt dup)
def ws155 : State :=
  (popped (streaming 0xFFFF pkt dup))
def ws156 : State :=
  (tagged true 0)
def ws157 : State :=
  (tagged false 0)
def ws158 : State :=
  (streaming 1 [] { redLostAt := 4, blueLostAt := 5 })
def ws159 : State :=
  (streaming 1 [] { redSeen := 99996000006, blueSeen := 100000000000 })
def ws160 : State :=
  (streaming 1 [] { blueSeen := 99996000006, redSeen := 100000000000 })
def ws161 : State :=
  (streaming 1 [] { adaptEll := 200001 })
def ws162 : State :=
  (streaming 1 [] { ofs := 7, lateN := 1 })
def ws163 : State :=
  { streaming 1 [] { ofs := 7 } with sup := { mode := .service, netLost := 3 } }
def ws164 : State :=
  (streaming 1 [] { ofs := 7 })
def ws165 : State :=
  { streaming 1 [] { ofs := 7, hmin := some 1000000 } with regs := [(0x80000, 0x20001)] }
def ws166 : State :=
  (streaming 1 [] { ofs := 7, hmin := some 1000000 })
def ws167 : State :=
  { sender 0xFFFF [] [] with sup := {} }
def ws168 : State :=
  { sender 0xFFFF [] [] with se := {} }
def ws169 : State :=
  (sender 0xFFFF [] [])
def ws170 : State :=
  (sender 0 [] [(0, { s0 := { st := 2, limit := 99 } })])
def ws171 : State :=
  (sender 0 [] [])
def ws172 : State :=
  { svc with sup := {} }
def ws173 : State :=
  (playing 2 { st := 2, seq := 9, first := 1199946 } [])
def ws174 : State :=
  (playing 2 { st := 3, seq := 9, first := 1199946 } [])
def ws175 : State :=
  { svc with se := { playEll := 200001 } }
def ws176 : State :=
  (playing 2 { st := 2, seq := 9, first := 1199940 } ring)
def ws177 : State :=
  (playing 4 {} [])
def ws178 : EllReport :=
  {}
def ws179 : EllReport :=
  { temps := [3, 240, 7] }
def ws180 : State :=
  { svc with sup := { mode := .configure } }
def ws181 : Ev :=
  { gts := 77, source := 3, code := 4, d := [] }
def ws182 : State :=
  { svc with sup := { mode := .configure, reqs := [{ rank := 63, goTo := .test, cause := 63 }] } }
def ws183 : ModeReq :=
  { rank := 63, goTo := .test, cause := 63 }
def ws184 : State :=
  { svc with sup := { mode := .boot, reqs := [{ rank := 90, goTo := .configure, cause := 90 }] } }
def ws185 : ModeReq :=
  { rank := 90, goTo := .configure, cause := 90 }
def ws186 : State :=
  { svc with cfg := { built := true, recs := [(recKey tyBUS 4095, some busB)] }, tb := { everLocked := true, st := 2 }, mf := { xp := [(10, { g := 3000000, g1 := 3000000 })] } }
def ws187 : State :=
  (mixing .boot {})
def ws188 : State :=
  (mixing .service {})
def ws189 : State :=
  (mixing .service { pend := some (false, 3) })
def ws190 : State :=
  (mixing .service { pend := some (true, 3) })
def ws191 : State :=
  (mixing .service { active := 1 })
def ws192 : State :=
  (holms tinst [] up)
def ws193 : State :=
  (holms tinst [(5, { st := 1 })] up)
def ws194 : State :=
  { holms tinst [] up with cfg := { built := true, recs := [(recKey tyTASK 3, some (tkB 1 0 1))] } }
def ws195 : State :=
  (holms { tinst with passed := true, next := some (1, 9) } [] up)
def ws196 : State :=
  (holms { tinst with passed := true, next := some (2, 14) } [] up)
def ws197 : State :=
  (holms tinst [(5, onCore 1 100000000006)] up)
def ws198 : State :=
  (holms tinst [(5, onCore 1 100000000005)] up)
def ws199 : State :=
  { holms tinst [] up with ha := {} }
def ws200 : State :=
  (holms tinst [(5, { onCore 1 100000000006 with ecc := some 0x200000 })] up)
def ws201 : State :=
  (holms tinst [(5, { onCore 1 100000000006 with ecc := some 65 })] up)
def ws202 : CommitPass :=
  ⟨true, T⟩
def ws203 : State :=
  (holms tinst [(5, onCore 2 100000400006)] up)
def ws204 : State :=
  (libState 0x10 [1, 8, 0] 0 1 true)
def ws205 : State :=
  (libState 0x10 [1, 8, 0] 7 2 false)
def ws206 : State :=
  (libState 1 [10, 11, 5000, 0, 0, 0, 0, 0, 0, 0, 1] 0 1 true)
def ws207 : State :=
  (holms tinst [(5, onCore 2 100000000006)] up)
def ws208 : State :=
  (zeroing 0)
def ws209 : State :=
  (zeroing 200001)
def ws210 : State :=
  (kload (held 0) 1 .service)
def ws211 : State :=
  (kload (held 1) 1 .service)
def ws212 : State :=
  (kload (held 7) 1 .service)
def ws213 : State :=
  (kload (held 7) 1048576 .service)
def ws214 : State :=
  (kload (held 7) 0 .service)
def ws215 : State :=
  (kload (held 7) 1048577 .service)
def ws216 : State :=
  (kload (held 3) 0 .service)
def ws217 : State :=
  (kload (held 6) 0 .service)
def ws218 : State :=
  (kload (held 2) 0 .service)
def ws219 : State :=
  (kload (held 4) 0 .service)
def ws220 : State :=
  (kload (held 5) 0 .service)
def ws221 : State :=
  (kload { held 4 with k := 200003 } 0 .reconfigure)
def ws222 : State :=
  (piece (List.replicate 2016 0))
def ws223 : Load :=
  { st := 1, piece := List.replicate 2016 0, bytes := List.replicate 2016 0 }
def ws224 : State :=
  (piece [3])
def ws225 : Load :=
  { st := 1, piece := [3], bytes := [3] }
def ws226 : State :=
  (kload (whole true) 0 .configure)
def ws227 : State :=
  (kload (whole false) 0 .configure)
def ws228 : State :=
  (dueLoad 200003 4)
def ws229 : State :=
  (dueLoad 200002 4)
def ws230 : State :=
  (dueLoad 199999 5)
def ws231 : State :=
  (dueLoad 199998 5)
def ws232 : State :=
  (ciphering {} 0)
def ws233 : State :=
  (ciphering { lanes := [(2, { owner := some 13 })] } 0)
def ws234 : State :=
  (ciphering { lanes := [(2, { owner := some 14, since := 100000000005 })] } 0)
def ws235 : State :=
  (ciphering { lanes := [(1, { owner := some 13 })] } 0)
def ws236 : State :=
  (ciphering { lanes := [(1, { owner := some 13, since := 99984000004 })] } 0)
def ws237 : State :=
  (ciphering { lanes := [(1, { owner := some 13, since := 99984000005 })] } 0)
def ws238 : State :=
  (ciphering { lanes := lns } 0)
def ws239 : State :=
  { ciphering { lanes := lns, ctxs := [(7, { s0 := half })] } 1 with se := { txWait := [tpkt] } }
def ws240 : State :=
  (ciphering { lanes := lns, inq := [cpy], ctxs := [(7, { index := some 133127, s0 := half })] } 0)
def ws241 : State :=
  (ciphering { lanes := lns, inq := [cpy], ctxs := [(7, { s0 := half })] } 0)
def ws242 : State :=
  (ciphering { lanes := lns, inq := [cpy] } 0)
def ws243 : State :=
  (ciphering { lanes := lnsOk } 0)
def ws244 : State :=
  (ciphering { lanes := [(2, { ops := [{ rxOp with op := .srtpTx 3, copy := none }] })] } 0)
def ws245 : State :=
  (commanded 1 0 0 {} true)
def ws246 : Nat × Instr :=
  (1, .keyload T .host 1 2 7)
def ws247 : State :=
  (ciphering { lanes := [(3, { owner := some 13 })] } 0)
def ws248 : Nat × Instr :=
  (7, .importCtx T .host 1 2 7)
def ws249 : State :=
  (commanded 2 0 0 {} true)
def ws250 : State :=
  (commanded 1 0 0 { s0 := half } true)
def ws251 : State :=
  (commanded 1 1 0 {} true)
def ws252 : State :=
  (commanded 2 0 0 { s1 := half } true)
def ws253 : State :=
  (commanded 3 0 1 { s0 := half } true)
def ws254 : State :=
  (commanded 3 1 1 { s0 := half } true)
def ws255 : State :=
  (commanded 4 0 0 {} true)
def ws256 : State :=
  (commanded 5 0 0 {} true)
def ws257 : State :=
  (commanded 5 0 1 {} true)
def ws258 : State :=
  (commanded 6 0 0 {} true)
def ws259 : State :=
  (commanded 6 0 0 {} false)
def ws260 : State :=
  (commanded 7 0 0 {} true)
def ws261 : State :=
  (packing 1 1 { txq := [zPkt] } {})
def ws262 : State :=
  (packing 1 1 { units := [(0, zUnit 0), (1, zUnit 0)] } {})
def ws263 : State :=
  (packItem 2)
def ws264 : Item :=
  { src := 13, data := zRaw }
def ws265 : State :=
  (zTaken 2)
def ws266 : State :=
  (packItem 3)
def ws267 : State :=
  (zTaken 3)
def ws268 : State :=
  (packing 1 1 { units := [(1, zUnit 64)] } {})
def ws269 : State :=
  (packing 1 1 {} {})
def ws270 : State :=
  (packing 2 1 { units := [(1, { zUnit 0 with pkt := none })] } {})
def ws271 : State :=
  (packing 2 1 { units := [(1, zItem 0)] } {})
def ws272 : Queue :=
  { w := 1 }
def ws273 : State :=
  (packing 1 1 { units := [(1, { zUnit 0 with pos := 100, blocks := 2 })] } {})
def ws274 : State :=
  (packing 0 0 { inq := [zCopy zPay] } {})
def ws275 : State :=
  (packing 0 0 { inq := [zCopy [1, 2, 3, 4]] } {})
def ws276 : State :=
  (packing 0 0 { units := [(2, { busy := true, ctx := 9, copy := some (zCopy [1, 2, 3, 4]) })] } zSeen)
def ws277 : State :=
  (packing 0 0 { units := [(2, { busy := true, ctx := 9, copy := some (zCopy zPay) })] } zSeen)
def ws278 : State :=
  (contained up)
def ws279 : State :=
  (badProg .service 0)
def ws280 : State :=
  (badProg .service 0x8000)
def ws281 : State :=
  (holms tinst [(5, { st := 1, inst := 3 })] up)
def ws282 : State :=
  (contained { mode := .service, hsLog := [(200000, 9, 4)] })
def ws283 : State :=
  (moded .service {})
def ws284 : Instr × Nat × Nat × Mode :=
  (.off T .host 3, 2, 61, .off)
def ws285 : State :=
  (moded .configure {})
def ws286 : Instr × Nat × Nat × Mode :=
  (.test T .host 0x5A, 3, 63, .test)
def ws287 : State :=
  (moded .boot {})
def ws288 : Instr × Nat × Nat × Mode :=
  (.standby T .supervisor 0x5A, 1, 62, .standby)
def ws289 : State :=
  (moded .reconfigure {})
def ws290 : Instr × Nat × Nat × Mode :=
  (.off T .host 0x5A, 2, 61, .off)
def ws291 : State :=
  (moded .standby {})
def ws292 : State :=
  (moded .lockdown {})
def ws293 : Instr × Nat × Nat × Mode :=
  (.off T .supervisor 0x5A, 2, 61, .off)
def ws294 : State :=
  { moded .calibrate { calFrom := 1 } with gts := 12000000000 }
def ws295 : State :=
  (moded .off { downTo := some .off })
def ws296 : State :=
  (moded .off { tripped := true })
def ws297 : State :=
  { moded .debug {} with trust := { level := 2 } }
def ws298 : State :=
  (booting .service {})
def ws299 : State :=
  (booting .boot {})
def ws300 : State :=
  (booting .boot { fwOk := true })
def ws301 : State :=
  (trusted 0 .service { busyOp := 1 } {})
def ws302 : State :=
  (trusted 0 .service { idErased := true } {})
def ws303 : State :=
  (trusted 0 .service {} {})
def ws304 : State :=
  (trusted 2 .service {} {})
def ws305 : State :=
  (trusted 1 .service {} {})
def ws306 : State :=
  (trusted 1 .service xfer {})
def ws307 : State :=
  (trusted 1 .service {} { keks := [(3, [4])] })
def ws308 : State :=
  (trusted 1 .boot {} {})
def ws309 : State :=
  (trusted 2 .service { rejects := 14 } {})
def ws310 : State :=
  (trusted 2 .service { rejects := 15 } {})
def ws311 : State :=
  (trusted 0 .recovery {} {})
def ws312 : State :=
  (trusted 1 .test {} {})
def ws313 : State :=
  (trusted 3 .service {} {})
def ws314 : State :=
  (trusted 2 .service { level := 1 } {})
def ws315 : State :=
  (trusted 2 .service { level := 1, sessEnd := some 100000000006 } {})
def ws316 : State :=
  (trusted 2 .service { level := 1, sessEnd := some 100000000005 } {})
def ws317 : State :=
  (presented 2 .service 1 60 14)
def ws318 : State :=
  (presented 2 .service 3 4 14)
def ws319 : State :=
  (presented 1 .service 1 60 0)
def ws320 : State :=
  (presented 2 .service 3 4 0)
def ws321 : State :=
  (presented 2 .service 4 0 0)
def ws322 : State :=
  (presented 2 .service 1 86400 0)
def ws323 : State :=
  (presented 1 .service 2 1 0)
def ws324 : State :=
  (presented 2 .service 2 60 0)
def ws325 : State :=
  (presented 2 .service 3 3 0)
def ws326 : State :=
  { presented 2 .service 4 0 0 with fuses := { lifecycle := 2, slots := [(0, [1]), (3, [2])] } }
def ws327 : State :=
  (presented 2 .service 5 40 0)
def ws328 : State :=
  (presented 2 .service 6 0 0)
def ws329 : State :=
  (trusted 2 .service { zeroizing := true } {})
def ws330 : State :=
  (trusted 2 .service { zeroizing := true, pendInv := some 60, kekDown := true } {})
def ws331 : State :=
  (trusted 2 .service { busyOp := 1, idReady := true } {})
def ws332 : State :=
  (trusted 2 .service { busyOp := 7, advTo := 3 } {})
def ws333 : State :=
  (ringed 3 0 { head := 30, tail := 30 })
def ws334 : State :=
  (ringed 3 0 { wb := 1, wbFrom := 99999988007 })
def ws335 : State :=
  (ringed 3 0 { wb := 1, wbFrom := 99999988006 })
def ws336 : State :=
  (ringed 3 0 { wb := 2, wbFrom := 99999999999 })
def ws337 : State :=
  (foreign 7)
def ws338 : State :=
  (ringed 7 0 {})
def ws339 : State :=
  (ringed 7 0 { tail := 1 })
def ws340 : State :=
  (foreign 8)
def ws341 : State :=
  (ringed 8 0 { tail := 1 })
def ws342 : State :=
  (coder 9 5 0x12 4)
def ws343 : State :=
  (coder 9 5 0x12 3)
def ws344 : State :=
  (coder 9 5 0x14 3)
def ws345 : State :=
  (coder 3 4097 0x12 1)
def ws346 : State :=
  (coder 3 4097 0x12 0)
def ws347 : CodedFrame :=
  { first := 200000, data := [1, 2], lost := false, fec := false, err := false }
def ws348 : State :=
  (ringed 4 0 {})
def ws349 : State :=
  (ringed 3 0 {})
def ws350 : State :=
  (wired 9 1 {})
def ws351 : State :=
  (wired 16 1 (recent 62 false 0))
def ws352 : State :=
  (wired 16 1 {})
def ws353 : State :=
  (wired 16 1 (recent 63 false 0))
def ws354 : State :=
  (wired 16 1 (recent 9 true 11))
def ws355 : State :=
  (wired 16 1 (recent 9 true 5))
def ws356 : State :=
  (wired 16 1 (recent 9 true 12))
def ws357 : State :=
  (wired 16 1 (recent 9 true 4))
def ws358 : State :=
  (wired 16 2 (recent 9 true 0))
def ws359 : State :=
  (wired 4 1 (recent 62 false 0))
def ws360 : State :=
  (wired 16 0 {})
def ws361 : State :=
  (wired 16 1 (recent 9 true 8))
def ws362 : State :=
  (wired 16 1 { recent 9 true 8 with lastFrame := 0 })
def ws363 : State :=
  (testing .service 0)
def ws364 : State :=
  (testing .test 3)
def ws365 : State :=
  (testing .test 0)
def ws366 : State :=
  (testing .service 1)
def ws367 : State :=
  (testing .boot 0)

/-! ### The hypotheses of every statement are met -/

theorem witness_registerWriteStoresWritableBits :
    ((allows Master.host 262220 true (svc.advance T) = true) ∧ (ordinary 262220 = true)) ∧ ((allows Master.spi 196612 true
    (svc.advance T) = true) ∧ (ordinary 196612 = true)) ∧ ((allows Master.host 262216 true (svc.advance T) = true) ∧ (262216 =
    baseNP 0 + 72)) := by and_intros <;> decide +kernel

theorem witness_refusedWriteReachesNoBlock :
    ((ordinary 262220 = true) ∧ (allows Master.debug 262220 true (svc.advance T) = false)) := by and_intros <;> decide +kernel

theorem witness_eventWriteClearsAndSignals :
    ((evOf 196868 = some 196868) ∧ (allows Master.host 196868 true (svc.advance T) = true)) ∧ ((evOf 262408 = some 262404) ∧
    (allows Master.spi 262408 true (svc.advance T) = true)) := by and_intros <;> decide +kernel

theorem witness_counterReadLatchesAndClears :
    ((isCounter 262656 = true) ∧ (262656 % 4 = 0) ∧ (262652 = (blkOf 262656).base + 508) ∧ (ctrBuilt (svc.advance T) 262656 =
    true) ∧ (allows Master.host 262656 false (svc.advance T) = true)) := by and_intros <;> decide +kernel

theorem witness_gtsReadLatchesOneGrain :
    (allows Master.spi 196640 false (svc.advance T) = true) ∧ (allows Master.host 196640 false (svc.advance T) = true) := by and_intros <;> decide +kernel

theorem witness_spiTransactionsReadAndWrite :
    ((svc.sup.mode ≠ Mode.off) ∧ (262220 % 4 = 0) ∧ (allows Master.spi 262220 false
    { (svc.advance T) with spiStatus := 0, freeN := (svc.advance T).freeN + 1 } = true) ∧ (isCounter 262220 = false) ∧ (262220
    ≠ 196640)) ∧ (ws0.sup.mode = Mode.off) ∧ ((svc.sup.mode ≠ Mode.off) ∧ (262220 % 4 = 0) ∧ (ordinary 262220 = true) ∧
    (allows Master.spi 262220 true { (svc.advance T) with spiStatus := 0, freeN := (svc.advance T).freeN + 1 } = true) ∧ (4 ≤
    [1#8, 2#8, 3#8, 4#8].length) ∧ ([1#8, 2#8, 3#8, 4#8].length < 8)) ∧ ((svc.sup.mode ≠ Mode.off) ∧ (262220 % 4 = 0) ∧
    (ordinary 262220 = true) ∧ (allows Master.spi 262220 true
    { (svc.advance T) with spiStatus := 0, freeN := (svc.advance T).freeN + 1 } = true) ∧ (4 ≤ [1#8, 2#8, 3#8, 4#8, 5#8, 6#8,
    7#8].length) ∧ ([1#8, 2#8, 3#8, 4#8, 5#8, 6#8, 7#8].length < 8)) ∧ ((svc.sup.mode ≠ Mode.off) ∧ ([1#8, 2#8, 3#8].length <
    4) ∧ (262220 % 4 = 0)) ∧ ((svc.sup.mode ≠ Mode.off) ∧ (262221 % 4 ≠ 0)) := by and_intros <;> decide +kernel

theorem witness_macGroupWritesTheExactSum :
    ((Issues ws2.fst gi Kind.plain ws1) ∧ ((mop false 0#2).dual = false) ∧ ((mop false 0#2).x1 = 0#3) ∧ ((mop false 0#2).y1 =
    0#3) ∧ ((mop false 0#2).ab = 0#2)) ∧ ((Issues ws4.fst gi Kind.plain ws3) ∧ ((mop true 1#2).dual = true) ∧ ((mop true
    1#2).aa = (mop true 1#2).ab)) ∧ ((Issues ws6.fst gi Kind.plain ws5) ∧ ((mop true 2#2).dual = true) ∧ ((mop true 2#2).aa ≠
    (mop true 2#2).ab)) := by and_intros <;> decide +kernel

theorem witness_tapGroupAccumulatesAndLoads :
    ((mayAccess (ws7.advance gi.t) ((ws7.advance gi.t).core ↑gi.core) (pointerAccess ((ws7.advance gi.t).core ↑gi.core).regs
    taps.p0 taps.m0.toNat).addr false = true) ∧ (mayAccess (ws7.advance gi.t) ((ws7.advance gi.t).core ↑gi.core)
    (pointerAccess ((ws7.advance gi.t).core ↑gi.core).regs taps.p1 taps.m1.toNat).addr false = true) ∧ (Issues (Instr.tap gi
    false (0#2) (0#3) (1#3) taps) gi Kind.plain ws7)) ∧ ((mayAccess (ws8.advance gi.t) ((ws8.advance gi.t).core ↑gi.core)
    (pointerAccess ((ws8.advance gi.t).core ↑gi.core).regs taps.p0 taps.m0.toNat).addr false = true) ∧ (mayAccess (ws8.advance
    gi.t) ((ws8.advance gi.t).core ↑gi.core) (pointerAccess ((ws8.advance gi.t).core ↑gi.core).regs taps.p1
    taps.m1.toNat).addr false = true) ∧ (Issues (Instr.tap2 gi true (0#2) (1#2) (0#3) (1#3) (2#3) taps) gi Kind.plain ws8)) := by and_intros <;> decide +kernel

theorem witness_sumsNegationsAndCompares :
    ((aluOk ws11.fst (alu 0#2 7#3 7#3 0#3).form.toNat (alu 0#2 7#3 7#3 0#3).dst.toNat (alu 0#2 7#3 7#3 0#3).s1.toNat (alu 0#2
    7#3 7#3 0#3).s2.toNat (alu 0#2 7#3 7#3 0#3).ci (alu 0#2 7#3 7#3 0#3).cnt.toNat = true ∧ Issues ws11.snd.fst gi Kind.plain
    ws10) ∧ ((alu 0#2 7#3 7#3 0#3).form = 0#2)) ∧ ((aluOk ws13.fst (alu 1#2 3#3 3#3 0#3).form.toNat (alu 1#2 3#3 3#3
    0#3).dst.toNat (alu 1#2 3#3 3#3 0#3).s1.toNat (alu 1#2 3#3 3#3 0#3).s2.toNat (alu 1#2 3#3 3#3 0#3).ci (alu 1#2 3#3 3#3
    0#3).cnt.toNat = true ∧ Issues ws13.snd.fst gi Kind.plain ws12) ∧ ((alu 1#2 3#3 3#3 0#3).form = 1#2)) ∧ ((aluOk ws15.fst
    (alu 2#2 3#3 3#3 7#3).form.toNat (alu 2#2 3#3 3#3 7#3).dst.toNat (alu 2#2 3#3 3#3 7#3).s1.toNat (alu 2#2 3#3 3#3
    7#3).s2.toNat (alu 2#2 3#3 3#3 7#3).ci (alu 2#2 3#3 3#3 7#3).cnt.toNat = true ∧ Issues ws15.snd.fst gi Kind.plain ws14) ∧
    ((alu 2#2 3#3 3#3 7#3).form = 2#2)) ∧ ((aluOk ws17.fst (alu 0#2 7#3 7#3 0#3).form.toNat (alu 0#2 7#3 7#3 0#3).dst.toNat
    (alu 0#2 7#3 7#3 0#3).s1.toNat (alu 0#2 7#3 7#3 0#3).s2.toNat (alu 0#2 7#3 7#3 0#3).ci (alu 0#2 7#3 7#3 0#3).cnt.toNat =
    true ∧ Issues ws17.snd.fst gi Kind.plain ws16) ∧ ((alu 0#2 7#3 7#3 0#3).form = 0#2)) ∧ ((aluOk ws19.fst (alu 1#2 3#3 3#3
    0#3).form.toNat (alu 1#2 3#3 3#3 0#3).dst.toNat (alu 1#2 3#3 3#3 0#3).s1.toNat (alu 1#2 3#3 3#3 0#3).s2.toNat (alu 1#2 3#3
    3#3 0#3).ci (alu 1#2 3#3 3#3 0#3).cnt.toNat = true ∧ Issues ws19.snd.fst gi Kind.plain ws18) ∧ ((alu 1#2 3#3 3#3 0#3).form
    = 1#2)) ∧ (aluOk 4 (alu 1#2 0#3 3#3 0#3).form.toNat (alu 1#2 0#3 3#3 0#3).dst.toNat (alu 1#2 0#3 3#3 0#3).s1.toNat (alu
    1#2 0#3 3#3 0#3).s2.toNat (alu 1#2 0#3 3#3 0#3).ci (alu 1#2 0#3 3#3 0#3).cnt.toNat = true ∧ Issues (Instr.cmp gi (alu 1#2
    0#3 3#3 0#3)) gi Kind.plain ws20) := by and_intros <;> decide +kernel

theorem witness_logicAndShifts :
    (aluOk ws22.fst (alu 0#2 7#3 7#3 0#3).form.toNat (alu 0#2 7#3 7#3 0#3).dst.toNat (alu 0#2 7#3 7#3 0#3).s1.toNat (alu 0#2
    7#3 7#3 0#3).s2.toNat (alu 0#2 7#3 7#3 0#3).ci (alu 0#2 7#3 7#3 0#3).cnt.toNat = true ∧ Issues ws22.snd.fst gi Kind.plain
    ws21) ∧ ((aluOk ws24.fst (alu 0#2 7#3 7#3 0#3).form.toNat (alu 0#2 7#3 7#3 0#3).dst.toNat (alu 0#2 7#3 7#3 0#3).s1.toNat
    (alu 0#2 7#3 7#3 0#3).s2.toNat (alu 0#2 7#3 7#3 0#3).ci (alu 0#2 7#3 7#3 0#3).cnt.toNat = true ∧ Issues ws24.snd.fst gi
    Kind.plain ws23) ∧ ((alu 0#2 7#3 7#3 0#3).form = 0#2)) ∧ ((aluOk ws26.fst (alu 1#2 3#3 3#3 7#3).form.toNat (alu 1#2 3#3
    3#3 7#3).dst.toNat (alu 1#2 3#3 3#3 7#3).s1.toNat (alu 1#2 3#3 3#3 7#3).s2.toNat (alu 1#2 3#3 3#3 7#3).ci (alu 1#2 3#3 3#3
    7#3).cnt.toNat = true ∧ Issues ws26.snd.fst gi Kind.plain ws25) ∧ ((alu 1#2 3#3 3#3 7#3).form = 1#2)) := by and_intros <;> decide +kernel

theorem witness_roundNormDivideClear :
    (aluOk 10 (alu 3#2 7#3 3#3 0#3).form.toNat (alu 3#2 7#3 3#3 0#3).dst.toNat (alu 3#2 7#3 3#3 0#3).s1.toNat (alu 3#2 7#3 3#3
    0#3).s2.toNat (alu 3#2 7#3 3#3 0#3).ci (alu 3#2 7#3 3#3 0#3).cnt.toNat = true ∧ Issues (Instr.mva gi (alu 3#2 7#3 3#3
    0#3)) gi Kind.plain ws27) ∧ (aluOk 11 (alu 3#2 7#3 3#3 0#3).form.toNat (alu 3#2 7#3 3#3 0#3).dst.toNat (alu 3#2 7#3 3#3
    0#3).s1.toNat (alu 3#2 7#3 3#3 0#3).s2.toNat (alu 3#2 7#3 3#3 0#3).ci (alu 3#2 7#3 3#3 0#3).cnt.toNat = true ∧ Issues
    (Instr.norm gi (alu 3#2 7#3 3#3 0#3)) gi Kind.plain ws28) ∧ (aluOk 12 (alu 2#2 3#3 0#3 7#3).form.toNat (alu 2#2 3#3 0#3
    7#3).dst.toNat (alu 2#2 3#3 0#3 7#3).s1.toNat (alu 2#2 3#3 0#3 7#3).s2.toNat (alu 2#2 3#3 0#3 7#3).ci (alu 2#2 3#3 0#3
    7#3).cnt.toNat = true ∧ Issues (Instr.divs gi (alu 2#2 3#3 0#3 7#3)) gi Kind.plain ws29) ∧ (aluOk 13 (alu 0#2 7#3 0#3
    0#3).form.toNat (alu 0#2 7#3 0#3 0#3).dst.toNat (alu 0#2 7#3 0#3 0#3).s1.toNat (alu 0#2 7#3 0#3 0#3).s2.toNat (alu 0#2 7#3
    0#3 0#3).ci (alu 0#2 7#3 0#3 0#3).cnt.toNat = true ∧ Issues (Instr.clr gi (alu 0#2 7#3 0#3 0#3)) gi Kind.plain ws30) := by and_intros <;> decide +kernel

theorem witness_loadsLandAfterTheNextInstruction :
    ((codeOk (memop 11#6 7#3 0#12).reg = true) ∧ (memAccess ((ws31.advance gi.t).core ↑gi.core).regs (memop 11#6 7#3
    0#12).mode (memop 11#6 7#3 0#12).ea = some ws32) ∧ (mayAccess (ws31.advance gi.t) ((ws31.advance gi.t).core ↑gi.core)
    ws32.addr false = true) ∧ (Issues (Instr.ld gi (memop 11#6 7#3 0#12)) gi Kind.plain ws31)) ∧ ((codeOk (memop 0#6 0#3
    0#12).reg = true) ∧ (memAccess ((ws33.advance gi.t).core ↑gi.core).regs (memop 0#6 0#3 0#12).mode (memop 0#6 0#3 0#12).ea
    = some ws34) ∧ (mayAccess (ws33.advance gi.t) ((ws33.advance gi.t).core ↑gi.core) ws34.addr false = true) ∧ (Issues
    (Instr.ld gi (memop 0#6 0#3 0#12)) gi Kind.plain ws33)) ∧ ((codeOk pair.reg0 = true) ∧ (codeOk pair.reg1 = true) ∧
    (mayAccess (ws35.advance gi.t) ((ws35.advance gi.t).core ↑gi.core) (pointerAccess ((ws35.advance gi.t).core ↑gi.core).regs
    pair.ptr0 pair.mode0.toNat).addr false = true) ∧ (mayAccess (ws35.advance gi.t) ((ws35.advance gi.t).core ↑gi.core)
    (pointerAccess ((ws35.advance gi.t).core ↑gi.core).regs pair.ptr1 pair.mode1.toNat).addr false = true) ∧ (Issues
    (Instr.ldLd gi pair) gi Kind.plain ws35)) := by and_intros <;> decide +kernel

theorem witness_storesReachTheCommitBuffer :
    ((memAccess ((ws36.advance gi.t).core ↑gi.core).regs (memop 11#6 0#3 0#12).mode (memop 11#6 0#3 0#12).ea = some ws34) ∧
    (mayAccess (ws36.advance gi.t) ((ws36.advance gi.t).core ↑gi.core) ws34.addr true = true ∧ ((tget none ((ws36.advance
    gi.t).core ↑gi.core).buf ws34.addr).isSome = true ∨ 4 * (List.length ((ws36.advance gi.t).core ↑gi.core).buf + 1) ≤ tkFoot
    (instBody (ws36.advance gi.t) ((ws36.advance gi.t).core ↑gi.core).inst))) ∧ (codeOk (memop 11#6 0#3 0#12).reg = true) ∧
    (Issues (Instr.st gi (memop 11#6 0#3 0#12)) gi Kind.plain ws36)) ∧ ((memAccess ((ws37.advance gi.t).core ↑gi.core).regs
    (memop 11#6 0#3 0#12).mode (memop 11#6 0#3 0#12).ea = some ws34) ∧ (mayAccess (ws37.advance gi.t) ((ws37.advance
    gi.t).core ↑gi.core) ws34.addr true = true ∧ ((tget none ((ws37.advance gi.t).core ↑gi.core).buf ws34.addr).isSome = true
    ∨ 4 * (List.length ((ws37.advance gi.t).core ↑gi.core).buf + 1) ≤ tkFoot (instBody (ws37.advance gi.t) ((ws37.advance
    gi.t).core ↑gi.core).inst))) ∧ ((memop 11#6 0#3 0#12).reg.toNat / 4 = 2) ∧ (Issues (Instr.stMva gi (memop 11#6 0#3 0#12))
    gi Kind.plain ws37)) ∧ ((codeOk pair.reg0 = true) ∧ (codeOk pair.reg1 = true) ∧ (mayAccess (ws38.advance gi.t)
    ((ws38.advance gi.t).core ↑gi.core) (pointerAccess ((ws38.advance gi.t).core ↑gi.core).regs pair.ptr0
    pair.mode0.toNat).addr false = true) ∧ (mayAccess (ws38.advance gi.t) ((ws38.advance gi.t).core ↑gi.core) (pointerAccess
    ((ws38.advance gi.t).core ↑gi.core).regs pair.ptr1 pair.mode1.toNat).addr true = true ∧ ((tget none ((ws38.advance
    gi.t).core ↑gi.core).buf (pointerAccess ((ws38.advance gi.t).core ↑gi.core).regs pair.ptr1 pair.mode1.toNat).addr).isSome
    = true ∨ 4 * (List.length ((ws38.advance gi.t).core ↑gi.core).buf + 1) ≤ tkFoot (instBody (ws38.advance gi.t)
    ((ws38.advance gi.t).core ↑gi.core).inst))) ∧ (Issues (Instr.ldSt gi pair) gi Kind.plain ws38)) := by and_intros <;> decide +kernel

theorem witness_movesCopyValueAndTag :
    ((codeOk 8#6 = true) ∧ (codeOk 11#6 = true) ∧ (Issues (Instr.mov gi 8#6 11#6) gi Kind.plain ws39) ∧ (8 / 4 = 2 ∧ 11 / 4 =
    2)) ∧ ((codeOk 57#6 = true) ∧ (codeOk 0#6 = true) ∧ (Issues (Instr.mov gi 57#6 0#6) gi Kind.plain ws40) ∧ (¬(57 / 4 = 2 ∧
    0 / 4 = 2))) ∧ ((7 < 8) ∧ (11 < 12) ∧ (Issues (Instr.movTagToD gi 7#6 11#6) gi Kind.plain ws41)) ∧ ((11 < 12) ∧ (7 < 8) ∧
    (Issues (Instr.movTagFromD gi 11#6 7#6) gi Kind.plain ws42)) ∧ (Issues (Instr.moviD gi 7#3 16777215#24) gi Kind.plain
    ws43) ∧ (Issues (Instr.moviAddress gi 3#2 7#3 4194303#22) gi Kind.plain ws44) := by and_intros <;> decide +kernel

theorem witness_branchesOpenTwoDelaySlots :
    (Issues (Instr.nop gi) gi Kind.control ws45) ∧ (Issues (Instr.br gi 131071#17) gi Kind.transfer ws46) ∧ (Issues (Instr.brc
    gi 0#3 9#17) gi Kind.transfer ws47) ∧ ((Issues (Instr.call gi 9#17) gi Kind.transfer ws48) ∧ (((ws48.advance gi.t).core
    ↑gi.core).ret.length < 8)) ∧ ((Issues (Instr.call gi 9#17) gi Kind.transfer ws49) ∧ (8 ≤ ((ws49.advance gi.t).core
    ↑gi.core).ret.length)) ∧ ((Issues (Instr.ret gi) gi Kind.transfer ws50) ∧ (((ws50.advance gi.t).core ↑gi.core).ret =
    [1#17])) ∧ ((Issues (Instr.ret gi) gi Kind.transfer ws51) ∧ (((ws51.advance gi.t).core ↑gi.core).ret = [])) := by and_intros <;> decide +kernel

theorem witness_repeatsAndLoopsCountDown :
    (Issues (Instr.repi gi 0#12) gi Kind.control ws52) ∧ ((Issues (Instr.repd gi 0#3) gi Kind.control ws53) ∧ ((((ws53.advance
    gi.t).core ↑gi.core).regs.dr 0#3).v.toNat % 4096 ≠ 0)) ∧ ((Issues (Instr.repd gi 0#3) gi Kind.control ws54) ∧
    ((((ws54.advance gi.t).core ↑gi.core).regs.dr 0#3).v.toNat % 4096 = 0) ∧ (¬(wordBad (BitVec.toNat (tget (0#32)
    ws54.ha.prog (tkHolm (instBody ws54 ((ws54.advance gi.t).core ↑gi.core).inst) * 131072 + (((ws54.advance gi.t).core
    ↑gi.core).regs.pc + 1#17).toNat))) = true ∨ BitVec.toNat (tget (0#32) ws54.ha.prog (tkHolm (instBody ws54 ((ws54.advance
    gi.t).core ↑gi.core).inst) * 131072 + (((ws54.advance gi.t).core ↑gi.core).regs.pc + 1#17).toNat)) / 2 ^ 28 = 7 ∨
    Option.any (fun f => f.endAt == ((ws54.advance gi.t).core ↑gi.core).regs.pc + 1#17) ((ws54.advance gi.t).core
    ↑gi.core).loops.head? = true))) ∧ ((Issues (Instr.repd gi 0#3) gi Kind.control ws55) ∧ ((((ws55.advance gi.t).core
    ↑gi.core).regs.dr 0#3).v.toNat % 4096 = 0) ∧ (wordBad (BitVec.toNat (tget (0#32) ws55.ha.prog (tkHolm (instBody ws55
    ((ws55.advance gi.t).core ↑gi.core).inst) * 131072 + (((ws55.advance gi.t).core ↑gi.core).regs.pc + 1#17).toNat))) = true
    ∨ BitVec.toNat (tget (0#32) ws55.ha.prog (tkHolm (instBody ws55 ((ws55.advance gi.t).core ↑gi.core).inst) * 131072 +
    (((ws55.advance gi.t).core ↑gi.core).regs.pc + 1#17).toNat)) / 2 ^ 28 = 7 ∨ Option.any (fun f => f.endAt == ((ws55.advance
    gi.t).core ↑gi.core).regs.pc + 1#17) ((ws55.advance gi.t).core ↑gi.core).loops.head? = true)) ∧ ((Issues (Instr.loopi gi
    5#12 2#12) gi Kind.control ws56) ∧ (((ws56.advance gi.t).core ↑gi.core).loops.length < 3)) ∧ ((Issues (Instr.loopi gi 5#12
    2#12) gi Kind.control ws57) ∧ (3 ≤ ((ws57.advance gi.t).core ↑gi.core).loops.length)) ∧ ((Issues (Instr.loopd gi 5#12 0#3)
    gi Kind.control ws58) ∧ (((ws58.advance gi.t).core ↑gi.core).loops.length < 3) ∧ ((((ws58.advance gi.t).core
    ↑gi.core).regs.dr 0#3).v.toNat % 65536 ≠ 0)) ∧ ((Issues (Instr.loopd gi 5#12 0#3) gi Kind.control ws59) ∧ (((ws59.advance
    gi.t).core ↑gi.core).loops.length < 3) ∧ ((((ws59.advance gi.t).core ↑gi.core).regs.dr 0#3).v.toNat % 65536 = 0)) ∧
    ((Issues (Instr.endLoop gi) gi Kind.loopEnd ws60) ∧ (((ws60.advance gi.t).core ↑gi.core).loops = [ws61])) ∧ ((Issues
    (Instr.loopd gi 5#12 0#3) gi Kind.control ws62) ∧ (3 ≤ ((ws62.advance gi.t).core ↑gi.core).loops.length)) := by and_intros <;> decide +kernel

theorem witness_waitsAndYields :
    ((1#4 ≠ 0#4) ∧ (Issues (Instr.waite gi 0#3 1#4) gi Kind.control ws63)) ∧ (Issues (Instr.waite gi 0#3 0#4) gi Kind.control
    ws64) ∧ (Issues (Instr.yield gi) gi Kind.control ws65) := by and_intros <;> decide +kernel

theorem witness_debugEventsReachARunningCore :
    ((((ws66.advance T).core 0).st = 1) ∧ (gated (ws66.advance T) (0 / 5) = false) ∧ (invasive (ws66.advance T) = true) ∧
    (((ws66.advance T).core 0).halted = false) ∧ (((ws66.advance T).core 0).traceDue = false) ∧ (eventPoint ((ws66.advance
    T).core 0) = true ∧ Option.any (fun f => f.endAt == ((ws66.advance T).core 0).regs.pc) ((ws66.advance T).core
    0).loops.head? = false)) ∧ ((((ws67.advance T).core 0).st = 1) ∧ (gated (ws67.advance T) (0 / 5) = false) ∧ (invasive
    (ws67.advance T) = true) ∧ (((ws67.advance T).core 0).halted = false) ∧ (((ws67.advance T).core 0).traceDue = false) ∧
    (¬(eventPoint ((ws67.advance T).core 0) = true ∧ Option.any (fun f => f.endAt == ((ws67.advance T).core 0).regs.pc)
    ((ws67.advance T).core 0).loops.head? = false))) ∧ ((((ws68.advance T).core 0).st = 1) ∧ (gated (ws68.advance T) (0 / 5) =
    false) ∧ (invasive (ws68.advance T) = true) ∧ (((ws68.advance T).core 0).halted = true)) ∧ ((((ws66.advance T).core 0).st
    = 1) ∧ (gated (ws66.advance T) (0 / 5) = false) ∧ ((ws66.advance T).trust.level ≠ 0) ∧ (eventPoint ((ws66.advance T).core
    0) = true ∧ Option.any (fun f => f.endAt == ((ws66.advance T).core 0).regs.pc) ((ws66.advance T).core 0).loops.head? =
    false) ∧ (((ws66.advance T).core 0).stop = false)) ∧ ((((ws66.advance T).core 0).st = 1) ∧ (gated (ws66.advance T) (0 / 5)
    = false) ∧ ((if true = true then invasive (ws66.advance T) else (ws66.advance T).sup.mode == Mode.test) = true) ∧
    (((ws66.advance T).core 0).wait = none)) ∧ ((((ws69.advance T).core 0).st = 1) ∧ (gated (ws69.advance T) (0 / 5) = false)
    ∧ ((if true = true then invasive (ws69.advance T) else (ws69.advance T).sup.mode == Mode.test) = true) ∧ (((ws69.advance
    T).core 0).wait = some (0#3, 1#4))) := by and_intros <;> decide +kernel

theorem witness_illegalInstructionsFailTheAttempt :
    (encodeGeldin (Instr.nop gi) = some 1879048192#32) ∧ ((wordBad 4294967295 = true) ∧ (Fetches (Instr.illegalInstruction gi
    4294967295#32) gi ws70)) ∧ (wordBad 0 = false) ∧ (spells (ws66.advance gi.t) ((ws66.advance gi.t).core ↑gi.core) gi
    (Instr.add gi (alu 0#2 0#3 0#3 0#3)) = false) ∧ ((placed ((ws71.advance gi.t).core ↑gi.core) Kind.plain = false) ∧
    (Fetches (Instr.add gi (alu 0#2 0#3 0#3 0#3)) gi ws71)) ∧ ((placed ((ws72.advance gi.t).core ↑gi.core) Kind.control =
    false) ∧ (Fetches (Instr.nop gi) gi ws72)) ∧ ((placed ((ws73.advance gi.t).core ↑gi.core) Kind.transfer = false) ∧
    (Fetches (Instr.br gi 0#17) gi ws73)) ∧ ((placed ((ws74.advance gi.t).core ↑gi.core) Kind.loopEnd = false) ∧ (Fetches
    (Instr.endLoop gi) gi ws74)) ∧ ((Issues (Instr.add gi (alu 3#2 0#3 0#3 0#3)) gi Kind.plain ws75) ∧ (aluOk 0 (alu 3#2 0#3
    0#3 0#3).form.toNat (alu 3#2 0#3 0#3 0#3).dst.toNat (alu 3#2 0#3 0#3 0#3).s1.toNat (alu 3#2 0#3 0#3 0#3).s2.toNat (alu 3#2
    0#3 0#3 0#3).ci (alu 3#2 0#3 0#3 0#3).cnt.toNat = false)) ∧ ((Fetches (Instr.add gi (alu 0#2 0#3 0#3 0#3)) gi ws76) ∧
    (placed ((ws76.advance gi.t).core ↑gi.core) Kind.plain = true) ∧ (readsGood ((ws76.advance gi.t).core ↑gi.core).regs
    (aluReads 0 (alu 0#2 0#3 0#3 0#3)) = false)) := by and_intros <;> decide +kernel

theorem witness_ptpMessagesUpdateTheirInstance :
    ((isFollower (ws77.advance T) 0 = true) ∧ ((msg true 5).twoStep = true)) ∧ ((isFollower (ws77.advance T) 0 = true) ∧ ((msg
    false 5).twoStep = false) ∧ ((ws77.advance T).tb.ref ≠ some 0)) ∧ ((isFollower (ws78.advance T) 0 = true) ∧ ((msg false
    100000000000).twoStep = false) ∧ ((ws78.advance T).tb.ref = some 0) ∧ (((ws78.advance T).inst 0).pstate = 9) ∧
    ((ws78.advance T).tb.st = 2) ∧ (((msg false 100000000000).origin + (msg false 100000000000).corr + ((ws78.advance T).inst
    0).delay - (ws78.advance T).mediaOf (BitVec.toNat T)).natAbs < stepThr (ws78.advance T)) ∧ (((msg false
    100000000000).origin + (msg false 100000000000).corr + ((ws78.advance T).inst 0).delay - (ws78.advance T).mediaOf
    (BitVec.toNat T)).natAbs < 4000)) ∧ ((isFollower (ws79.advance T) 0 = true) ∧ (((ws79.advance T).inst 0).syncSeq = some
    (msg true 5).seq) ∧ ((ws79.advance T).tb.ref ≠ some 0)) ∧ (isFollower (ws77.advance T) 0 = true) ∧ ((ptpRec (ws80.advance
    T) 1 = some (ptpB 2#8)) ∧ (ptpRole (ptpB 2#8) = 2)) := by and_intros <;> decide +kernel

theorem witness_announceChoosesTheReference :
    (((ptpRec (ws81.advance T) 0).isSome = true) ∧ (((ws81.advance T).inst 0).pstate ≠ 9) ∧ ((ann 4#4).pstate ≠ 9#4)) ∧
    (((ptpRec (ws81.advance T) 0).isSome = true) ∧ (((ws81.advance T).inst 0).pstate ≠ 9) ∧ ((ann 9#4).pstate = 9#4) ∧
    (((ws81.advance T).inst 0).stepFrom = 0) ∧ ((ws81.advance T).tb.ref = none) ∧ ((ws81.advance T).tb.st = 0) ∧ (ptpPref
    (ws81.advance T) = 0)) ∧ (((ptpRec (ws81.advance T) 0).isSome = true) ∧ (((ws81.advance T).inst 0).pstate ≠ 9)) ∧
    (((ptpRec (ws78.advance T) 0).isSome = true) ∧ (((ws78.advance T).inst 0).pstate = 9) ∧ ((ws78.advance T).tb.ref = some 0)
    ∧ ((ws78.advance T).tb.st = 2) ∧ (usableInst (ws78.advance T) (1 - 0) = false)) := by and_intros <;> decide +kernel

theorem witness_ptpTransmissionAwaitsItsTimestamp :
    ((ptpRec (ws82.advance T) 0 = some (ptpB 2#8)) ∧ (ptpRole (ptpB 2#8) = 2)) ∧ (isFollower (ws83.advance T) 0 = true) ∧
    ((((ws84.advance T).inst 0).txFrom ≠ 0) ∧ ((ws84.advance T).now ≤ ((ws84.advance T).inst 0).txFrom - 1 + 4000000)) := by and_intros <;> decide +kernel

theorem witness_holdoverStepsAndReversion :
    (((ws78.advance T).tb.ref = some 0) ∧ (0 < 2) ∧ (ptpRec (ws78.advance T) 0 = some (ptpB 1#8)) ∧ ((ws78.advance T).tb.st =
    2) ∧ (usableInst (ws78.advance T) (1 - 0) = false) ∧ (((ws78.advance T).inst 0).lastSync + 4 * logInterval (byteAt (ptpB
    1#8) 4) ≤ (ws78.advance T).now)) ∧ (((ws85.advance 4000000000000#64).tb.st = 3) ∧ ((ws85.advance
    4000000000000#64).tb.expired = false) ∧ ((ws85.advance 4000000000000#64).rfld (baseTB + 8) 31 16 < 50 + (ws85.advance
    4000000000000#64).rfld (baseTB + 8) 15 0 * ((ws85.advance 4000000000000#64).now - (ws85.advance
    4000000000000#64).tb.holdFrom) / 4000000000)) ∧ (((ws86.advance 4000000000000#64).tb.ref = some 0) ∧ (((ws86.advance
    4000000000000#64).inst 0).stepFrom ≠ 0) ∧ ((if ((ws86.advance 4000000000000#64).inst 0).stepLog = 0 then ((ws86.advance
    4000000000000#64).inst 0).stepFrom else ((ws86.advance 4000000000000#64).inst 0).stepLog) - 1 + stepConfirm (ws86.advance
    4000000000000#64) ≤ (ws86.advance 4000000000000#64).now)) ∧ (((ws87.advance T).rfld (baseSV + 2068) 15 8 ≠ 0) ∧
    ((ws87.advance T).tb.ref = some (1 - ptpPref (ws87.advance T))) ∧ ((ws87.advance T).tb.st = 2) ∧ (usableInst (ws87.advance
    T) (ptpPref (ws87.advance T)) = true) ∧ (((ws87.advance T).inst (ptpPref (ws87.advance T))).slaveFrom ≠ 0) ∧
    (((ws87.advance T).inst (ptpPref (ws87.advance T))).slaveFrom - 1 + (ws87.advance T).rfld (baseSV + 2068) 15 8 *
    4000000000 ≤ (ws87.advance T).now)) := by and_intros <;> decide +kernel

theorem witness_realignTimeOfDayAndPps :
    (allows Master.host 196624 true (svc.advance T) = true) ∧ ((allows Master.host 196624 true (ws86.advance T) = true) ∧
    (stepPending (ws86.advance T) = true)) ∧ ((allows Master.host 196624 true (svc.advance T) = true) ∧ (stepPending
    (svc.advance T) = false)) ∧ ((svc.advance T).rfld baseTB 9 8 ≠ 1 ∨ (svc.advance T).tb.st ≠ 0 ∨ (svc.advance T).tb.tod =
    none) ∧ (((ws88.advance T).rfld baseTB 9 8 = 1) ∧ ((ws88.advance T).tb.st = 0) ∧ ((ws88.advance T).tb.tod = some 25) ∧
    ((↑(25 * 4000000000) - (ws88.advance T).mediaOf ((ws88.advance T).now - (ws88.advance T).rfld (baseTB + 12) 15 0)).natAbs
    < stepThr (ws88.advance T))) ∧ (((ws89.advance 200000000000#64).tb.ppsOk = true) ∧ ((ws89.advance
    200000000000#64).tb.lastPps + 4000000000 + 40000000 ≤ (ws89.advance 200000000000#64).now)) ∧ ((ws90.advance T).tb.ref10Ok
    = true) := by and_intros <;> decide +kernel

theorem witness_receivedFramesAreFilteredAndQueued :
    ((((ws91.advance T).port 0).link = true) ∧ (npRole (ws91.advance T) 0 ≠ 0) ∧ (([7#8] ++ [1#8] ++ [2#8]).length < 64)) ∧
    ((((ws91.advance T).port 0).link = true) ∧ (npRole (ws91.advance T) 0 ≠ 0) ∧ (64 ≤ (List.replicate 1523 0#8 ++ [] ++
    []).length) ∧ (npFld (ws91.advance T) 0 64 13 0 < (List.replicate 1523 0#8 ++ [] ++ []).length)) ∧ ((((ws91.advance
    T).port 0).link = true) ∧ (npRole (ws91.advance T) 0 ≠ 0) ∧ (64 ≤ (frame [1#8, 0#8, 94#8, 1#8, 2#8, 3#8] ++ [] ++
    []).length) ∧ ((frame [1#8, 0#8, 94#8, 1#8, 2#8, 3#8] ++ [] ++ []).length ≤ npFld (ws91.advance T) 0 64 13 0) ∧ (fcsOk
    (frame [1#8, 0#8, 94#8, 1#8, 2#8, 3#8] ++ [] ++ []) = true) ∧ (npMacsec (ws91.advance T) 0 = false) ∧ (dstOk (ws91.advance
    T) 0 (List.take 6 (List.take ((frame [1#8, 0#8, 94#8, 1#8, 2#8, 3#8] ++ [] ++ []).length - 4) (frame [1#8, 0#8, 94#8, 1#8,
    2#8, 3#8] ++ [] ++ []))) = false)) ∧ ((((ws92.advance T).port 0).link = true) ∧ (npRole (ws92.advance T) 0 ≠ 0) ∧ (64 ≤
    (frame bcast ++ [] ++ []).length) ∧ ((frame bcast ++ [] ++ []).length ≤ npFld (ws92.advance T) 0 64 13 0) ∧ (fcsOk (frame
    bcast ++ [] ++ []) = true) ∧ (npMacsec (ws92.advance T) 0 = false) ∧ (dstOk (ws92.advance T) 0 (List.take 6 (List.take
    ((frame bcast ++ [] ++ []).length - 4) (frame bcast ++ [] ++ []))) = true) ∧ ((if ((parseFrame (List.take ((frame bcast ++
    [] ++ []).length - 4) (frame bcast ++ [] ++ []))).etype == 35063 || isUdp (parseFrame (List.take ((frame bcast ++ [] ++
    []).length - 4) (frame bcast ++ [] ++ []))) && (n16 (List.take ((frame bcast ++ [] ++ []).length - 4) (frame bcast ++ []
    ++ [])) ((parseFrame (List.take ((frame bcast ++ [] ++ []).length - 4) (frame bcast ++ [] ++ []))).l4 + 2) == 319 || n16
    (List.take ((frame bcast ++ [] ++ []).length - 4) (frame bcast ++ [] ++ [])) ((parseFrame (List.take ((frame bcast ++ []
    ++ []).length - 4) (frame bcast ++ [] ++ []))).l4 + 2) == 320)) = true then rxQueue (ws92.advance T) 0 22 16 else if
    (isUdp (parseFrame (List.take ((frame bcast ++ [] ++ []).length - 4) (frame bcast ++ [] ++ []))) && (npRole (ws92.advance
    T) 0 == 1 || npRole (ws92.advance T) 0 == 2)) = true then rxQueue (ws92.advance T) 0 6 0 else rxQueue (ws92.advance T) 0
    14 8) = 127)) ∧ ((((ws93.advance T).port 0).link = true) ∧ (npRole (ws93.advance T) 0 ≠ 0) ∧ (64 ≤ (frame bcast ++ [] ++
    []).length) ∧ ((frame bcast ++ [] ++ []).length ≤ npFld (ws93.advance T) 0 64 13 0) ∧ (fcsOk (frame bcast ++ [] ++ []) =
    true) ∧ (npMacsec (ws93.advance T) 0 = false) ∧ (dstOk (ws93.advance T) 0 (List.take 6 (List.take ((frame bcast ++ [] ++
    []).length - 4) (frame bcast ++ [] ++ []))) = true) ∧ ((if ((parseFrame (List.take ((frame bcast ++ [] ++ []).length - 4)
    (frame bcast ++ [] ++ []))).etype == 35063 || isUdp (parseFrame (List.take ((frame bcast ++ [] ++ []).length - 4) (frame
    bcast ++ [] ++ []))) && (n16 (List.take ((frame bcast ++ [] ++ []).length - 4) (frame bcast ++ [] ++ [])) ((parseFrame
    (List.take ((frame bcast ++ [] ++ []).length - 4) (frame bcast ++ [] ++ []))).l4 + 2) == 319 || n16 (List.take ((frame
    bcast ++ [] ++ []).length - 4) (frame bcast ++ [] ++ [])) ((parseFrame (List.take ((frame bcast ++ [] ++ []).length - 4)
    (frame bcast ++ [] ++ []))).l4 + 2) == 320)) = true then rxQueue (ws93.advance T) 0 22 16 else if (isUdp (parseFrame
    (List.take ((frame bcast ++ [] ++ []).length - 4) (frame bcast ++ [] ++ []))) && (npRole (ws93.advance T) 0 == 1 || npRole
    (ws93.advance T) 0 == 2)) = true then rxQueue (ws93.advance T) 0 6 0 else rxQueue (ws93.advance T) 0 14 8) ≠ 127) ∧ (qDesc
    (ws93.advance T) (if ((parseFrame (List.take ((frame bcast ++ [] ++ []).length - 4) (frame bcast ++ [] ++ []))).etype ==
    35063 || isUdp (parseFrame (List.take ((frame bcast ++ [] ++ []).length - 4) (frame bcast ++ [] ++ []))) && (n16
    (List.take ((frame bcast ++ [] ++ []).length - 4) (frame bcast ++ [] ++ [])) ((parseFrame (List.take ((frame bcast ++ []
    ++ []).length - 4) (frame bcast ++ [] ++ []))).l4 + 2) == 319 || n16 (List.take ((frame bcast ++ [] ++ []).length - 4)
    (frame bcast ++ [] ++ [])) ((parseFrame (List.take ((frame bcast ++ [] ++ []).length - 4) (frame bcast ++ [] ++ []))).l4 +
    2) == 320)) = true then rxQueue (ws93.advance T) 0 22 16 else if (isUdp (parseFrame (List.take ((frame bcast ++ [] ++
    []).length - 4) (frame bcast ++ [] ++ []))) && (npRole (ws93.advance T) 0 == 1 || npRole (ws93.advance T) 0 == 2)) = true
    then rxQueue (ws93.advance T) 0 6 0 else rxQueue (ws93.advance T) 0 14 8) = some (qB 0#8 13#8 0#8 0#8 0#8)) ∧ (qPfc (qB
    0#8 13#8 0#8 0#8 0#8) = false) ∧ (((ws93.advance T).queue (if ((parseFrame (List.take ((frame bcast ++ [] ++ []).length -
    4) (frame bcast ++ [] ++ []))).etype == 35063 || isUdp (parseFrame (List.take ((frame bcast ++ [] ++ []).length - 4)
    (frame bcast ++ [] ++ []))) && (n16 (List.take ((frame bcast ++ [] ++ []).length - 4) (frame bcast ++ [] ++ []))
    ((parseFrame (List.take ((frame bcast ++ [] ++ []).length - 4) (frame bcast ++ [] ++ []))).l4 + 2) == 319 || n16
    (List.take ((frame bcast ++ [] ++ []).length - 4) (frame bcast ++ [] ++ [])) ((parseFrame (List.take ((frame bcast ++ []
    ++ []).length - 4) (frame bcast ++ [] ++ []))).l4 + 2) == 320)) = true then rxQueue (ws93.advance T) 0 22 16 else if
    (isUdp (parseFrame (List.take ((frame bcast ++ [] ++ []).length - 4) (frame bcast ++ [] ++ []))) && (npRole (ws93.advance
    T) 0 == 1 || npRole (ws93.advance T) 0 == 2)) = true then rxQueue (ws93.advance T) 0 6 0 else rxQueue (ws93.advance T) 0
    14 8)).push = none) ∧ (((ws93.advance T).queue (if ((parseFrame (List.take ((frame bcast ++ [] ++ []).length - 4) (frame
    bcast ++ [] ++ []))).etype == 35063 || isUdp (parseFrame (List.take ((frame bcast ++ [] ++ []).length - 4) (frame bcast ++
    [] ++ []))) && (n16 (List.take ((frame bcast ++ [] ++ []).length - 4) (frame bcast ++ [] ++ [])) ((parseFrame (List.take
    ((frame bcast ++ [] ++ []).length - 4) (frame bcast ++ [] ++ []))).l4 + 2) == 319 || n16 (List.take ((frame bcast ++ [] ++
    []).length - 4) (frame bcast ++ [] ++ [])) ((parseFrame (List.take ((frame bcast ++ [] ++ []).length - 4) (frame bcast ++
    [] ++ []))).l4 + 2) == 320)) = true then rxQueue (ws93.advance T) 0 22 16 else if (isUdp (parseFrame (List.take ((frame
    bcast ++ [] ++ []).length - 4) (frame bcast ++ [] ++ []))) && (npRole (ws93.advance T) 0 == 1 || npRole (ws93.advance T) 0
    == 2)) = true then rxQueue (ws93.advance T) 0 6 0 else rxQueue (ws93.advance T) 0 14 8)).dropPend = false) ∧ (qDepth (qB
    0#8 13#8 0#8 0#8 0#8) ((ws93.advance T).queue (if ((parseFrame (List.take ((frame bcast ++ [] ++ []).length - 4) (frame
    bcast ++ [] ++ []))).etype == 35063 || isUdp (parseFrame (List.take ((frame bcast ++ [] ++ []).length - 4) (frame bcast ++
    [] ++ []))) && (n16 (List.take ((frame bcast ++ [] ++ []).length - 4) (frame bcast ++ [] ++ [])) ((parseFrame (List.take
    ((frame bcast ++ [] ++ []).length - 4) (frame bcast ++ [] ++ []))).l4 + 2) == 319 || n16 (List.take ((frame bcast ++ [] ++
    []).length - 4) (frame bcast ++ [] ++ [])) ((parseFrame (List.take ((frame bcast ++ [] ++ []).length - 4) (frame bcast ++
    [] ++ []))).l4 + 2) == 320)) = true then rxQueue (ws93.advance T) 0 22 16 else if (isUdp (parseFrame (List.take ((frame
    bcast ++ [] ++ []).length - 4) (frame bcast ++ [] ++ []))) && (npRole (ws93.advance T) 0 == 1 || npRole (ws93.advance T) 0
    == 2)) = true then rxQueue (ws93.advance T) 0 6 0 else rxQueue (ws93.advance T) 0 14 8)) < qSlots (qB 0#8 13#8 0#8 0#8
    0#8)) ∧ (qOcc (qB 0#8 13#8 0#8 0#8 0#8) ((ws93.advance T).queue (if ((parseFrame (List.take ((frame bcast ++ [] ++
    []).length - 4) (frame bcast ++ [] ++ []))).etype == 35063 || isUdp (parseFrame (List.take ((frame bcast ++ [] ++
    []).length - 4) (frame bcast ++ [] ++ []))) && (n16 (List.take ((frame bcast ++ [] ++ []).length - 4) (frame bcast ++ []
    ++ [])) ((parseFrame (List.take ((frame bcast ++ [] ++ []).length - 4) (frame bcast ++ [] ++ []))).l4 + 2) == 319 || n16
    (List.take ((frame bcast ++ [] ++ []).length - 4) (frame bcast ++ [] ++ [])) ((parseFrame (List.take ((frame bcast ++ []
    ++ []).length - 4) (frame bcast ++ [] ++ []))).l4 + 2) == 320)) = true then rxQueue (ws93.advance T) 0 22 16 else if
    (isUdp (parseFrame (List.take ((frame bcast ++ [] ++ []).length - 4) (frame bcast ++ [] ++ []))) && (npRole (ws93.advance
    T) 0 == 1 || npRole (ws93.advance T) 0 == 2)) = true then rxQueue (ws93.advance T) 0 6 0 else rxQueue (ws93.advance T) 0
    14 8)) < qSlots (qB 0#8 13#8 0#8 0#8 0#8))) ∧ ((((ws94.advance T).port 0).link = false) ∧ (detectorOn (ws94.advance T) 0 =
    false)) ∧ ((((ws95.advance T).port 0).link = false) ∧ ((ws95.advance T).sup.mode = Mode.standby) ∧ (fcsOk (frame bcast ++
    [] ++ []) = true) ∧ (bit ((ws95.advance T).reg (baseNP 0 + 76)) 31 = true) ∧ (wakeHit (ws95.advance T) 0 (List.take
    ((frame bcast ++ [] ++ []).length - 4) (frame bcast ++ [] ++ [])) = true)) := by and_intros <;> decide +kernel

theorem witness_pauseHoldsAndReleasesClasses :
    ((((ws96.advance T).port 0).link = true) ∧ (npRole (ws96.advance T) 0 ≠ 0) ∧ (bit ((ws96.advance T).reg (baseNP 0 + 52)) 0
    = false)) ∧ ((((ws97.advance T).port 0).link = true) ∧ (npRole (ws97.advance T) 0 ≠ 0) ∧ (bit ((ws97.advance T).reg
    (baseNP 0 + 52)) 0 = true)) ∧ (isPaused (ws97.advance T) 0 7 = false) ∧ (isPaused (ws98.advance T) 0 7 = true) ∧
    (inRelease (ws97.advance T) 0 7 = false) ∧ ((npFld (ws99.advance T) 0 56 15 0 ≠ 0) ∧ (tget 0 ((ws99.advance T).port
    0).pausedFrom 0 ≠ 0) ∧ (isPaused (ws99.advance T) 0 0 = true) ∧ (tget 0 ((ws99.advance T).port 0).pausedFrom 0 - 1 + npFld
    (ws99.advance T) 0 56 15 0 * 4000 ≤ (ws99.advance T).now) ∧ (npRole (ws99.advance T) 0 = 3)) ∧ ((tget 0 (ws100.advance
    T).sup.moved (8 * 1 + 0) ≠ 0) ∧ (tget 0 (ws100.advance T).sup.moved (8 * 1 + 0) ≤ (ws100.advance T).now)) := by and_intros <;> decide +kernel

theorem witness_linksAndNetworksGoDownAndUp :
    ((((ws97.advance T).port 0).link = true) ∧ (((ws97.advance T).port 0).txq = []) ∧ (npRole (ws97.advance T) 0 = 3) ∧
    (recsOf (ws97.advance T).cfg.recs tyQUEUE = [])) ∧ (((ws101.advance T).port 0).link = false) ∧ ((npRole (ws102.advance T)
    0 = 1 + 1) ∧ (1 < 2) ∧ (((ws102.advance T).port 0).link = true) ∧ (bit (ws102.advance T).sup.netLost 1 = false)) ∧
    ((((ws101.advance T).port 0).link = false) ∧ (((ws101.advance T).port 0).txq = []) ∧ (npRole (ws101.advance T) 0 = 3) ∧
    (recsOf (ws101.advance T).cfg.recs tyQUEUE = []) ∧ ((ws101.advance T).sup.mode = Mode.service)) ∧ (npRole (ws103.advance
    T) 0 = 0 ∨ (ws103.advance T).sup.mode = Mode.standby ∨ (ws103.advance T).sup.mode = Mode.off ∨ (ws103.advance T).sup.mode
    = Mode.lockdown) ∧ ((portOfRole (ws104.advance T) ((if Leg.blue = Leg.red then 0 else 1) + 1) = some 0) ∧ (((ws104.advance
    T).port 0).link = false) ∧ (bit (ws104.advance T).sup.netLost (if Leg.blue = Leg.red then 0 else 1) = false) ∧
    ((ws104.advance T).tb.ref ≠ some (if Leg.blue = Leg.red then 0 else 1))) := by and_intros <;> decide +kernel

theorem witness_transmissionStartsTheHighestAdmittedClass :
    ((((sending.advance T).port 0).link = true) ∧ (txMute (sending.advance T).sup.mode = false) ∧ (npRole (sending.advance T)
    0 ≠ 0) ∧ (((prepared 0 (sending.advance T)).port 0).txEnd ≤ (prepared 0 (sending.advance T)).now) ∧ (((prepared 0
    (sending.advance T)).port 0).txReady ≤ (prepared 0 (sending.advance T)).now) ∧ (((prepared 0 (sending.advance T)).port
    0).lpiTx = false) ∧ (2 < 8) ∧ (headOf (prepared 0 (sending.advance T)) 0 2 = some (txf 2)) ∧ (isPaused (prepared 0
    (sending.advance T)) 0 2 = false) ∧ (gateFits (prepared 0 (sending.advance T)) 0 2 (txGrains (tenG (prepared 0
    (sending.advance T)) 0) ((max 60 (txf 2).bytes.length + if (npMacsec (prepared 0 (sending.advance T)) 0 && !macsecFree
    (prepared 0 (sending.advance T)) 0 (txf 2).bytes) = true then 36 else 4) + 8)) = true) ∧ (∀ (c' : Nat), c' < 8 → 2 < c' →
    ∀ (g : TxFrame), headOf (prepared 0 (sending.advance T)) 0 c' = some g → isPaused (prepared 0 (sending.advance T)) 0 c' =
    true ∨ gateFits (prepared 0 (sending.advance T)) 0 c' (txGrains (tenG (prepared 0 (sending.advance T)) 0) ((max 60
    g.bytes.length + if (npMacsec (prepared 0 (sending.advance T)) 0 && !macsecFree (prepared 0 (sending.advance T)) 0
    g.bytes) = true then 36 else 4) + 8)) = false) ∧ ((npMacsec (prepared 0 (sending.advance T)) 0 && !macsecFree (prepared 0
    (sending.advance T)) 0 (txf 2).bytes) = false)) ∧ ((((sealing.advance T).port 0).link = true) ∧ (txMute (sealing.advance
    T).sup.mode = false) ∧ (npRole (sealing.advance T) 0 ≠ 0) ∧ (((prepared 0 (sealing.advance T)).port 0).txEnd ≤ (prepared 0
    (sealing.advance T)).now) ∧ (((prepared 0 (sealing.advance T)).port 0).txReady ≤ (prepared 0 (sealing.advance T)).now) ∧
    (((prepared 0 (sealing.advance T)).port 0).lpiTx = false) ∧ (2 < 8) ∧ (headOf (prepared 0 (sealing.advance T)) 0 2 = some
    (txf 2)) ∧ (isPaused (prepared 0 (sealing.advance T)) 0 2 = false) ∧ (gateFits (prepared 0 (sealing.advance T)) 0 2
    (txGrains (tenG (prepared 0 (sealing.advance T)) 0) ((max 60 (txf 2).bytes.length + if (npMacsec (prepared 0
    (sealing.advance T)) 0 && !macsecFree (prepared 0 (sealing.advance T)) 0 (txf 2).bytes) = true then 36 else 4) + 8)) =
    true) ∧ (∀ (c' : Nat), c' < 8 → 2 < c' → ∀ (g : TxFrame), headOf (prepared 0 (sealing.advance T)) 0 c' = some g → isPaused
    (prepared 0 (sealing.advance T)) 0 c' = true ∨ gateFits (prepared 0 (sealing.advance T)) 0 c' (txGrains (tenG (prepared 0
    (sealing.advance T)) 0) ((max 60 g.bytes.length + if (npMacsec (prepared 0 (sealing.advance T)) 0 && !macsecFree (prepared
    0 (sealing.advance T)) 0 g.bytes) = true then 36 else 4) + 8)) = false) ∧ ((npMacsec (prepared 0 (sealing.advance T)) 0 &&
    !macsecFree (prepared 0 (sealing.advance T)) 0 (txf 2).bytes) = true) ∧ (macsecSeal 0 (txf 2).bytes (popHead 0 2
    ((prepared 0 (sealing.advance T)).setPort 0 { ((prepared 0 (sealing.advance T)).port 0) with txCur := none })) = none)) := by and_intros <;> decide +kernel

theorem witness_gatesAndLowPowerIdle :
    ((((ws105.advance T).port 0).link = false) ∧ (recsOf (ws105.advance T).cfg.recs tyQUEUE = [])) ∧ ((((ws106.advance T).port
    0).gclNext = [(5, [1#8, 2#8])]) ∧ (5 ≤ (ws106.advance T).now)) ∧ ((((ws107.advance T).port 0).gclNext = [(1000000000000,
    [])]) ∧ ((ws107.advance T).now < 1000000000000)) ∧ ((((ws108.advance T).port 0).gclNext = [(5, [1#8, 2#8]),
    (1000000000000, [])]) ∧ (5 ≤ (ws108.advance T).now) ∧ ((ws108.advance T).now < 1000000000000)) ∧ (((ws101.advance T).port
    0).gclNext = []) ∧ ((recsOf (ws109.advance T).cfg.recs tyQUEUE = []) ∧ (lpiMode (ws109.advance T).sup.mode = true) ∧
    (((ws109.advance T).port 0).link = true) ∧ (((ws109.advance T).port 0).lpiTx = false) ∧ (((ws109.advance T).port
    0).eeePartner = true) ∧ (bit ((ws109.advance T).reg (baseNP 0 + 72)) 0 = true) ∧ (((ws109.advance T).port 0).txq = []) ∧
    (((ws109.advance T).port 0).idleFrom + npFld (ws109.advance T) 0 72 15 4 * 4000 ≤ (ws109.advance T).now)) := by and_intros <;> decide +kernel

theorem witness_pushesBeginStallDropAndComplete :
    ((qDesc (ws110.advance T) 5 = some host1) ∧ (9 = qProd host1) ∧ (qBusy ((queueNow 5 host1 (ws110.advance T)).queue 5) =
    true)) ∧ ((qDesc (ws111.advance T) 5 = some host1) ∧ (9 = qProd host1) ∧ (qBusy ((queueNow 5 host1 (ws111.advance
    T)).queue 5) = false) ∧ (qOcc host1 ((queueNow 5 host1 (ws111.advance T)).queue 5) ≠ qSlots host1) ∧ (qDepth host1
    ((queueNow 5 host1 (ws111.advance T)).queue 5) ≠ qSlots host1)) ∧ ((qDesc (ws112.advance T) 5 = some lossy) ∧ (9 = qProd
    lossy) ∧ (qBusy ((queueNow 5 lossy (ws112.advance T)).queue 5) = false) ∧ (qDepth lossy ((queueNow 5 lossy (ws112.advance
    T)).queue 5) ≠ qSlots lossy) ∧ (qOcc lossy ((queueNow 5 lossy (ws112.advance T)).queue 5) = qSlots lossy) ∧ (qLossy lossy
    = true) ∧ (qCons lossy ≠ 7)) ∧ ((qDesc (ws113.advance T) 5 = some lossy7) ∧ (9 = qProd lossy7) ∧ (qBusy ((queueNow 5
    lossy7 (ws113.advance T)).queue 5) = false) ∧ (qDepth lossy7 ((queueNow 5 lossy7 (ws113.advance T)).queue 5) ≠ qSlots
    lossy7) ∧ (qOcc lossy7 ((queueNow 5 lossy7 (ws113.advance T)).queue 5) = qSlots lossy7) ∧ (qLossy lossy7 = true) ∧ (qCons
    lossy7 = 7)) ∧ ((qDesc (ws114.advance T) 5 = some host1) ∧ (9 = qProd host1) ∧ (qBusy ((queueNow 5 host1 (ws114.advance
    T)).queue 5) = false) ∧ (qOcc host1 ((queueNow 5 host1 (ws114.advance T)).queue 5) = qSlots host1) ∧ (qLossy host1 =
    false)) ∧ ((qDesc (ws115.advance T) 5 = some host1) ∧ (9 = qProd host1) ∧ (qBusy ((queueNow 5 host1 (ws115.advance
    T)).queue 5) = false) ∧ (qDepth host1 ((queueNow 5 host1 (ws115.advance T)).queue 5) = qSlots host1) ∧ (qLossy host1 =
    false ∨ popInGrain 5 host1 (queueNow 5 host1 (ws115.advance T)) = true)) ∧ ((qDesc (ws116.advance T) 5 = some lossy) ∧ (9
    = qProd lossy) ∧ (qBusy ((queueNow 5 lossy (ws116.advance T)).queue 5) = false) ∧ (qDepth lossy ((queueNow 5 lossy
    (ws116.advance T)).queue 5) = qSlots lossy) ∧ (qLossy lossy = true) ∧ (popInGrain 5 lossy (queueNow 5 lossy (ws116.advance
    T)) = false)) ∧ ((qDesc (ws110.advance T) 5 = some host1) ∧ (((queueNow 5 host1 (ws110.advance T)).queue 5).backlog = [])
    ∧ (((queueNow 5 host1 (ws110.advance T)).queue 5).pushDead = false) ∧ (((queueNow 5 host1 (ws110.advance T)).queue 5).push
    = some ws117) ∧ (qPfc host1 = false)) ∧ ((qDesc (ws118.advance T) 5 = some host1) ∧ (((queueNow 5 host1 (ws118.advance
    T)).queue 5).backlog = []) ∧ (((queueNow 5 host1 (ws118.advance T)).queue 5).pushDead = true)) ∧ ((qDesc (ws111.advance T)
    5 = some host1) ∧ (((queueNow 5 host1 (ws111.advance T)).queue 5).backlog = []) ∧ (((queueNow 5 host1 (ws111.advance
    T)).queue 5).pushDead = false) ∧ (((queueNow 5 host1 (ws111.advance T)).queue 5).push = none)) ∧ ((qDesc (ws119.advance T)
    5 = some host1) ∧ (((queueNow 5 host1 (ws119.advance T)).queue 5).backlog = [ws117]) ∧ (((queueNow 5 host1 (ws119.advance
    T)).queue 5).pushDead = true) ∧ (((queueNow 5 host1 (ws119.advance T)).queue 5).push = none) ∧ (((queueNow 5 host1
    (ws119.advance T)).queue 5).pushWait = none) ∧ (qOcc host1 ((queueNow 5 host1 (ws119.advance T)).queue 5) ≠ qSlots host1)
    ∧ (qDepth host1 ((queueNow 5 host1 (ws119.advance T)).queue 5) ≠ qSlots host1) ∧ (qPfc host1 = false)) ∧ ((qDesc
    (ws120.advance T) 5 = some host1) ∧ (((queueNow 5 host1 (ws120.advance T)).queue 5).pushWait = some ws117) ∧ (qDepth host1
    ((queueNow 5 host1 (ws120.advance T)).queue 5) ≠ qSlots host1) ∧ (qOcc host1 ((queueNow 5 host1 (ws120.advance T)).queue
    5) < qSlots host1) ∧ (((queueNow 5 host1 (ws120.advance T)).queue 5).waitWhole = false)) ∧ ((qDesc (ws121.advance T) 5 =
    some host1) ∧ (((queueNow 5 host1 (ws121.advance T)).queue 5).pushWait = some ws117) ∧ (qDepth host1 ((queueNow 5 host1
    (ws121.advance T)).queue 5) ≠ qSlots host1) ∧ (qOcc host1 ((queueNow 5 host1 (ws121.advance T)).queue 5) < qSlots host1) ∧
    (((queueNow 5 host1 (ws121.advance T)).queue 5).waitWhole = true) ∧ (((queueNow 5 host1 (ws121.advance T)).queue
    5).backlog = []) ∧ (qPfc host1 = false)) ∧ ((qDesc (ws122.advance T) 5 = some lossy) ∧ (((queueNow 5 lossy (ws122.advance
    T)).queue 5).pushWait = some ws117) ∧ (qDepth lossy ((queueNow 5 lossy (ws122.advance T)).queue 5) ≠ qSlots lossy) ∧
    (qSlots lossy ≤ qOcc lossy ((queueNow 5 lossy (ws122.advance T)).queue 5)) ∧ (qLossy lossy = true) ∧ (qCons lossy ≠ 7) ∧
    (((queueNow 5 lossy (ws122.advance T)).queue 5).waitWhole = false)) ∧ ((qDesc (ws123.advance T) 5 = some host1) ∧
    (((queueNow 5 host1 (ws123.advance T)).queue 5).pushWait = some ws117) ∧ (qDepth host1 ((queueNow 5 host1 (ws123.advance
    T)).queue 5) ≠ qSlots host1) ∧ (qSlots host1 ≤ qOcc host1 ((queueNow 5 host1 (ws123.advance T)).queue 5)) ∧ (qLossy host1
    = false)) ∧ ((qDesc (ws111.advance T) 5 = some host1) ∧ (((queueNow 5 host1 (ws111.advance T)).queue 5).pushWait = none ∨
    qDepth host1 ((queueNow 5 host1 (ws111.advance T)).queue 5) = qSlots host1)) := by and_intros <;> decide +kernel

theorem witness_popsDeliverStallAndTimeOut :
    ((qDesc (ws124.advance T) 5 = some host1) ∧ (13 = qCons host1) ∧ (((queueNow 5 host1 (ws124.advance T)).queue 5).popBusy =
    false) ∧ (((queueNow 5 host1 (ws124.advance T)).queue 5).popStall = false) ∧ (qReady host1 ((queueNow 5 host1
    (ws124.advance T)).queue 5) = true)) ∧ ((qDesc (ws111.advance T) 5 = some host1) ∧ (13 = qCons host1) ∧ (((queueNow 5
    host1 (ws111.advance T)).queue 5).popBusy = false) ∧ (((queueNow 5 host1 (ws111.advance T)).queue 5).popStall = false) ∧
    (qReady host1 ((queueNow 5 host1 (ws111.advance T)).queue 5) = false)) ∧ ((qDesc (ws125.advance T) 5 = some host1) ∧
    (((queueNow 5 host1 (ws125.advance T)).queue 5).popBusy = true) ∧ (0 < qDepth host1 ((queueNow 5 host1 (ws125.advance
    T)).queue 5)) ∧ (((queueNow 5 host1 (ws125.advance T)).queue 5).pfcOn = false)) ∧ ((qDesc (ws111.advance T) 5 = some
    host1) ∧ (((queueNow 5 host1 (ws111.advance T)).queue 5).popBusy = false ∨ qDepth host1 ((queueNow 5 host1 (ws111.advance
    T)).queue 5) = 0)) ∧ ((qDesc (ws126.advance T) 5 = some host1) ∧ (((queueNow 5 host1 (ws126.advance T)).queue 5).popStall
    = true) ∧ (qReady host1 ((queueNow 5 host1 (ws126.advance T)).queue 5) = true)) ∧ ((qDesc (ws127.advance T) 5 = some
    host1) ∧ (((queueNow 5 host1 (ws127.advance T)).queue 5).popStall = false ∨ qReady host1 ((queueNow 5 host1 (ws127.advance
    T)).queue 5) = false)) ∧ ((qDesc (ws128.advance T) 5 = some host1) ∧ (((ws128.advance T).queue 5).coming = []) ∧
    (((ws128.advance T).queue 5).popStall = true) ∧ (qIdle host1 ≠ 0 ∧ max ((ws128.advance T).queue 5).waitFrom
    ((ws128.advance T).queue 5).lastByte + 4000 * qIdle host1 ≤ (ws128.advance T).now) ∧ (((ws128.advance T).queue 5).push =
    none) ∧ (((ws128.advance T).queue 5).flushPend = 0)) ∧ ((qDesc (ws129.advance T) 5 = some host1) ∧ (((ws129.advance
    T).queue 5).coming = []) ∧ (((ws129.advance T).queue 5).popStall = false) ∧ (((ws129.advance T).queue 5).push = some
    ws117) ∧ (qIdle host1 ≠ 0 ∧ max ((ws129.advance T).queue 5).pushFrom ((ws129.advance T).queue 5).lastByte + 4000 * qIdle
    host1 ≤ (ws129.advance T).now) ∧ (((ws129.advance T).queue 5).flushPend = 0) ∧ (qPfc host1 = false)) ∧ ((qDesc
    (ws127.advance T) 5 = some host1) ∧ (((ws127.advance T).queue 5).coming = []) ∧ (((ws127.advance T).queue 5).popStall =
    true → ¬(qIdle host1 ≠ 0 ∧ max ((ws127.advance T).queue 5).waitFrom ((ws127.advance T).queue 5).lastByte + 4000 * qIdle
    host1 ≤ (ws127.advance T).now)) ∧ (((ws127.advance T).queue 5).push.isSome = true → ¬(qIdle host1 ≠ 0 ∧ max
    ((ws127.advance T).queue 5).pushFrom ((ws127.advance T).queue 5).lastByte + 4000 * qIdle host1 ≤ (ws127.advance T).now)))
    ∧ ((qDesc (ws130.advance T) 5 = some held1) ∧ (((ws130.advance T).queue 5).coming = [(T, [3#8])]) ∧ (((ws130.advance
    T).queue 5).pushWait = none) ∧ (((ws130.advance T).queue 5).push = some ws117) ∧ (qIdle held1 = 0) ∧ (BitVec.toNat T ≤
    (ws130.advance T).now)) ∧ ((qDesc (ws131.advance T) 5 = some held1) ∧ (((ws131.advance T).queue 5).coming = [(T + 1#64,
    [3#8])]) ∧ (((ws131.advance T).queue 5).pushWait = none) ∧ (((ws131.advance T).queue 5).push = some ws117) ∧ (qIdle held1
    = 0) ∧ ((ws131.advance T).now < BitVec.toNat (T + 1#64))) := by and_intros <;> decide +kernel

theorem witness_rogueQueueAccessIsRefused :
    ((qDesc (ws111.advance T) 5 = some host1) ∧ (8 ≠ qProd host1)) ∧ ((qDesc (ws111.advance T) 5 = some host1) ∧ (8 ≠ qCons
    host1)) := by and_intros <;> decide +kernel

theorem witness_flushesDiscardFromRdToW :
    ((qDesc (ws115.advance T) 5 = some host1) ∧ (((queueNow 5 host1 (ws115.advance T)).queue 5).pfcOn = false) ∧ (13 = qCons
    host1 ∨ 13 = qProd host1 ∨ 13 = 15) ∧ (((queueNow 5 host1 (ws115.advance T)).queue 5).flushPend = 0)) ∧ ((qDesc
    (ws132.advance T) 5 = some host1) ∧ (((queueNow 5 host1 (ws132.advance T)).queue 5).pfcOn = false) ∧ (15 = qCons host1 ∨
    15 = qProd host1 ∨ 15 = 15) ∧ (((queueNow 5 host1 (ws132.advance T)).queue 5).flushPend ≠ 0)) ∧ ((qDesc (ws115.advance T)
    5 = some host1) ∧ (((queueNow 5 host1 (ws115.advance T)).queue 5).pfcOn = false) ∧ (9 = qCons host1 ∨ 9 = qProd host1 ∨ 9
    = 15) ∧ (((queueNow 5 host1 (ws115.advance T)).queue 5).push = none) ∧ (((queueNow 5 host1 (ws115.advance T)).queue
    5).popBusy = false)) ∧ ((qDesc (ws133.advance T) 5 = some host1) ∧ (((queueNow 5 host1 (ws133.advance T)).queue 5).pfcOn =
    false) ∧ (9 = qCons host1 ∨ 9 = qProd host1 ∨ 9 = 15) ∧ (((queueNow 5 host1 (ws133.advance T)).queue 5).push.isSome = true
    ∨ ((queueNow 5 host1 (ws133.advance T)).queue 5).popBusy = true)) ∧ ((qDesc (ws132.advance T) 5 = some host1) ∧
    (((queueNow 5 host1 (ws132.advance T)).queue 5).pfcOn = false) ∧ (((queueNow 5 host1 (ws132.advance T)).queue 5).flushPend
    ≠ 0) ∧ (((queueNow 5 host1 (ws132.advance T)).queue 5).flushPush = false) ∧ (((queueNow 5 host1 (ws132.advance T)).queue
    5).flushPop = false)) ∧ ((qDesc (ws115.advance T) 5 = some host1) ∧ (((queueNow 5 host1 (ws115.advance T)).queue 5).pfcOn
    = false) ∧ (((queueNow 5 host1 (ws115.advance T)).queue 5).flushPend = 0 ∨ ((queueNow 5 host1 (ws115.advance T)).queue
    5).flushPush = true ∨ ((queueNow 5 host1 (ws115.advance T)).queue 5).flushPop = true)) ∧ ((qDesc (ws134.advance T) 5 =
    some held1) ∧ (((queueNow 5 held1 (ws134.advance T)).queue 5).pfcOn = false) ∧ (((queueNow 5 held1 (ws134.advance
    T)).queue 5).flushPend ≠ 0) ∧ (qIdle held1 = 0) ∧ (((queueNow 5 held1 (ws134.advance T)).queue 5).flushPend - 1 + 500000 ≤
    (queueNow 5 held1 (ws134.advance T)).now)) := by and_intros <;> decide +kernel

theorem witness_marksRewindAndPfcRepeats :
    ((qDesc (ws115.advance T) 5 = some host1) ∧ (13 = qCons host1)) ∧ ((qDesc (ws135.advance T) 5 = some host1) ∧ (13 = qCons
    host1) ∧ (((queueNow 5 host1 (ws135.advance T)).queue 5).mark = true)) ∧ ((qDesc (ws136.advance T) 5 = some host1) ∧ (13 =
    qCons host1) ∧ (((queueNow 5 host1 (ws136.advance T)).queue 5).mark = false) ∧ (((queueNow 5 host1 (ws136.advance
    T)).queue 5).markLost = true)) ∧ ((qDesc (ws115.advance T) 5 = some host1) ∧ (13 = qCons host1) ∧ (((queueNow 5 host1
    (ws115.advance T)).queue 5).mark = false) ∧ (((queueNow 5 host1 (ws115.advance T)).queue 5).markLost = false)) ∧ ((qDesc
    (ws135.advance T) 5 = some host1) ∧ (allows Master.spi baseQF true (ws135.advance T) = true) ∧ (qCons host1 = 13) ∧
    (((queueNow 5 host1 (begun Master.spi (ws135.advance T))).queue 5).mark = true)) ∧ ((qDesc (ws115.advance T) 5 = some
    host1) ∧ (allows Master.spi baseQF true (ws115.advance T) = true) ∧ (qCons host1 = 13) ∧ (((queueNow 5 host1 (begun
    Master.spi (ws115.advance T))).queue 5).mark = false) ∧ (((queueNow 5 host1 (begun Master.spi (ws115.advance T))).queue
    5).markLost = false)) ∧ ((qDesc (ws137.advance T) 5 = some media) ∧ (allows Master.host baseQF true (ws137.advance T) =
    true) ∧ (qCons media ≠ 13)) ∧ ((qDesc (ws137.advance T) 5 = some media) ∧ (allows Master.host baseQF true (ws137.advance
    T) = true) ∧ (qCons media ≠ 13) ∧ (qProd media ≠ 13)) ∧ ((qDesc (ws138.advance T) 5 = some host1) ∧ (((queueNow 5 host1
    (ws138.advance T)).queue 5).pfcOn = true) ∧ (qLo host1 < qDepth host1 ((queueNow 5 host1 (ws138.advance T)).queue 5)) ∧
    (((queueNow 5 host1 (ws138.advance T)).queue 5).pfcDue ≤ (queueNow 5 host1 (ws138.advance T)).now) ∧ (bit (fld ((queueNow
    5 host1 (ws138.advance T)).reg (baseNP (qPort host1) + 52)) 23 16) (qClass host1) = true) ∧ (bit ((queueNow 5 host1
    (ws138.advance T)).rfld (baseNP (qPort host1) + 12) 31 24) (qClass host1) = false) ∧ (((queueNow 5 host1 (ws138.advance
    T)).port (qPort host1)).link = true)) := by and_intros <;> decide +kernel

theorem witness_copiesAreMatchedMergedAndJudged :
    (npRole (ws139.advance T) 0 = 0 ∨ npRole (ws139.advance T) 0 = 3) ∧ ((0 < 2) ∧ (npRole (ws140.advance T) 0 = 0 + 1) ∧
    (qPopNow 4 (npFld (ws140.advance T) 0 60 6 0) (ws140.advance T) = (some (rxItem (List.replicate 60 0#8)), ws141)) ∧
    (ws141.pending = (ws140.advance T).pending) ∧ (ws141.gts = (ws140.advance T).gts) ∧ (ws141.fuses = (ws140.advance
    T).fuses) ∧ (matchRx ws141 0 (parseFrame (rxItem (List.replicate 60 0#8)).data).ipDst (n16 (rxItem (List.replicate 60
    0#8)).data ((parseFrame (rxItem (List.replicate 60 0#8)).data).l4 + 2)) = none) ∧ (96 ≤ ws141.rfld (baseSE + 4) 6 0)) ∧
    ((0 < 2) ∧ (npRole (ws142.advance T) 0 = 0 + 1) ∧ (qPopNow 4 (npFld (ws142.advance T) 0 60 6 0) (ws142.advance T) = (some
    (rxItem bad), ws143)) ∧ (ws143.pending = (ws142.advance T).pending) ∧ (ws143.gts = (ws142.advance T).gts) ∧ (ws143.fuses =
    (ws142.advance T).fuses) ∧ (matchRx ws143 0 (parseFrame (rxItem bad).data).ipDst (n16 (rxItem bad).data ((parseFrame
    (rxItem bad).data).l4 + 2)) = some (3, rxB 65535)) ∧ ((!(parseFrame (rxItem bad).data).frag && ((rxItem bad).err || udpOk
    (rxItem bad).data (parseFrame (rxItem bad).data)) && byteAt (slice (rxItem bad).data ((parseFrame (rxItem bad).data).l4 +
    8) ((parseFrame (rxItem bad).data).ipEnd - ((parseFrame (rxItem bad).data).l4 + 8))) 0 == 128 && byteAt (slice (rxItem
    bad).data ((parseFrame (rxItem bad).data).l4 + 8) ((parseFrame (rxItem bad).data).ipEnd - ((parseFrame (rxItem
    bad).data).l4 + 8))) 1 % 128 == rxPt (rxB 65535) && n32 (slice (rxItem bad).data ((parseFrame (rxItem bad).data).l4 + 8)
    ((parseFrame (rxItem bad).data).ipEnd - ((parseFrame (rxItem bad).data).l4 + 8))) 8 == u32 (rxB 65535) 8 && decide (12 ≤
    (slice (rxItem bad).data ((parseFrame (rxItem bad).data).l4 + 8) ((parseFrame (rxItem bad).data).ipEnd - ((parseFrame
    (rxItem bad).data).l4 + 8))).length)) = false)) ∧ ((0 < 2) ∧ (npRole (ws144.advance T) 0 = 0 + 1) ∧ (qPopNow 4 (npFld
    (ws144.advance T) 0 60 6 0) (ws144.advance T) = (some (err1 (rxItem pkt)), ws145)) ∧ (ws145.pending = (ws144.advance
    T).pending) ∧ (ws145.gts = (ws144.advance T).gts) ∧ (ws145.fuses = (ws144.advance T).fuses) ∧ (matchRx ws145 0 (parseFrame
    (err1 (rxItem pkt)).data).ipDst (n16 (err1 (rxItem pkt)).data ((parseFrame (err1 (rxItem pkt)).data).l4 + 2)) = some (3,
    rxB 65535)) ∧ ((!(parseFrame (err1 (rxItem pkt)).data).frag && ((err1 (rxItem pkt)).err || udpOk (err1 (rxItem pkt)).data
    (parseFrame (err1 (rxItem pkt)).data)) && byteAt (slice (err1 (rxItem pkt)).data ((parseFrame (err1 (rxItem pkt)).data).l4
    + 8) ((parseFrame (err1 (rxItem pkt)).data).ipEnd - ((parseFrame (err1 (rxItem pkt)).data).l4 + 8))) 0 == 128 && byteAt
    (slice (err1 (rxItem pkt)).data ((parseFrame (err1 (rxItem pkt)).data).l4 + 8) ((parseFrame (err1 (rxItem
    pkt)).data).ipEnd - ((parseFrame (err1 (rxItem pkt)).data).l4 + 8))) 1 % 128 == rxPt (rxB 65535) && n32 (slice (err1
    (rxItem pkt)).data ((parseFrame (err1 (rxItem pkt)).data).l4 + 8) ((parseFrame (err1 (rxItem pkt)).data).ipEnd -
    ((parseFrame (err1 (rxItem pkt)).data).l4 + 8))) 8 == u32 (rxB 65535) 8 && decide (12 ≤ (slice (err1 (rxItem pkt)).data
    ((parseFrame (err1 (rxItem pkt)).data).l4 + 8) ((parseFrame (err1 (rxItem pkt)).data).ipEnd - ((parseFrame (err1 (rxItem
    pkt)).data).l4 + 8))).length)) = true) ∧ ((err1 (rxItem pkt)).err = true) ∧ (directOf ws145 3 = [])) ∧ ((0 < 2) ∧ (npRole
    (ws146.advance T) 0 = 0 + 1) ∧ (qPopNow 4 (npFld (ws146.advance T) 0 60 6 0) (ws146.advance T) = (some (rxItem (udp (rtp 7
    0))), ws147)) ∧ (ws147.pending = (ws146.advance T).pending) ∧ (ws147.gts = (ws146.advance T).gts) ∧ (ws147.fuses =
    (ws146.advance T).fuses) ∧ (matchRx ws147 0 (parseFrame (rxItem (udp (rtp 7 0))).data).ipDst (n16 (rxItem (udp (rtp 7
    0))).data ((parseFrame (rxItem (udp (rtp 7 0))).data).l4 + 2)) = some (3, rxB 65535)) ∧ ((!(parseFrame (rxItem (udp (rtp 7
    0))).data).frag && ((rxItem (udp (rtp 7 0))).err || udpOk (rxItem (udp (rtp 7 0))).data (parseFrame (rxItem (udp (rtp 7
    0))).data)) && byteAt (slice (rxItem (udp (rtp 7 0))).data ((parseFrame (rxItem (udp (rtp 7 0))).data).l4 + 8)
    ((parseFrame (rxItem (udp (rtp 7 0))).data).ipEnd - ((parseFrame (rxItem (udp (rtp 7 0))).data).l4 + 8))) 0 == 128 &&
    byteAt (slice (rxItem (udp (rtp 7 0))).data ((parseFrame (rxItem (udp (rtp 7 0))).data).l4 + 8) ((parseFrame (rxItem (udp
    (rtp 7 0))).data).ipEnd - ((parseFrame (rxItem (udp (rtp 7 0))).data).l4 + 8))) 1 % 128 == rxPt (rxB 65535) && n32 (slice
    (rxItem (udp (rtp 7 0))).data ((parseFrame (rxItem (udp (rtp 7 0))).data).l4 + 8) ((parseFrame (rxItem (udp (rtp 7
    0))).data).ipEnd - ((parseFrame (rxItem (udp (rtp 7 0))).data).l4 + 8))) 8 == u32 (rxB 65535) 8 && decide (12 ≤ (slice
    (rxItem (udp (rtp 7 0))).data ((parseFrame (rxItem (udp (rtp 7 0))).data).l4 + 8) ((parseFrame (rxItem (udp (rtp 7
    0))).data).ipEnd - ((parseFrame (rxItem (udp (rtp 7 0))).data).l4 + 8))).length)) = true) ∧ ((rxItem (udp (rtp 7 0))).err
    = false) ∧ ((ws147.rx 3).redLostAt = 0) ∧ ((ws147.rx 3).blueLostAt = 0) ∧ (lenOk ws147 (rxB 65535) (List.drop 12 (slice
    (rxItem (udp (rtp 7 0))).data ((parseFrame (rxItem (udp (rtp 7 0))).data).l4 + 8) ((parseFrame (rxItem (udp (rtp 7
    0))).data).ipEnd - ((parseFrame (rxItem (udp (rtp 7 0))).data).l4 + 8)))).length = false)) ∧ ((0 < 2) ∧ (npRole
    (ws148.advance T) 0 = 0 + 1) ∧ (qPopNow 4 (npFld (ws148.advance T) 0 60 6 0) (ws148.advance T) = (some (rxItem pkt),
    ws149)) ∧ (ws149.pending = (ws148.advance T).pending) ∧ (ws149.gts = (ws148.advance T).gts) ∧ (ws149.fuses =
    (ws148.advance T).fuses) ∧ (matchRx ws149 0 (parseFrame (rxItem pkt).data).ipDst (n16 (rxItem pkt).data ((parseFrame
    (rxItem pkt).data).l4 + 2)) = some (3, rxB 65535)) ∧ ((!(parseFrame (rxItem pkt).data).frag && ((rxItem pkt).err || udpOk
    (rxItem pkt).data (parseFrame (rxItem pkt).data)) && byteAt (slice (rxItem pkt).data ((parseFrame (rxItem pkt).data).l4 +
    8) ((parseFrame (rxItem pkt).data).ipEnd - ((parseFrame (rxItem pkt).data).l4 + 8))) 0 == 128 && byteAt (slice (rxItem
    pkt).data ((parseFrame (rxItem pkt).data).l4 + 8) ((parseFrame (rxItem pkt).data).ipEnd - ((parseFrame (rxItem
    pkt).data).l4 + 8))) 1 % 128 == rxPt (rxB 65535) && n32 (slice (rxItem pkt).data ((parseFrame (rxItem pkt).data).l4 + 8)
    ((parseFrame (rxItem pkt).data).ipEnd - ((parseFrame (rxItem pkt).data).l4 + 8))) 8 == u32 (rxB 65535) 8 && decide (12 ≤
    (slice (rxItem pkt).data ((parseFrame (rxItem pkt).data).l4 + 8) ((parseFrame (rxItem pkt).data).ipEnd - ((parseFrame
    (rxItem pkt).data).l4 + 8))).length)) = true) ∧ ((rxItem pkt).err = false) ∧ ((ws149.rx 3).redLostAt = 0) ∧ ((ws149.rx
    3).blueLostAt = 0) ∧ (lenOk ws149 (rxB 65535) (List.drop 12 (slice (rxItem pkt).data ((parseFrame (rxItem pkt).data).l4 +
    8) ((parseFrame (rxItem pkt).data).ipEnd - ((parseFrame (rxItem pkt).data).l4 + 8)))).length = true) ∧ (fmtOf (rxCtl (rxB
    65535)) ≠ 2) ∧ ((ws149.rx 3).waiting = []) ∧ ((ws149.se.direct.any fun d => d.stream == 3 && d.seq == n16 (slice (rxItem
    pkt).data ((parseFrame (rxItem pkt).data).l4 + 8) ((parseFrame (rxItem pkt).data).ipEnd - ((parseFrame (rxItem
    pkt).data).l4 + 8))) 2 && d.leg != 0) = false) ∧ (ws149.mediaOf ws149.now < cutOffOf (playsIn (rxB 65535) (ws149.rx 3)
    ({ st := 2, legs := 2 ^ 0, leg := 0, ts := n32 (slice (rxItem pkt).data ((parseFrame (rxItem pkt).data).l4 + 8) ((parseFrame (rxItem pkt).data).ipEnd - ((parseFrame (rxItem pkt).data).l4 + 8))) 4, m := bit (byteAt (slice (rxItem pkt).data ((parseFrame (rxItem pkt).data).l4 + 8) ((parseFrame (rxItem pkt).data).ipEnd - ((parseFrame (rxItem pkt).data).l4 + 8))) 1) 7, gts := ws149.now, first := sampleIndex (mediaSamples (ws149.mediaOf ws149.now) (rate96 (rxCtl (rxB 65535)))) (n32 (slice (rxItem pkt).data ((parseFrame (rxItem pkt).data).l4 + 8) ((parseFrame (rxItem pkt).data).ipEnd - ((parseFrame (rxItem pkt).data).l4 + 8))) 4) (rxTsOff (rxB 65535)), len := (slice (rxItem pkt).data ((parseFrame (rxItem pkt).data).l4 + 8) ((parseFrame (rxItem pkt).data).ipEnd - ((parseFrame (rxItem pkt).data).l4 + 8))).length, seq := n16 (slice (rxItem pkt).data ((parseFrame (rxItem pkt).data).l4 + 8) ((parseFrame (rxItem pkt).data).ipEnd - ((parseFrame (rxItem pkt).data).l4 + 8))) 2 }
    : MergeRec).first)) ∧ (playsIn (rxB 65535) (ws149.rx 3)
    ({ st := 2, legs := 2 ^ 0, leg := 0, ts := n32 (slice (rxItem pkt).data ((parseFrame (rxItem pkt).data).l4 + 8) ((parseFrame (rxItem pkt).data).ipEnd - ((parseFrame (rxItem pkt).data).l4 + 8))) 4, m := bit (byteAt (slice (rxItem pkt).data ((parseFrame (rxItem pkt).data).l4 + 8) ((parseFrame (rxItem pkt).data).ipEnd - ((parseFrame (rxItem pkt).data).l4 + 8))) 1) 7, gts := ws149.now, first := sampleIndex (mediaSamples (ws149.mediaOf ws149.now) (rate96 (rxCtl (rxB 65535)))) (n32 (slice (rxItem pkt).data ((parseFrame (rxItem pkt).data).l4 + 8) ((parseFrame (rxItem pkt).data).ipEnd - ((parseFrame (rxItem pkt).data).l4 + 8))) 4) (rxTsOff (rxB 65535)), len := (slice (rxItem pkt).data ((parseFrame (rxItem pkt).data).l4 + 8) ((parseFrame (rxItem pkt).data).ipEnd - ((parseFrame (rxItem pkt).data).l4 + 8))).length, seq := n16 (slice (rxItem pkt).data ((parseFrame (rxItem pkt).data).l4 + 8) ((parseFrame (rxItem pkt).data).ipEnd - ((parseFrame (rxItem pkt).data).l4 + 8))) 2 }
    : MergeRec).first ≤ currentEll (ws149.mediaOf ws149.now) + ↑(jbMax (rxB 65535) + ptimeElls (rxCtl (rxB 65535)))) ∧
    (Option.all (fun h => decide (0 < sgn 16 (n16 (slice (rxItem pkt).data ((parseFrame (rxItem pkt).data).l4 + 8)
    ((parseFrame (rxItem pkt).data).ipEnd - ((parseFrame (rxItem pkt).data).l4 + 8))) 2 + 65536 - h))) (ws149.rx 3).high =
    true) ∧ (rxSrtp (rxB 65535) = false) ∧ (directOf ws149 3 = [])) ∧ ((0 < 2) ∧ (npRole (ws150.advance T) 0 = 0 + 1) ∧
    (qPopNow 4 (npFld (ws150.advance T) 0 60 6 0) (ws150.advance T) = (some (rxItem sealed1), ws151)) ∧ (ws151.pending =
    (ws150.advance T).pending) ∧ (ws151.gts = (ws150.advance T).gts) ∧ (ws151.fuses = (ws150.advance T).fuses) ∧ (matchRx
    ws151 0 (parseFrame (rxItem sealed1).data).ipDst (n16 (rxItem sealed1).data ((parseFrame (rxItem sealed1).data).l4 + 2)) =
    some (3, rxB 1)) ∧ ((!(parseFrame (rxItem sealed1).data).frag && ((rxItem sealed1).err || udpOk (rxItem sealed1).data
    (parseFrame (rxItem sealed1).data)) && byteAt (slice (rxItem sealed1).data ((parseFrame (rxItem sealed1).data).l4 + 8)
    ((parseFrame (rxItem sealed1).data).ipEnd - ((parseFrame (rxItem sealed1).data).l4 + 8))) 0 == 128 && byteAt (slice
    (rxItem sealed1).data ((parseFrame (rxItem sealed1).data).l4 + 8) ((parseFrame (rxItem sealed1).data).ipEnd - ((parseFrame
    (rxItem sealed1).data).l4 + 8))) 1 % 128 == rxPt (rxB 1) && n32 (slice (rxItem sealed1).data ((parseFrame (rxItem
    sealed1).data).l4 + 8) ((parseFrame (rxItem sealed1).data).ipEnd - ((parseFrame (rxItem sealed1).data).l4 + 8))) 8 == u32
    (rxB 1) 8 && decide (12 ≤ (slice (rxItem sealed1).data ((parseFrame (rxItem sealed1).data).l4 + 8) ((parseFrame (rxItem
    sealed1).data).ipEnd - ((parseFrame (rxItem sealed1).data).l4 + 8))).length)) = true) ∧ ((rxItem sealed1).err = false) ∧
    ((ws151.rx 3).redLostAt = 0) ∧ ((ws151.rx 3).blueLostAt = 0) ∧ (lenOk ws151 (rxB 1) (List.drop 12 (slice (rxItem
    sealed1).data ((parseFrame (rxItem sealed1).data).l4 + 8) ((parseFrame (rxItem sealed1).data).ipEnd - ((parseFrame (rxItem
    sealed1).data).l4 + 8)))).length = true) ∧ (fmtOf (rxCtl (rxB 1)) ≠ 2) ∧ ((ws151.rx 3).waiting = []) ∧
    ((ws151.se.direct.any fun d => d.stream == 3 && d.seq == n16 (slice (rxItem sealed1).data ((parseFrame (rxItem
    sealed1).data).l4 + 8) ((parseFrame (rxItem sealed1).data).ipEnd - ((parseFrame (rxItem sealed1).data).l4 + 8))) 2 &&
    d.leg != 0) = false) ∧ (ws151.mediaOf ws151.now < cutOffOf (playsIn (rxB 1) (ws151.rx 3)
    ({ st := 2, legs := 2 ^ 0, leg := 0, ts := n32 (slice (rxItem sealed1).data ((parseFrame (rxItem sealed1).data).l4 + 8) ((parseFrame (rxItem sealed1).data).ipEnd - ((parseFrame (rxItem sealed1).data).l4 + 8))) 4, m := bit (byteAt (slice (rxItem sealed1).data ((parseFrame (rxItem sealed1).data).l4 + 8) ((parseFrame (rxItem sealed1).data).ipEnd - ((parseFrame (rxItem sealed1).data).l4 + 8))) 1) 7, gts := ws151.now, first := sampleIndex (mediaSamples (ws151.mediaOf ws151.now) (rate96 (rxCtl (rxB 1)))) (n32 (slice (rxItem sealed1).data ((parseFrame (rxItem sealed1).data).l4 + 8) ((parseFrame (rxItem sealed1).data).ipEnd - ((parseFrame (rxItem sealed1).data).l4 + 8))) 4) (rxTsOff (rxB 1)), len := (slice (rxItem sealed1).data ((parseFrame (rxItem sealed1).data).l4 + 8) ((parseFrame (rxItem sealed1).data).ipEnd - ((parseFrame (rxItem sealed1).data).l4 + 8))).length, seq := n16 (slice (rxItem sealed1).data ((parseFrame (rxItem sealed1).data).l4 + 8) ((parseFrame (rxItem sealed1).data).ipEnd - ((parseFrame (rxItem sealed1).data).l4 + 8))) 2 }
    : MergeRec).first)) ∧ (playsIn (rxB 1) (ws151.rx 3)
    ({ st := 2, legs := 2 ^ 0, leg := 0, ts := n32 (slice (rxItem sealed1).data ((parseFrame (rxItem sealed1).data).l4 + 8) ((parseFrame (rxItem sealed1).data).ipEnd - ((parseFrame (rxItem sealed1).data).l4 + 8))) 4, m := bit (byteAt (slice (rxItem sealed1).data ((parseFrame (rxItem sealed1).data).l4 + 8) ((parseFrame (rxItem sealed1).data).ipEnd - ((parseFrame (rxItem sealed1).data).l4 + 8))) 1) 7, gts := ws151.now, first := sampleIndex (mediaSamples (ws151.mediaOf ws151.now) (rate96 (rxCtl (rxB 1)))) (n32 (slice (rxItem sealed1).data ((parseFrame (rxItem sealed1).data).l4 + 8) ((parseFrame (rxItem sealed1).data).ipEnd - ((parseFrame (rxItem sealed1).data).l4 + 8))) 4) (rxTsOff (rxB 1)), len := (slice (rxItem sealed1).data ((parseFrame (rxItem sealed1).data).l4 + 8) ((parseFrame (rxItem sealed1).data).ipEnd - ((parseFrame (rxItem sealed1).data).l4 + 8))).length, seq := n16 (slice (rxItem sealed1).data ((parseFrame (rxItem sealed1).data).l4 + 8) ((parseFrame (rxItem sealed1).data).ipEnd - ((parseFrame (rxItem sealed1).data).l4 + 8))) 2 }
    : MergeRec).first ≤ currentEll (ws151.mediaOf ws151.now) + ↑(jbMax (rxB 1) + ptimeElls (rxCtl (rxB 1)))) ∧ (Option.all
    (fun h => decide (0 < sgn 16 (n16 (slice (rxItem sealed1).data ((parseFrame (rxItem sealed1).data).l4 + 8) ((parseFrame
    (rxItem sealed1).data).ipEnd - ((parseFrame (rxItem sealed1).data).l4 + 8))) 2 + 65536 - h))) (ws151.rx 3).high = true) ∧
    (rxSrtp (rxB 1) = true) ∧ (directOf ws151 3 = [])) ∧ ((0 < 2) ∧ (npRole (relaying.advance T) 0 = 0 + 1) ∧ (qPopNow 4
    (npFld (relaying.advance T) 0 60 6 0) (relaying.advance T) = (some (rxItem pkt), ws152)) ∧ (ws152.pending =
    (relaying.advance T).pending) ∧ (ws152.gts = (relaying.advance T).gts) ∧ (ws152.fuses = (relaying.advance T).fuses) ∧
    (matchRx ws152 0 (parseFrame (rxItem pkt).data).ipDst (n16 (rxItem pkt).data ((parseFrame (rxItem pkt).data).l4 + 2)) =
    some (3, rxB 65535)) ∧ ((!(parseFrame (rxItem pkt).data).frag && ((rxItem pkt).err || udpOk (rxItem pkt).data (parseFrame
    (rxItem pkt).data)) && byteAt (slice (rxItem pkt).data ((parseFrame (rxItem pkt).data).l4 + 8) ((parseFrame (rxItem
    pkt).data).ipEnd - ((parseFrame (rxItem pkt).data).l4 + 8))) 0 == 128 && byteAt (slice (rxItem pkt).data ((parseFrame
    (rxItem pkt).data).l4 + 8) ((parseFrame (rxItem pkt).data).ipEnd - ((parseFrame (rxItem pkt).data).l4 + 8))) 1 % 128 ==
    rxPt (rxB 65535) && n32 (slice (rxItem pkt).data ((parseFrame (rxItem pkt).data).l4 + 8) ((parseFrame (rxItem
    pkt).data).ipEnd - ((parseFrame (rxItem pkt).data).l4 + 8))) 8 == u32 (rxB 65535) 8 && decide (12 ≤ (slice (rxItem
    pkt).data ((parseFrame (rxItem pkt).data).l4 + 8) ((parseFrame (rxItem pkt).data).ipEnd - ((parseFrame (rxItem
    pkt).data).l4 + 8))).length)) = true) ∧ ((rxItem pkt).err = false) ∧ ((ws152.rx 3).redLostAt = 0) ∧ ((ws152.rx
    3).blueLostAt = 0) ∧ (lenOk ws152 (rxB 65535) (List.drop 12 (slice (rxItem pkt).data ((parseFrame (rxItem pkt).data).l4 +
    8) ((parseFrame (rxItem pkt).data).ipEnd - ((parseFrame (rxItem pkt).data).l4 + 8)))).length = true) ∧ (fmtOf (rxCtl (rxB
    65535)) ≠ 2) ∧ ((ws152.rx 3).waiting = []) ∧ ((ws152.se.direct.any fun d => d.stream == 3 && d.seq == n16 (slice (rxItem
    pkt).data ((parseFrame (rxItem pkt).data).l4 + 8) ((parseFrame (rxItem pkt).data).ipEnd - ((parseFrame (rxItem
    pkt).data).l4 + 8))) 2 && d.leg != 0) = false) ∧ (ws152.mediaOf ws152.now < cutOffOf (playsIn (rxB 65535) (ws152.rx 3)
    ({ st := 2, legs := 2 ^ 0, leg := 0, ts := n32 (slice (rxItem pkt).data ((parseFrame (rxItem pkt).data).l4 + 8) ((parseFrame (rxItem pkt).data).ipEnd - ((parseFrame (rxItem pkt).data).l4 + 8))) 4, m := bit (byteAt (slice (rxItem pkt).data ((parseFrame (rxItem pkt).data).l4 + 8) ((parseFrame (rxItem pkt).data).ipEnd - ((parseFrame (rxItem pkt).data).l4 + 8))) 1) 7, gts := ws152.now, first := sampleIndex (mediaSamples (ws152.mediaOf ws152.now) (rate96 (rxCtl (rxB 65535)))) (n32 (slice (rxItem pkt).data ((parseFrame (rxItem pkt).data).l4 + 8) ((parseFrame (rxItem pkt).data).ipEnd - ((parseFrame (rxItem pkt).data).l4 + 8))) 4) (rxTsOff (rxB 65535)), len := (slice (rxItem pkt).data ((parseFrame (rxItem pkt).data).l4 + 8) ((parseFrame (rxItem pkt).data).ipEnd - ((parseFrame (rxItem pkt).data).l4 + 8))).length, seq := n16 (slice (rxItem pkt).data ((parseFrame (rxItem pkt).data).l4 + 8) ((parseFrame (rxItem pkt).data).ipEnd - ((parseFrame (rxItem pkt).data).l4 + 8))) 2 }
    : MergeRec).first)) ∧ (playsIn (rxB 65535) (ws152.rx 3)
    ({ st := 2, legs := 2 ^ 0, leg := 0, ts := n32 (slice (rxItem pkt).data ((parseFrame (rxItem pkt).data).l4 + 8) ((parseFrame (rxItem pkt).data).ipEnd - ((parseFrame (rxItem pkt).data).l4 + 8))) 4, m := bit (byteAt (slice (rxItem pkt).data ((parseFrame (rxItem pkt).data).l4 + 8) ((parseFrame (rxItem pkt).data).ipEnd - ((parseFrame (rxItem pkt).data).l4 + 8))) 1) 7, gts := ws152.now, first := sampleIndex (mediaSamples (ws152.mediaOf ws152.now) (rate96 (rxCtl (rxB 65535)))) (n32 (slice (rxItem pkt).data ((parseFrame (rxItem pkt).data).l4 + 8) ((parseFrame (rxItem pkt).data).ipEnd - ((parseFrame (rxItem pkt).data).l4 + 8))) 4) (rxTsOff (rxB 65535)), len := (slice (rxItem pkt).data ((parseFrame (rxItem pkt).data).l4 + 8) ((parseFrame (rxItem pkt).data).ipEnd - ((parseFrame (rxItem pkt).data).l4 + 8))).length, seq := n16 (slice (rxItem pkt).data ((parseFrame (rxItem pkt).data).l4 + 8) ((parseFrame (rxItem pkt).data).ipEnd - ((parseFrame (rxItem pkt).data).l4 + 8))) 2 }
    : MergeRec).first ≤ currentEll (ws152.mediaOf ws152.now) + ↑(jbMax (rxB 65535) + ptimeElls (rxCtl (rxB 65535)))) ∧
    (Option.all (fun h => decide (0 < sgn 16 (n16 (slice (rxItem pkt).data ((parseFrame (rxItem pkt).data).l4 + 8)
    ((parseFrame (rxItem pkt).data).ipEnd - ((parseFrame (rxItem pkt).data).l4 + 8))) 2 + 65536 - h))) (ws152.rx 3).high =
    true) ∧ (ws152.mediaOn = true) ∧ (directOf ws152 3 = [ws153]) ∧ (1 < 2) ∧ (byteAt ws153.snd 2 = 2 ^ 1) ∧ (portOfRole ws152
    (1 + 1) = some 1)) ∧ ((0 < 2) ∧ (npRole (ws154.advance T) 0 = 0 + 1) ∧ (qPopNow 4 (npFld (ws154.advance T) 0 60 6 0)
    (ws154.advance T) = (some (rxItem pkt), ws155)) ∧ (ws155.pending = (ws154.advance T).pending) ∧ (ws155.gts =
    (ws154.advance T).gts) ∧ (ws155.fuses = (ws154.advance T).fuses) ∧ (matchRx ws155 0 (parseFrame (rxItem pkt).data).ipDst
    (n16 (rxItem pkt).data ((parseFrame (rxItem pkt).data).l4 + 2)) = some (3, rxB 65535)) ∧ ((!(parseFrame (rxItem
    pkt).data).frag && ((rxItem pkt).err || udpOk (rxItem pkt).data (parseFrame (rxItem pkt).data)) && byteAt (slice (rxItem
    pkt).data ((parseFrame (rxItem pkt).data).l4 + 8) ((parseFrame (rxItem pkt).data).ipEnd - ((parseFrame (rxItem
    pkt).data).l4 + 8))) 0 == 128 && byteAt (slice (rxItem pkt).data ((parseFrame (rxItem pkt).data).l4 + 8) ((parseFrame
    (rxItem pkt).data).ipEnd - ((parseFrame (rxItem pkt).data).l4 + 8))) 1 % 128 == rxPt (rxB 65535) && n32 (slice (rxItem
    pkt).data ((parseFrame (rxItem pkt).data).l4 + 8) ((parseFrame (rxItem pkt).data).ipEnd - ((parseFrame (rxItem
    pkt).data).l4 + 8))) 8 == u32 (rxB 65535) 8 && decide (12 ≤ (slice (rxItem pkt).data ((parseFrame (rxItem pkt).data).l4 +
    8) ((parseFrame (rxItem pkt).data).ipEnd - ((parseFrame (rxItem pkt).data).l4 + 8))).length)) = true) ∧ ((rxItem pkt).err
    = false) ∧ ((ws155.rx 3).redLostAt = 0) ∧ ((ws155.rx 3).blueLostAt = 0) ∧ (lenOk ws155 (rxB 65535) (List.drop 12 (slice
    (rxItem pkt).data ((parseFrame (rxItem pkt).data).l4 + 8) ((parseFrame (rxItem pkt).data).ipEnd - ((parseFrame (rxItem
    pkt).data).l4 + 8)))).length = true) ∧ (fmtOf (rxCtl (rxB 65535)) ≠ 2) ∧ ((ws155.rx 3).waiting = []) ∧
    ((ws155.se.direct.any fun d => d.stream == 3 && d.seq == n16 (slice (rxItem pkt).data ((parseFrame (rxItem pkt).data).l4 +
    8) ((parseFrame (rxItem pkt).data).ipEnd - ((parseFrame (rxItem pkt).data).l4 + 8))) 2 && d.leg != 0) = false) ∧
    (ws155.mediaOf ws155.now < cutOffOf (playsIn (rxB 65535) (ws155.rx 3)
    ({ st := 2, legs := 2 ^ 0, leg := 0, ts := n32 (slice (rxItem pkt).data ((parseFrame (rxItem pkt).data).l4 + 8) ((parseFrame (rxItem pkt).data).ipEnd - ((parseFrame (rxItem pkt).data).l4 + 8))) 4, m := bit (byteAt (slice (rxItem pkt).data ((parseFrame (rxItem pkt).data).l4 + 8) ((parseFrame (rxItem pkt).data).ipEnd - ((parseFrame (rxItem pkt).data).l4 + 8))) 1) 7, gts := ws155.now, first := sampleIndex (mediaSamples (ws155.mediaOf ws155.now) (rate96 (rxCtl (rxB 65535)))) (n32 (slice (rxItem pkt).data ((parseFrame (rxItem pkt).data).l4 + 8) ((parseFrame (rxItem pkt).data).ipEnd - ((parseFrame (rxItem pkt).data).l4 + 8))) 4) (rxTsOff (rxB 65535)), len := (slice (rxItem pkt).data ((parseFrame (rxItem pkt).data).l4 + 8) ((parseFrame (rxItem pkt).data).ipEnd - ((parseFrame (rxItem pkt).data).l4 + 8))).length, seq := n16 (slice (rxItem pkt).data ((parseFrame (rxItem pkt).data).l4 + 8) ((parseFrame (rxItem pkt).data).ipEnd - ((parseFrame (rxItem pkt).data).l4 + 8))) 2 }
    : MergeRec).first)) ∧ (playsIn (rxB 65535) (ws155.rx 3)
    ({ st := 2, legs := 2 ^ 0, leg := 0, ts := n32 (slice (rxItem pkt).data ((parseFrame (rxItem pkt).data).l4 + 8) ((parseFrame (rxItem pkt).data).ipEnd - ((parseFrame (rxItem pkt).data).l4 + 8))) 4, m := bit (byteAt (slice (rxItem pkt).data ((parseFrame (rxItem pkt).data).l4 + 8) ((parseFrame (rxItem pkt).data).ipEnd - ((parseFrame (rxItem pkt).data).l4 + 8))) 1) 7, gts := ws155.now, first := sampleIndex (mediaSamples (ws155.mediaOf ws155.now) (rate96 (rxCtl (rxB 65535)))) (n32 (slice (rxItem pkt).data ((parseFrame (rxItem pkt).data).l4 + 8) ((parseFrame (rxItem pkt).data).ipEnd - ((parseFrame (rxItem pkt).data).l4 + 8))) 4) (rxTsOff (rxB 65535)), len := (slice (rxItem pkt).data ((parseFrame (rxItem pkt).data).l4 + 8) ((parseFrame (rxItem pkt).data).ipEnd - ((parseFrame (rxItem pkt).data).l4 + 8))).length, seq := n16 (slice (rxItem pkt).data ((parseFrame (rxItem pkt).data).l4 + 8) ((parseFrame (rxItem pkt).data).ipEnd - ((parseFrame (rxItem pkt).data).l4 + 8))) 2 }
    : MergeRec).first ≤ currentEll (ws155.mediaOf ws155.now) + ↑(jbMax (rxB 65535) + ptimeElls (rxCtl (rxB 65535)))) ∧
    ((ws155.rx 3).high = some (n16 (slice (rxItem pkt).data ((parseFrame (rxItem pkt).data).l4 + 8) ((parseFrame (rxItem
    pkt).data).ipEnd - ((parseFrame (rxItem pkt).data).l4 + 8))) 2)) ∧ ((tget
    { st := 0, legs := 0, leg := 0, ts := 0, m := false, gts := 0, first := 0, len := 0, seq := 0 } (ws155.rx 3).merge (n16
    (slice (rxItem pkt).data ((parseFrame (rxItem pkt).data).l4 + 8) ((parseFrame (rxItem pkt).data).ipEnd - ((parseFrame
    (rxItem pkt).data).l4 + 8))) 2 % 2048)).st = 2) ∧ (bit (tget
    { st := 0, legs := 0, leg := 0, ts := 0, m := false, gts := 0, first := 0, len := 0, seq := 0 } (ws155.rx 3).merge (n16
    (slice (rxItem pkt).data ((parseFrame (rxItem pkt).data).l4 + 8) ((parseFrame (rxItem pkt).data).ipEnd - ((parseFrame
    (rxItem pkt).data).l4 + 8))) 2 % 2048)).legs 0 = true)) ∧ (takeFirst (fun c => (c.stream == 3 && c.leg == if Leg.blue =
    Leg.red then 0 else 1) && c.seq == 7) (ws156.advance T).ce.done = none) ∧ ((takeFirst (fun c => (c.stream == 3 && c.leg ==
    if Leg.red = Leg.red then 0 else 1) && c.seq == 7) (ws156.advance T).ce.done = some (copy true, [])) ∧ (rxEntry
    (ws156.advance T) 3 = some (rxB 1)) ∧ ((copy true).role ≠ CopyRole.compare) ∧ (fmtOf (rxCtl (rxB 1)) ≠ 2) ∧ ((tget
    { st := 0, legs := 0, leg := 0, ts := 0, m := false, gts := 0, first := 0, len := 0, seq := 0 } ((ws156.advance T).rx
    3).merge (7 % 2048)).st = 1) ∧ ((tget
    { st := 0, legs := 0, leg := 0, ts := 0, m := false, gts := 0, first := 0, len := 0, seq := 0 } ((ws156.advance T).rx
    3).merge (7 % 2048)).seq = 7) ∧ ((tget
    { st := 0, legs := 0, leg := 0, ts := 0, m := false, gts := 0, first := 0, len := 0, seq := 0 } ((ws156.advance T).rx
    3).merge (7 % 2048)).leg = if Leg.red = Leg.red then 0 else 1) ∧ (((ws156.advance T).rx 3).waiting = []) ∧ ((ws156.advance
    T).se.direct = []) ∧ (directOf (ws156.advance T) 3 = []) ∧ ((copy true).ok = true)) ∧ ((takeFirst (fun c => (c.stream == 3
    && c.leg == if Leg.red = Leg.red then 0 else 1) && c.seq == 7) (ws157.advance T).ce.done = some (copy false, [])) ∧
    (rxEntry (ws157.advance T) 3 = some (rxB 1)) ∧ ((copy false).role ≠ CopyRole.compare) ∧ (fmtOf (rxCtl (rxB 1)) ≠ 2) ∧
    ((tget { st := 0, legs := 0, leg := 0, ts := 0, m := false, gts := 0, first := 0, len := 0, seq := 0 } ((ws157.advance
    T).rx 3).merge (7 % 2048)).st = 1) ∧ ((tget
    { st := 0, legs := 0, leg := 0, ts := 0, m := false, gts := 0, first := 0, len := 0, seq := 0 } ((ws157.advance T).rx
    3).merge (7 % 2048)).seq = 7) ∧ ((tget
    { st := 0, legs := 0, leg := 0, ts := 0, m := false, gts := 0, first := 0, len := 0, seq := 0 } ((ws157.advance T).rx
    3).merge (7 % 2048)).leg = if Leg.red = Leg.red then 0 else 1) ∧ (((ws157.advance T).rx 3).waiting = []) ∧ ((ws157.advance
    T).se.direct = []) ∧ (directOf (ws157.advance T) 3 = []) ∧ ((copy false).ok = false)) ∧ (((ws158.advance T).recNow tyRX 3
    = some (rxB 1)) ∧ (((ws158.advance T).rx 3).redLostAt ≠ 0)) ∧ (((ws158.advance T).recNow tyRX 3 = some (rxB 1)) ∧
    (((ws158.advance T).rx 3).blueLostAt ≠ 0)) ∧ (((ws159.advance T).recNow tyRX 3 = some (rxB 1)) ∧ (legExists (ws159.advance
    T) (rxB 1) 0 = true) ∧ (legExists (ws159.advance T) (rxB 1) 1 = true) ∧ (((ws159.advance T).rx 3).redLostAt = 0) ∧
    (((ws159.advance T).rx 3).redSeen + 8 * ptimeElls (rxCtl (rxB 1)) * 500000 ≤ (ws159.advance T).now + 1) ∧ (((ws159.advance
    T).rx 3).blueSeen ≠ 0) ∧ ((ws159.advance T).now < ((ws159.advance T).rx 3).blueSeen + 8 * ptimeElls (rxCtl (rxB 1)) *
    500000)) ∧ (((ws160.advance T).recNow tyRX 3 = some (rxB 1)) ∧ (legExists (ws160.advance T) (rxB 1) 0 = true) ∧ (legExists
    (ws160.advance T) (rxB 1) 1 = true) ∧ (((ws160.advance T).rx 3).blueLostAt = 0) ∧ (((ws160.advance T).rx 3).blueSeen + 8 *
    ptimeElls (rxCtl (rxB 1)) * 500000 ≤ (ws160.advance T).now + 1) ∧ (((ws160.advance T).rx 3).redSeen ≠ 0) ∧ ((ws160.advance
    T).now < ((ws160.advance T).rx 3).redSeen + 8 * ptimeElls (rxCtl (rxB 1)) * 500000)) := by and_intros <;> decide +kernel

theorem witness_depthAdaptsAndPacketsAreBuilt :
    (((ws161.advance T).recNow tyRX 3 = some (rxB 1)) ∧ ((ws161.advance T).elapsed % max 1 ((ws161.advance T).rfld baseSE 15
    0) ≠ 0 ∨ ((ws161.advance T).rx 3).adaptEll = (ws161.advance T).elapsed + 1)) ∧ (((ws162.advance T).recNow tyRX 3 = some
    (rxB 1)) ∧ ((ws162.advance T).elapsed % max 1 ((ws162.advance T).rfld baseSE 15 0) = 0) ∧ (((ws162.advance T).rx
    3).adaptEll ≠ (ws162.advance T).elapsed + 1) ∧ (((ws162.advance T).rx 3).ofs ≠ 0) ∧ (bit (rxCtl (rxB 1)) 24 = true) ∧ (0 <
    ((ws162.advance T).rx 3).lateN)) ∧ (((ws163.advance T).recNow tyRX 3 = some (rxB 1)) ∧ ((ws163.advance T).elapsed % max 1
    ((ws163.advance T).rfld baseSE 15 0) = 0) ∧ (((ws163.advance T).rx 3).adaptEll ≠ (ws163.advance T).elapsed + 1) ∧
    (((ws163.advance T).rx 3).ofs ≠ 0) ∧ (bit (rxCtl (rxB 1)) 24 = true) ∧ (((ws163.advance T).rx 3).lateN = 0) ∧ (shrinkHeld
    (ws163.advance T) (rxB 1) = true)) ∧ (((ws164.advance T).recNow tyRX 3 = some (rxB 1)) ∧ ((ws164.advance T).elapsed % max
    1 ((ws164.advance T).rfld baseSE 15 0) = 0) ∧ (((ws164.advance T).rx 3).adaptEll ≠ (ws164.advance T).elapsed + 1) ∧
    (((ws164.advance T).rx 3).ofs ≠ 0) ∧ (bit (rxCtl (rxB 1)) 24 = true) ∧ (((ws164.advance T).rx 3).lateN = 0) ∧ (shrinkHeld
    (ws164.advance T) (rxB 1) = false) ∧ (((ws164.advance T).rx 3).hmin.getD 0 < 1000000)) ∧ (((ws165.advance T).recNow tyRX 3
    = some (rxB 1)) ∧ ((ws165.advance T).elapsed % max 1 ((ws165.advance T).rfld baseSE 15 0) = 0) ∧ (((ws165.advance T).rx
    3).adaptEll ≠ (ws165.advance T).elapsed + 1) ∧ (((ws165.advance T).rx 3).ofs ≠ 0) ∧ (bit (rxCtl (rxB 1)) 24 = true) ∧
    (((ws165.advance T).rx 3).lateN = 0) ∧ (shrinkHeld (ws165.advance T) (rxB 1) = false) ∧ (1000000 ≤ ((ws165.advance T).rx
    3).hmin.getD 0) ∧ (((ws165.advance T).rx 3).calm + 1 < (ws165.advance T).rfld baseSE 19 16)) ∧ (((ws166.advance T).recNow
    tyRX 3 = some (rxB 1)) ∧ ((ws166.advance T).elapsed % max 1 ((ws166.advance T).rfld baseSE 15 0) = 0) ∧ (((ws166.advance
    T).rx 3).adaptEll ≠ (ws166.advance T).elapsed + 1) ∧ (((ws166.advance T).rx 3).ofs ≠ 0) ∧ (bit (rxCtl (rxB 1)) 24 = true)
    ∧ (((ws166.advance T).rx 3).lateN = 0) ∧ (shrinkHeld (ws166.advance T) (rxB 1) = false) ∧ (1000000 ≤ ((ws166.advance T).rx
    3).hmin.getD 0) ∧ ((ws166.advance T).rfld baseSE 19 16 ≤ ((ws166.advance T).rx 3).calm + 1)) ∧ (((ws167.advance T).recNow
    tyTX 3 = some (txB 65535)) ∧ ((ws167.advance T).mediaOn = false)) ∧ (((ws168.advance T).recNow tyTX 3 = some (txB 65535))
    ∧ (firstGroup (ptimeElls (rxCtl (txB 65535))) ((ws168.advance T).tx 3).acc = none)) ∧ (((ws169.advance T).recNow tyTX 3 =
    some (txB 65535)) ∧ ((ws169.advance T).mediaOn = true) ∧ (firstGroup (ptimeElls (rxCtl (txB 65535))) ((ws169.advance T).tx
    3).acc = some (70, [group], [])) ∧ (fmtOf (rxCtl (txB 65535)) ≠ 2) ∧ (txCeCtx (txB 65535) = 65535) ∧ (portOfRole
    (ws169.advance T) 1 = none) ∧ (portOfRole (ws169.advance T) 2 = none)) ∧ (((linked.advance T).recNow tyTX 3 = some (txB
    65535)) ∧ ((linked.advance T).mediaOn = true) ∧ (firstGroup (ptimeElls (rxCtl (txB 65535))) ((linked.advance T).tx 3).acc
    = some (70, [group], [])) ∧ (fmtOf (rxCtl (txB 65535)) ≠ 2) ∧ (txCeCtx (txB 65535) = 65535) ∧ (portOfRole (linked.advance
    T) 1 = some 0) ∧ (portOfRole (linked.advance T) 2 = none) ∧ (bit (rxCtl (txB 65535)) 27 = true) ∧ (5 = (linked.advance
    T).rfld (baseSE + 8) 6 0) ∧ (5 < 96) ∧ (qDesc (linked.advance T) 5 = some (qB 5#8 0#8 0#8 0#8 0#8)) ∧ (qProd (qB 5#8 0#8
    0#8 0#8 0#8) = 5) ∧ (qPfc (qB 5#8 0#8 0#8 0#8 0#8) = false) ∧ (netDown (linked.advance T) 0 = false) ∧ (qBusy
    ((linked.advance T).queue 5) = false) ∧ (((linked.advance T).queue 5).popStall = false) ∧ (((linked.advance T).queue
    5).coming = []) ∧ (((linked.advance T).queue 5).dropPend = false) ∧ (qDepth (qB 5#8 0#8 0#8 0#8 0#8) ((linked.advance
    T).queue 5) < qSlots (qB 5#8 0#8 0#8 0#8 0#8)) ∧ (qOcc (qB 5#8 0#8 0#8 0#8 0#8) ((linked.advance T).queue 5) < qSlots (qB
    5#8 0#8 0#8 0#8 0#8))) ∧ (((ws170.advance T).recNow tyTX 3 = some (txB 0)) ∧ ((ws170.advance T).mediaOn = true) ∧
    (firstGroup (ptimeElls (rxCtl (txB 0))) ((ws170.advance T).tx 3).acc = some (70, [group], [])) ∧ (fmtOf (rxCtl (txB 0)) ≠
    2) ∧ (txCeCtx (txB 0) ≠ 65535) ∧ (txReady (ws170.advance T) (txCeCtx (txB 0)) (if ((ws170.advance T).tx 3).started = true
    then ((ws170.advance T).tx 3).seq else u16 (txB 0) 16) = true) ∧ (bothDown (ws170.advance T) = false)) ∧ (((ws171.advance
    T).recNow tyTX 3 = some (txB 0)) ∧ ((ws171.advance T).mediaOn = true) ∧ (firstGroup (ptimeElls (rxCtl (txB 0)))
    ((ws171.advance T).tx 3).acc = some (70, [group], [])) ∧ (fmtOf (rxCtl (txB 0)) ≠ 2) ∧ (txCeCtx (txB 0) ≠ 65535) ∧
    (txReady (ws171.advance T) (txCeCtx (txB 0)) (if ((ws171.advance T).tx 3).started = true then ((ws171.advance T).tx 3).seq
    else u16 (txB 0) 16) = false)) := by and_intros <;> decide +kernel

theorem witness_cutOffAndPlayoutGiveEachEllOnce :
    ((ws172.advance T).se.cutEll = (ws172.advance T).aheadEll 540000 + 1 ∨ (ws172.advance T).audioOn = false) ∧
    (((ws173.advance T).se.cutEll ≠ (ws173.advance T).aheadEll 540000 + 1) ∧ ((ws173.advance T).audioOn = true)) ∧
    (((ws173.advance T).se.cutEll ≠ (ws173.advance T).aheadEll 540000 + 1) ∧ ((ws173.advance T).audioOn = true) ∧ (recsOf
    ((ws173.advance T).recsAt ((ws173.advance T).aheadOld 540000)) tyRX = [(3, rxB 65535)]) ∧ (((ws173.advance T).rx 3).st = 2
    ∨ ((ws173.advance T).rx 3).st = 3) ∧ (expectedAt (rxB 65535) ((ws173.advance T).rx 3) (↑((ws173.advance T).aheadEll
    540000) - ↑(offsetOf (rxB 65535) ((ws173.advance T).rx 3))) = some (1199946, 9)) ∧ ((tget
    { st := 0, legs := 0, leg := 0, ts := 0, m := false, gts := 0, first := 0, len := 0, seq := 0 } ((ws173.advance T).rx
    3).merge (9 % 2048)).seq = 9) ∧ ((tget
    { st := 0, legs := 0, leg := 0, ts := 0, m := false, gts := 0, first := 0, len := 0, seq := 0 } ((ws173.advance T).rx
    3).merge (9 % 2048)).first = 1199946) ∧ ((tget
    { st := 0, legs := 0, leg := 0, ts := 0, m := false, gts := 0, first := 0, len := 0, seq := 0 } ((ws173.advance T).rx
    3).merge (9 % 2048)).st = 1 ∨ (tget
    { st := 0, legs := 0, leg := 0, ts := 0, m := false, gts := 0, first := 0, len := 0, seq := 0 } ((ws173.advance T).rx
    3).merge (9 % 2048)).st = 2)) ∧ (((ws174.advance T).se.cutEll ≠ (ws174.advance T).aheadEll 540000 + 1) ∧ ((ws174.advance
    T).audioOn = true) ∧ (recsOf ((ws174.advance T).recsAt ((ws174.advance T).aheadOld 540000)) tyRX = [(3, rxB 65535)]) ∧
    (((ws174.advance T).rx 3).st = 2 ∨ ((ws174.advance T).rx 3).st = 3) ∧ (expectedAt (rxB 65535) ((ws174.advance T).rx 3)
    (↑((ws174.advance T).aheadEll 540000) - ↑(offsetOf (rxB 65535) ((ws174.advance T).rx 3))) = some (1199946, 9)) ∧ (¬((tget
    { st := 0, legs := 0, leg := 0, ts := 0, m := false, gts := 0, first := 0, len := 0, seq := 0 } ((ws174.advance T).rx
    3).merge (9 % 2048)).seq = 9 ∧ (tget
    { st := 0, legs := 0, leg := 0, ts := 0, m := false, gts := 0, first := 0, len := 0, seq := 0 } ((ws174.advance T).rx
    3).merge (9 % 2048)).first = 1199946 ∧ ((tget
    { st := 0, legs := 0, leg := 0, ts := 0, m := false, gts := 0, first := 0, len := 0, seq := 0 } ((ws174.advance T).rx
    3).merge (9 % 2048)).st = 1 ∨ (tget
    { st := 0, legs := 0, leg := 0, ts := 0, m := false, gts := 0, first := 0, len := 0, seq := 0 } ((ws174.advance T).rx
    3).merge (9 % 2048)).st = 2)))) ∧ ((ws175.advance T).se.playEll = (ws175.advance T).aheadEll 40000 + 1) ∧ ((ws176.advance
    T).se.playEll ≠ (ws176.advance T).aheadEll 40000 + 1) ∧ (((ws172.advance T).audioOn = false) ∧ ((ws172.advance
    T).se.playEll ≠ (ws172.advance T).aheadEll 40000 + 1)) ∧ (((ws177.advance T).audioOn = true) ∧ ((ws177.advance
    T).se.playEll ≠ (ws177.advance T).aheadEll 40000 + 1) ∧ ((ws177.advance T).tb.realign = none) ∧ ((ws177.advance
    T).cfg.deltaK = none) ∧ ((ws177.advance T).cfg.recs = [(recKey tyRX 3, some (rxB 65535))]) ∧ (3 < 1024) ∧ (rxPlay (rxB
    65535) = true) ∧ (rate96 (rxCtl (rxB 65535)) = false) ∧ (rxFirst (rxB 65535) + chOf (rxCtl (rxB 65535)) ≤ 4096) ∧ (fmtOf
    (rxCtl (rxB 65535)) ≠ 2) ∧ (((ws177.advance T).rx 3).st = 0 ∨ ((ws177.advance T).rx 3).st = 4 ∨ ((ws177.advance T).rx
    3).st = 5)) ∧ (((ws176.advance T).audioOn = true) ∧ ((ws176.advance T).se.playEll ≠ (ws176.advance T).aheadEll 40000 + 1)
    ∧ ((ws176.advance T).tb.realign = none) ∧ ((ws176.advance T).cfg.deltaK = none) ∧ ((ws176.advance T).cfg.recs = [(recKey
    tyRX 3, some (rxB 65535))]) ∧ (3 < 1024) ∧ (rxPlay (rxB 65535) = true) ∧ (rate96 (rxCtl (rxB 65535)) = false) ∧ (rxFirst
    (rxB 65535) + chOf (rxCtl (rxB 65535)) ≤ 4096) ∧ (fmtOf (rxCtl (rxB 65535)) ≠ 2) ∧ (((ws176.advance T).rx 3).st = 2) ∧
    (((ws176.advance T).rx 3).gaps = []) ∧ (((ws176.advance T).rx 3).oPrev = offsetOf (rxB 65535) ((ws176.advance T).rx 3) +
    1) ∧ (((ws176.advance T).rx 3).heldElls = 0) ∧ (∀ (ch : Nat), ch < chOf (rxCtl (rxB 65535)) → ∀ (j : Nat), j < 6 →
    Option.any (fun v => !bit v 6) (heldAt (rxB 65535) ((ws176.advance T).rx 3) ch ((↑((ws176.advance T).aheadEll 40000) -
    ↑(offsetOf (rxB 65535) ((ws176.advance T).rx 3))) * 6 + ↑j)) = true)) := by and_intros <;> decide +kernel

theorem witness_theEllTickLogsTripsAndChangesTheMode :
    ((ws0.advance T).sup.tickEll = (ws0.advance T).ell + 1 ∨ (ws0.advance T).sup.mode = Mode.off ∨ (ws0.advance T).sup.mode =
    Mode.standby ∨ (ws0.advance T).sup.mode = Mode.lockdown) ∧ (((ws180.advance T).sup.tickEll ≠ (ws180.advance T).ell + 1) ∧
    (stopped (ws180.advance T).sup.mode = false) ∧ ((ws180.advance T).ha =
    { mem := [], prog := [], cores := [], insts := [], stat := [], pace := (ws180.advance T).ha.pace, noPace := (ws180.advance T).ha.noPace, bankUse := (0, []), take := [], uncovered := [], lib := { tasks := [], cancel := [], enc := [], dec := [] } })
    ∧ ((ws180.advance T).cfg =
    { built := false, recs := [], next := [], deltaK := none, hdr := { delta := false, totalLen := 0, recCount := 0, keySlot := 255, secVersion := 0, configId := 0, baseId := 0, ledger := 0, xfLen := 0, xfLaw := 0 }, measurement := [], commitEll := 0, images := [] })
    ∧ ((ws180.advance T).load =
    { st := 0, owner := Master.host, result := 0, record := 0, bytes := [], piece := [], parsed := 0, hdr := { delta := false, totalLen := 0, recCount := 0, keySlot := 255, secVersion := 0, configId := 0, baseId := 0, ledger := 0, xfLen := 0, xfLaw := 0 }, recs := [], digest := [], k := 0, wait := false, prevMode := Mode.service, fromFlash := false })
    ∧ ((ws180.advance T).tb.realign = none) ∧ ((ws180.advance T).tb.realignReq = false) ∧ ((ws180.advance T).sup.fwOk = false)
    ∧ (ws179.temps = [3, 240, 7]) ∧ ((ws180.advance T).log.fresh = []) ∧ (↑(tTrip (ws180.advance T)) ≤ List.foldl max 3 [3,
    240, 7])) ∧ (((logged.advance T).sup.tickEll ≠ (logged.advance T).ell + 1) ∧ (stopped (logged.advance T).sup.mode = false)
    ∧ ((logged.advance T).ha =
    { mem := [], prog := [], cores := [], insts := [], stat := [], pace := (logged.advance T).ha.pace, noPace := (logged.advance T).ha.noPace, bankUse := (0, []), take := [], uncovered := [], lib := { tasks := [], cancel := [], enc := [], dec := [] } })
    ∧ ((logged.advance T).cfg =
    { built := false, recs := [], next := [], deltaK := none, hdr := { delta := false, totalLen := 0, recCount := 0, keySlot := 255, secVersion := 0, configId := 0, baseId := 0, ledger := 0, xfLen := 0, xfLaw := 0 }, measurement := [], commitEll := 0, images := [] })
    ∧ ((logged.advance T).load =
    { st := 0, owner := Master.host, result := 0, record := 0, bytes := [], piece := [], parsed := 0, hdr := { delta := false, totalLen := 0, recCount := 0, keySlot := 255, secVersion := 0, configId := 0, baseId := 0, ledger := 0, xfLen := 0, xfLaw := 0 }, recs := [], digest := [], k := 0, wait := false, prevMode := Mode.service, fromFlash := false })
    ∧ ((logged.advance T).tb.realign = none) ∧ ((logged.advance T).tb.realignReq = false) ∧ ((logged.advance T).sup.fwOk =
    false) ∧ (ws178.temps = []) ∧ ((logged.advance T).sup.tj < ↑(tTrip (logged.advance T))) ∧ ((logged.advance T).audioOn =
    false) ∧ ((logged.advance T).host =
    { rings := [], ports := [], slotIn := [], slotInt := [], coded := [], codedOut := [], codedEll := [], gpioIn := 0#32, gpioRun := [], testOp := 0, testResult := 0, testItem := 0, aborted := false })
    ∧ ((logged.advance T).log.fresh = [ws181]) ∧ (ws181.gts < (logged.advance T).startOf (logged.advance T).ell) ∧ (logUnread
    (logged.advance T).log < 1023) ∧ (logUnread (logged.advance T).log + 1 ≠ logWm (logged.advance T)) ∧ ((logged.advance
    T).sup.reqs = [])) ∧ (((ws182.advance T).sup.tickEll ≠ (ws182.advance T).ell + 1) ∧ (stopped (ws182.advance T).sup.mode =
    false) ∧ ((ws182.advance T).ha =
    { mem := [], prog := [], cores := [], insts := [], stat := [], pace := (ws182.advance T).ha.pace, noPace := (ws182.advance T).ha.noPace, bankUse := (0, []), take := [], uncovered := [], lib := { tasks := [], cancel := [], enc := [], dec := [] } })
    ∧ ((ws182.advance T).cfg =
    { built := false, recs := [], next := [], deltaK := none, hdr := { delta := false, totalLen := 0, recCount := 0, keySlot := 255, secVersion := 0, configId := 0, baseId := 0, ledger := 0, xfLen := 0, xfLaw := 0 }, measurement := [], commitEll := 0, images := [] })
    ∧ ((ws182.advance T).load =
    { st := 0, owner := Master.host, result := 0, record := 0, bytes := [], piece := [], parsed := 0, hdr := { delta := false, totalLen := 0, recCount := 0, keySlot := 255, secVersion := 0, configId := 0, baseId := 0, ledger := 0, xfLen := 0, xfLaw := 0 }, recs := [], digest := [], k := 0, wait := false, prevMode := Mode.service, fromFlash := false })
    ∧ ((ws182.advance T).tb.realign = none) ∧ ((ws182.advance T).tb.realignReq = false) ∧ ((ws182.advance T).sup.fwOk = false)
    ∧ (ws178.temps = []) ∧ ((ws182.advance T).sup.tj < ↑(tTrip (ws182.advance T))) ∧ ((ws182.advance T).audioOn = false) ∧
    ((ws182.advance T).host =
    { rings := [], ports := [], slotIn := [], slotInt := [], coded := [], codedOut := [], codedEll := [], gpioIn := 0#32, gpioRun := [], testOp := 0, testResult := 0, testItem := 0, aborted := false })
    ∧ ((ws182.advance T).sup.reqs = [ws183]) ∧ ((ws182.advance T).log.fresh = []) ∧ (reqValid (ws182.advance T) ws183 = true)
    ∧ ((ws182.advance T).trust.level = 0) ∧ (ws183.rank = 63)) ∧ (((ws184.advance T).sup.tickEll ≠ (ws184.advance T).ell + 1)
    ∧ (stopped (ws184.advance T).sup.mode = false) ∧ ((ws184.advance T).ha =
    { mem := [], prog := [], cores := [], insts := [], stat := [], pace := (ws184.advance T).ha.pace, noPace := (ws184.advance T).ha.noPace, bankUse := (0, []), take := [], uncovered := [], lib := { tasks := [], cancel := [], enc := [], dec := [] } })
    ∧ ((ws184.advance T).cfg =
    { built := false, recs := [], next := [], deltaK := none, hdr := { delta := false, totalLen := 0, recCount := 0, keySlot := 255, secVersion := 0, configId := 0, baseId := 0, ledger := 0, xfLen := 0, xfLaw := 0 }, measurement := [], commitEll := 0, images := [] })
    ∧ ((ws184.advance T).load =
    { st := 0, owner := Master.host, result := 0, record := 0, bytes := [], piece := [], parsed := 0, hdr := { delta := false, totalLen := 0, recCount := 0, keySlot := 255, secVersion := 0, configId := 0, baseId := 0, ledger := 0, xfLen := 0, xfLaw := 0 }, recs := [], digest := [], k := 0, wait := false, prevMode := Mode.service, fromFlash := false })
    ∧ ((ws184.advance T).tb.realign = none) ∧ ((ws184.advance T).tb.realignReq = false) ∧ ((ws184.advance T).sup.fwOk = false)
    ∧ (ws178.temps = []) ∧ ((ws184.advance T).sup.tj < ↑(tTrip (ws184.advance T))) ∧ ((ws184.advance T).audioOn = false) ∧
    ((ws184.advance T).host =
    { rings := [], ports := [], slotIn := [], slotInt := [], coded := [], codedOut := [], codedEll := [], gpioIn := 0#32, gpioRun := [], testOp := 0, testResult := 0, testItem := 0, aborted := false })
    ∧ ((ws184.advance T).sup.reqs = [ws185]) ∧ ((ws184.advance T).log.fresh = []) ∧ (reqValid (ws184.advance T) ws185 = true)
    ∧ ((ws184.advance T).trust.level = 0) ∧ (ws185.rank = 90) ∧ (ws185.goTo = Mode.configure)) := by and_intros <;> decide +kernel

theorem witness_aMixBusIsTheSaturatedSumOfItsSources :
    (((ws186.advance T).sup.tickEll ≠ (ws186.advance T).ell + 1) ∧ ((ws186.advance T).sup.mode = Mode.service) ∧
    ((ws186.advance T).sup.fwOk = false) ∧ ((ws186.advance T).ha =
    { mem := [], prog := [], cores := [], insts := [], stat := [], pace := (ws186.advance T).ha.pace, noPace := (ws186.advance T).ha.noPace, bankUse := (0, []), take := [], uncovered := [], lib := { tasks := [], cancel := [], enc := [], dec := [] } })
    ∧ ((ws186.advance T).load =
    { st := 0, owner := Master.host, result := 0, record := 0, bytes := [], piece := [], parsed := 0, hdr := { delta := false, totalLen := 0, recCount := 0, keySlot := 255, secVersion := 0, configId := 0, baseId := 0, ledger := 0, xfLen := 0, xfLaw := 0 }, recs := [], digest := [], k := 0, wait := false, prevMode := Mode.service, fromFlash := false })
    ∧ ((ws186.advance T).cfg.deltaK = none) ∧ ((ws186.advance T).tb.realign = none) ∧ ((ws186.advance T).tb.realignReq =
    false) ∧ ((ws186.advance T).log.fresh = []) ∧ ((ws186.advance T).sup.reqs = []) ∧ (shelter (ws186.advance T) = false) ∧
    ((ws186.advance T).host =
    { rings := [], ports := [], slotIn := [], slotInt := [], coded := [], codedOut := [], codedEll := [], gpioIn := 0#32, gpioRun := [], testOp := 0, testResult := 0, testItem := 0, aborted := false })
    ∧ ((ws186.advance T).sup.tj < ↑(tTrip (ws186.advance T))) ∧ ((ws186.advance T).sup.delays = []) ∧ ((ws186.advance
    T).cfg.recs = [(recKey tyBUS 4095, some busB)]) ∧ (4095 < 4096) ∧ (0 < (ws186.advance T).ell) ∧ ((ws186.advance T).mf.pend
    = none) ∧ ((ws186.advance T).mf.gone = []) ∧ (buMinus busB = false) ∧ (buOut busB = 65535) ∧ (∀ (r : Nat × Nat), r ∈
    buRoutes busB → ((ws186.advance T).xp r.snd).ramp = none ∧ r.fst < 8192)) := by and_intros <;> decide +kernel

theorem witness_blockReportsAndCoefficientBanks :
    ((ws187.advance T).audioOn = false) ∧ (((ws188.advance T).audioOn = true) ∧ ((ws188.advance T).rc.doneEll ≠ (ws188.advance
    T).ell + 1) ∧ (12500 ≤ 12500)) ∧ (((ws188.advance T).audioOn = true) ∧ ((ws188.advance T).rc.doneEll ≠ (ws188.advance
    T).ell + 1) ∧ (12500 < 12501)) ∧ (((ws188.advance T).audioOn = true) ∧ ((ws188.advance T).mf.doneEll ≠ (ws188.advance
    T).ell + 1) ∧ (15000 ≤ 15000)) ∧ (((ws188.advance T).audioOn = true) ∧ ((ws188.advance T).mf.doneEll ≠ (ws188.advance
    T).ell + 1) ∧ (15000 < 15001)) ∧ ((allows Master.host baseRC true (ws188.advance T) = true) ∧ ((begun Master.host
    (ws188.advance T)).recNow tyRATE 3 ≠ none)) ∧ ((allows Master.host baseMF true (ws188.advance T) = true) ∧ ((begun
    Master.host (ws188.advance T)).mf.pend = none)) ∧ ((allows Master.host baseMF true (ws189.advance T) = true) ∧ ((begun
    Master.host (ws189.advance T)).mf.pend ≠ none)) ∧ ((allows Master.host baseMF true (ws190.advance T) = true) ∧ ((begun
    Master.host (ws190.advance T)).mf.pend = some (true, 3))) ∧ ((allows Master.host 7340036 true (ws191.advance T) = true) ∧
    (6291456 ≤ 7340036) ∧ (7340036 < 8388608) ∧ ((7340036 - 6291456) / 1048576 = (begun Master.host (ws191.advance
    T)).mf.active ∨ (begun Master.host (ws191.advance T)).mf.pend ≠ none)) ∧ ((allows Master.host 8388604 true (ws188.advance
    T) = true) ∧ (6291456 ≤ 8388604) ∧ (8388604 < 8388608) ∧ ((8388604 - 6291456) / 1048576 ≠ (begun Master.host
    (ws188.advance T)).mf.active) ∧ ((begun Master.host (ws188.advance T)).mf.pend = none)) := by and_intros <;> decide +kernel

theorem witness_tasksStartInTheStateOfTheContract :
    (((ws192.advance T).audioOn = true) ∧ (((ws192.advance T).task 3).live = true) ∧ (((ws192.advance T).task 3).fin = false)
    ∧ (((ws192.advance T).task 3).run = none) ∧ (((ws192.advance T).task 3).next = none) ∧ (mayDispatch (ws192.advance T) 3 =
    true) ∧ (placeOf (ws192.advance T) (tkOwner (instBody (ws192.advance T) 3)) = some (0, 5)) ∧ (((ws192.advance T).core
    5).st = 0) ∧ (servedBy (ws192.advance T) 5 = none)) ∧ (((ws193.advance T).audioOn = true) ∧ (((ws193.advance T).task
    3).live = true) ∧ (((ws193.advance T).task 3).fin = false) ∧ (((ws193.advance T).task 3).run = none) ∧ (((ws193.advance
    T).task 3).next = none) ∧ (mayDispatch (ws193.advance T) 3 = true) ∧ (placeOf (ws193.advance T) (tkOwner (instBody
    (ws193.advance T) 3)) = some (0, 5)) ∧ (((ws193.advance T).core 5).st ≠ 0 ∨ (servedBy (ws193.advance T) 5).isSome = true))
    ∧ (((ws194.advance T).audioOn = true) ∧ (((ws194.advance T).task 3).live = true) ∧ (((ws194.advance T).task 3).fin =
    false) ∧ (((ws194.advance T).task 3).run = none) ∧ (((ws194.advance T).task 3).next = none) ∧ (mayDispatch (ws194.advance
    T) 3 = false)) ∧ (((ws195.advance T).audioOn = true) ∧ (((ws195.advance T).task 3).live = true) ∧ (((ws195.advance T).task
    3).fin = false) ∧ (((ws195.advance T).task 3).run = none) ∧ (((ws195.advance T).task 3).next = some (1, 9)) ∧
    (((ws195.advance T).core 9).st = 0)) ∧ (((ws196.advance T).audioOn = true) ∧ (((ws196.advance T).task 3).live = true) ∧
    (((ws196.advance T).task 3).fin = false) ∧ (((ws196.advance T).task 3).run = none) ∧ (((ws196.advance T).task 3).next =
    some (2, 14)) ∧ (((ws196.advance T).core 14).st = 0)) := by and_intros <;> decide +kernel

theorem witness_missedDeadlinesAndBadWordsFailTheAttempt :
    (((ws197.advance T).core 5).st = 0 ∨ ((ws197.advance T).core 5).stageDl ≤ ((ws197.advance T).core 5).slotDl ∨
    (ws197.advance T).now < ((ws197.advance T).core 5).slotDl) ∧ ((((ws198.advance T).core 5).st ≠ 0) ∧ (((ws198.advance
    T).core 5).slotDl < ((ws198.advance T).core 5).stageDl) ∧ (((ws198.advance T).core 5).slotDl ≤ (ws198.advance T).now) ∧
    (((ws198.advance T).core 5).attempt = 0) ∧ (5 % 5 ≠ 4) ∧ (((ws198.advance T).task ((ws198.advance T).core 5).inst).fin =
    false) ∧ (standbyFree (ws198.advance T) (tkHolm (instBody (ws198.advance T) ((ws198.advance T).core 5).inst)) = true ∧
    outranked (ws198.advance T) (32 + 5) (5 * tkHolm (instBody (ws198.advance T) ((ws198.advance T).core 5).inst) + 4) =
    none)) ∧ (((ws198.advance 100000500001#64).ha.cores = [(5, (ws198.advance 100000500001#64).core 5)]) ∧ ((ws198.advance
    100000500001#64).ha.insts = [(((ws198.advance 100000500001#64).core 5).inst, (ws198.advance 100000500001#64).task
    ((ws198.advance 100000500001#64).core 5).inst)]) ∧ (((ws198.advance 100000500001#64).core 5).st ≠ 0) ∧ (((ws198.advance
    100000500001#64).core 5).stageDl ≤ (ws198.advance 100000500001#64).now) ∧ (((ws198.advance 100000500001#64).task
    ((ws198.advance 100000500001#64).core 5).inst).stageEnd ≤ (ws198.advance 100000500001#64).now) ∧ (((ws198.advance
    100000500001#64).core 5).inst < 4096) ∧ (((ws198.advance 100000500001#64).task ((ws198.advance 100000500001#64).core
    5).inst).live = true) ∧ (((ws198.advance 100000500001#64).task ((ws198.advance 100000500001#64).core 5).inst).fin = false)
    ∧ (((ws198.advance 100000500001#64).task ((ws198.advance 100000500001#64).core 5).inst).cause = 0) ∧ (writeSlots
    ((ws198.advance 100000500001#64).recsAt ((ws198.advance 100000500001#64).task ((ws198.advance 100000500001#64).core
    5).inst).data) ((ws198.advance 100000500001#64).core 5).inst = [5000])) ∧ (((ws199.advance T).ha.cores = []) ∧
    ((ws199.advance T).ha.insts = [])) ∧ (((ws192.advance T).core 5).ecc = none) ∧ ((((ws200.advance T).core 5).ecc = some
    2097152) ∧ (2097152 ≤ 2097152)) ∧ ((((ws201.advance T).core 5).ecc = some 65) ∧ (65 < 2097152) ∧ (((ws201.advance T).core
    5).st ≠ 0) ∧ (((ws201.advance T).core 5).attempt = 0) ∧ (5 % 5 ≠ 4) ∧ (((ws201.advance T).task ((ws201.advance T).core
    5).inst).fin = false) ∧ (((ws201.advance T).core 5).inst < 4096) ∧ (standbyFree (ws201.advance T) (tkHolm (instBody
    (ws201.advance T) ((ws201.advance T).core 5).inst)) = true ∧ outranked (ws201.advance T) (32 + 5) (5 * tkHolm (instBody
    (ws201.advance T) ((ws201.advance T).core 5).inst) + 4) = none) ∧ (tget [] (ws201.advance T).sup.faultElls (32 + 5) = []))
    ∧ ((((ws201.advance T).core 5).ecc = some 65) ∧ (65 < 2097152) ∧ (((ws201.advance T).core 5).st ≠ 0) ∧ (((ws201.advance
    T).core 5).attempt = 0) ∧ (5 % 5 ≠ 4) ∧ (((ws201.advance T).task ((ws201.advance T).core 5).inst).fin = false) ∧
    (((ws201.advance T).core 5).inst < 4096) ∧ (regionOf (ws201.advance T) (tkHolm (instBody (ws201.advance T) ((ws201.advance
    T).core 5).inst)) 65 = some 3) ∧ (3 = ((ws201.advance T).core 5).inst) ∧ (((ws201.advance T).task ((ws201.advance T).core
    5).inst).live = true) ∧ (((ws201.advance T).task ((ws201.advance T).core 5).inst).cause = 0) ∧ (writeSlots ((ws201.advance
    T).recsAt ((ws201.advance T).task ((ws201.advance T).core 5).inst).data) ((ws201.advance T).core 5).inst = [5000])) := by and_intros <;> decide +kernel

theorem witness_commitsWriteEveryStoreAtOnce :
    (((ws197.advance T).core 5).st ≠ 2) ∧ ((((ws203.advance T).core 5).st = 2) ∧ (((ws203.advance T).core 5).inst < 4096) ∧
    ((ws203.advance T).now < ((ws203.advance T).core 5).slotDl) ∧ ((ws203.advance T).now < ((ws203.advance T).core 5).stageDl)
    ∧ (BitVec.toNat T + 4 * (cdiv (tkFoot (instBody (ws203.advance T) ((ws203.advance T).core 5).inst)) 64 + 64) < min
    ((ws203.advance T).core 5).slotDl ((ws203.advance T).core 5).stageDl) ∧ (bit (tkFlags (instBody (ws203.advance T)
    ((ws203.advance T).core 5).inst)) 2 = false) ∧ ((ws203.advance T).sup.delays = []) ∧ ((List.map Prod.fst ((ws203.advance
    T).core 5).buf).Nodup) ∧ (tkHolm (instBody (ws203.advance T) ((ws203.advance T).core 5).inst) < 16) ∧ (writeSlots
    ((ws203.advance T).recsAt ((ws203.advance T).task ((ws203.advance T).core 5).inst).data) ((ws203.advance T).core 5).inst =
    [5000]) ∧ (((ws203.advance T).core 5).data = ((ws203.advance T).task ((ws203.advance T).core 5).inst).data)) ∧
    ((((ws204.advance T).core 5).st = 2) ∧ (((ws204.advance T).core 5).inst < 4096) ∧ ((ws204.advance T).now < ((ws204.advance
    T).core 5).slotDl) ∧ ((ws204.advance T).now < ((ws204.advance T).core 5).stageDl) ∧ (BitVec.toNat T + 4 * (cdiv (tkFoot
    (instBody (ws204.advance T) ((ws204.advance T).core 5).inst)) 64 + 64) < min ((ws204.advance T).core 5).slotDl
    ((ws204.advance T).core 5).stageDl) ∧ (bit (tkFlags (instBody (ws204.advance T) ((ws204.advance T).core 5).inst)) 2 =
    true) ∧ ((ws204.advance T).sup.delays = []) ∧ (((ws204.advance T).core 5).buf = []) ∧ (((ws204.advance T).core 5).entryW %
    4 = 0) ∧ (((ws204.advance T).core 5).gap ≤ 1) ∧ (tkHolm (instBody (ws204.advance T) ((ws204.advance T).core 5).inst) < 16)
    ∧ (writeSlots ((ws204.advance T).recsAt ((ws204.advance T).task ((ws204.advance T).core 5).inst).data) ((ws204.advance
    T).core 5).inst = [5000]) ∧ (5000 < 16384) ∧ (((ws204.advance T).task ((ws204.advance T).core 5).inst).data =
    ((ws204.advance T).core 5).data) ∧ (libWord (ws204.advance T) ((ws204.advance T).core 5) 4 = 16777215) ∧ (tkBase (instBody
    (ws204.advance T) ((ws204.advance T).core 5).inst) + 96 ≤ 1572864) ∧ (fld (libWord (ws204.advance T) ((ws204.advance
    T).core 5) 0) 23 16 = 16) ∧ (libWord (ws204.advance T) ((ws204.advance T).core 5) 1 = 1) ∧ (0 < libWord (ws204.advance T)
    ((ws204.advance T).core 5) 2) ∧ (libWord (ws204.advance T) ((ws204.advance T).core 5) 65 = 5000) ∧ (libWord (ws204.advance
    T) ((ws204.advance T).core 5) 66 = 1) ∧ (framePos (libWord (ws204.advance T) ((ws204.advance T).core 5) 2) (libWord
    (ws204.advance T) ((ws204.advance T).core 5) 3) ((ws204.advance T).core 5).data = 0 → 1 ≤ (tget
    { st := 0, wins := 0, hist := [], par := [], cap := [], parOld := [], capOld := [], out := { first := 0, data := [], lost := true, fec := false, err := false }, stat := { mode := 0, sat := false, frames := 0, lost := 0, fec := 0, bad := 0, bytesLast := 0, level := -8388608, concIn := 0, sq := 0, conc := false } }
    (ws204.advance T).ha.lib.enc (32 * ((ws204.advance T).core 5).inst)).wins) ∧ (framePos (libWord (ws204.advance T)
    ((ws204.advance T).core 5) 2) (libWord (ws204.advance T) ((ws204.advance T).core 5) 3) ((ws204.advance T).core 5).data ≠ 0
    → (tget
    { st := 0, wins := 0, hist := [], par := [], cap := [], parOld := [], capOld := [], out := { first := 0, data := [], lost := true, fec := false, err := false }, stat := { mode := 0, sat := false, frames := 0, lost := 0, fec := 0, bad := 0, bytesLast := 0, level := -8388608, concIn := 0, sq := 0, conc := false } }
    (ws204.advance T).ha.lib.enc (32 * ((ws204.advance T).core 5).inst)).out.lost = false)) ∧ ((((ws205.advance T).core 5).st
    = 2) ∧ (((ws205.advance T).core 5).inst < 4096) ∧ ((ws205.advance T).now < ((ws205.advance T).core 5).slotDl) ∧
    ((ws205.advance T).now < ((ws205.advance T).core 5).stageDl) ∧ (BitVec.toNat T + 4 * (cdiv (tkFoot (instBody
    (ws205.advance T) ((ws205.advance T).core 5).inst)) 64 + 64) < min ((ws205.advance T).core 5).slotDl ((ws205.advance
    T).core 5).stageDl) ∧ (bit (tkFlags (instBody (ws205.advance T) ((ws205.advance T).core 5).inst)) 2 = true) ∧
    ((ws205.advance T).sup.delays = []) ∧ (((ws205.advance T).core 5).buf = []) ∧ (((ws205.advance T).core 5).entryW % 4 = 0)
    ∧ (((ws205.advance T).core 5).gap ≤ 1) ∧ (tkHolm (instBody (ws205.advance T) ((ws205.advance T).core 5).inst) < 16) ∧
    (writeSlots ((ws205.advance T).recsAt ((ws205.advance T).task ((ws205.advance T).core 5).inst).data) ((ws205.advance
    T).core 5).inst = [5000]) ∧ (5000 < 16384) ∧ (((ws205.advance T).task ((ws205.advance T).core 5).inst).data =
    ((ws205.advance T).core 5).data) ∧ (libWord (ws205.advance T) ((ws205.advance T).core 5) 4 = 16777215) ∧ (tkBase (instBody
    (ws205.advance T) ((ws205.advance T).core 5).inst) + 96 ≤ 1572864) ∧ (fld (libWord (ws205.advance T) ((ws205.advance
    T).core 5) 0) 23 16 = 16) ∧ (libWord (ws205.advance T) ((ws205.advance T).core 5) 1 = 1) ∧ (0 < libWord (ws205.advance T)
    ((ws205.advance T).core 5) 2) ∧ (libWord (ws205.advance T) ((ws205.advance T).core 5) 65 = 5000) ∧ (libWord (ws205.advance
    T) ((ws205.advance T).core 5) 66 = 1) ∧ (framePos (libWord (ws205.advance T) ((ws205.advance T).core 5) 2) (libWord
    (ws205.advance T) ((ws205.advance T).core 5) 3) ((ws205.advance T).core 5).data = 0 → 1 ≤ (tget
    { st := 0, wins := 0, hist := [], par := [], cap := [], parOld := [], capOld := [], out := { first := 0, data := [], lost := true, fec := false, err := false }, stat := { mode := 0, sat := false, frames := 0, lost := 0, fec := 0, bad := 0, bytesLast := 0, level := -8388608, concIn := 0, sq := 0, conc := false } }
    (ws205.advance T).ha.lib.enc (32 * ((ws205.advance T).core 5).inst)).wins) ∧ (framePos (libWord (ws205.advance T)
    ((ws205.advance T).core 5) 2) (libWord (ws205.advance T) ((ws205.advance T).core 5) 3) ((ws205.advance T).core 5).data ≠ 0
    → (tget
    { st := 0, wins := 0, hist := [], par := [], cap := [], parOld := [], capOld := [], out := { first := 0, data := [], lost := true, fec := false, err := false }, stat := { mode := 0, sat := false, frames := 0, lost := 0, fec := 0, bad := 0, bytesLast := 0, level := -8388608, concIn := 0, sq := 0, conc := false } }
    (ws205.advance T).ha.lib.enc (32 * ((ws205.advance T).core 5).inst)).out.lost = false)) ∧ ((((ws206.advance T).core 5).st
    = 2) ∧ (((ws206.advance T).core 5).inst < 4096) ∧ ((ws206.advance T).now < ((ws206.advance T).core 5).slotDl) ∧
    ((ws206.advance T).now < ((ws206.advance T).core 5).stageDl) ∧ (BitVec.toNat T + 4 * (cdiv (tkFoot (instBody
    (ws206.advance T) ((ws206.advance T).core 5).inst)) 64 + 64) < min ((ws206.advance T).core 5).slotDl ((ws206.advance
    T).core 5).stageDl) ∧ (bit (tkFlags (instBody (ws206.advance T) ((ws206.advance T).core 5).inst)) 2 = true) ∧
    ((ws206.advance T).sup.delays = []) ∧ (((ws206.advance T).core 5).buf = []) ∧ (((ws206.advance T).core 5).entryW % 4 = 0)
    ∧ (((ws206.advance T).core 5).gap ≤ 1) ∧ (tkHolm (instBody (ws206.advance T) ((ws206.advance T).core 5).inst) < 16) ∧
    (writeSlots ((ws206.advance T).recsAt ((ws206.advance T).task ((ws206.advance T).core 5).inst).data) ((ws206.advance
    T).core 5).inst = [5000]) ∧ (5000 < 16384) ∧ (((ws206.advance T).task ((ws206.advance T).core 5).inst).data =
    ((ws206.advance T).core 5).data) ∧ (libWord (ws206.advance T) ((ws206.advance T).core 5) 4 = 16777215) ∧ (tkBase (instBody
    (ws206.advance T) ((ws206.advance T).core 5).inst) + 96 ≤ 1572864) ∧ (fld (libWord (ws206.advance T) ((ws206.advance
    T).core 5) 0) 23 16 = 1) ∧ (libWord (ws206.advance T) ((ws206.advance T).core 5) 3 = 5000) ∧ (libWord (ws206.advance T)
    ((ws206.advance T).core 5) 11 ≠ 2) ∧ (libWord (ws206.advance T) ((ws206.advance T).core 5) 12 = 1)) ∧ ((((ws203.advance
    T).core 5).st = 2) ∧ (((ws203.advance T).core 5).inst < 4096) ∧ (((ws203.advance T).core 5).attempt = 0) ∧ (5 % 5 ≠ 4) ∧
    (((ws203.advance T).task ((ws203.advance T).core 5).inst).fin = false) ∧ (standbyFree (ws203.advance T) (tkHolm (instBody
    (ws203.advance T) ((ws203.advance T).core 5).inst)) = true) ∧ (outranked (ws203.advance T) (32 + 5) (5 * tkHolm (instBody
    (ws203.advance T) ((ws203.advance T).core 5).inst) + 4) = none)) ∧ ((((ws207.advance T).core 5).st = 2) ∧ (((ws207.advance
    T).core 5).inst < 4096) ∧ (((ws207.advance T).core 5).attempt = 0) ∧ (5 % 5 ≠ 4) ∧ (((ws207.advance T).task
    ((ws207.advance T).core 5).inst).fin = false) ∧ (standbyFree (ws207.advance T) (tkHolm (instBody (ws207.advance T)
    ((ws207.advance T).core 5).inst)) = true) ∧ (outranked (ws207.advance T) (32 + 5) (5 * tkHolm (instBody (ws207.advance T)
    ((ws207.advance T).core 5).inst) + 4) = none) ∧ (((ws207.advance T).core 5).slotDl < ((ws207.advance T).core 5).stageDl) ∧
    (((ws207.advance T).core 5).slotDl ≤ BitVec.toNat T + 4 * (cdiv (tkFoot (instBody (ws207.advance T) ((ws207.advance
    T).core 5).inst)) 64 + 64)) ∧ (BitVec.toNat T < ((ws207.advance T).core 5).stageDl)) ∧ (((ws208.advance T).recAt
    (ws208.advance T).ell tyTASK 3 = some (tkB 1#8 0#8 0#8)) ∧ (((ws208.advance T).tstat 3).zero = 0 ∨ (ws208.advance T).ell +
    1 < ((ws208.advance T).tstat 3).zero)) ∧ (((ws209.advance T).recAt (ws209.advance T).ell tyTASK 3 = some (tkB 1#8 0#8
    0#8)) ∧ (((ws209.advance T).tstat 3).zero ≠ 0) ∧ (((ws209.advance T).tstat 3).zero ≤ (ws209.advance T).ell + 1) ∧ (tkBase
    (tkB 1#8 0#8 0#8) + tkLen (tkB 1#8 0#8 0#8) ≤ 2 ^ 21)) ∧ (((ws192.advance T).task (4096 + 3)).live = false ∨
    ((ws192.advance T).task (4096 + 3)).fin = true) ∧ (((delayed.advance T).audioOn = true) ∧ (((delayed.advance T).task (4096
    + 3)).live = true) ∧ (((delayed.advance T).task (4096 + 3)).fin = false) ∧ (((delayed.advance T).task (4096 + 3)).run =
    none) ∧ (((delayed.advance T).task (4096 + 3)).next = none) ∧ ((delayed.advance T).ell = ((delayed.advance T).task (4096 +
    3)).inEll) ∧ (standbyFree (delayed.advance T) (tkHolm (instBody (delayed.advance T) (4096 + 3))) = true) ∧
    ((delayed.advance T).now < (delayed.advance T).startOf ((delayed.advance T).task (4096 + 3)).inEll + 250000)) ∧
    (((delayed.advance 100000250000#64).audioOn = true) ∧ (((delayed.advance 100000250000#64).task (4096 + 3)).live = true) ∧
    (((delayed.advance 100000250000#64).task (4096 + 3)).fin = false) ∧ (((delayed.advance 100000250000#64).task (4096 +
    3)).run = none) ∧ (((delayed.advance 100000250000#64).task (4096 + 3)).next = none) ∧ ((delayed.advance
    100000250000#64).ell = ((delayed.advance 100000250000#64).task (4096 + 3)).inEll) ∧ (standbyFree (delayed.advance
    100000250000#64) (tkHolm (instBody (delayed.advance 100000250000#64) (4096 + 3))) = true) ∧ ((delayed.advance
    100000250000#64).startOf ((delayed.advance 100000250000#64).task (4096 + 3)).inEll + 250000 ≤ (delayed.advance
    100000250000#64).now)) := by and_intros <;> decide +kernel

theorem witness_loadOperationsFollowTheirTable :
    ((allows Master.host (baseSV + 1024) true (ws210.advance T) = true) ∧ ((ws210.advance T).load.st = 0 ∨ (ws210.advance
    T).load.st = 6)) ∧ ((allows Master.host (baseSV + 1024) true (ws211.advance T) = true) ∧ ((ws211.advance T).load.st ≠ 0) ∧
    ((ws211.advance T).load.st ≠ 6)) ∧ ((allows Master.host (baseSV + 1024) true (ws212.advance T) = true) ∧ ((ws212.advance
    T).load.st = 7) ∧ ((ws212.advance T).load.owner = Master.host) ∧ (1 ≤ (ws212.advance T).rfld (baseSV + 1028) 20 0) ∧
    ((ws212.advance T).rfld (baseSV + 1028) 20 0 ≤ 1048576)) ∧ ((allows Master.host (baseSV + 1024) true (ws213.advance T) =
    true) ∧ ((ws213.advance T).load.st = 7) ∧ ((ws213.advance T).load.owner = Master.host) ∧ (1 ≤ (ws213.advance T).rfld
    (baseSV + 1028) 20 0) ∧ ((ws213.advance T).rfld (baseSV + 1028) 20 0 ≤ 1048576)) ∧ ((allows Master.host (baseSV + 1024)
    true (ws214.advance T) = true) ∧ ((ws214.advance T).load.st = 7) ∧ ((ws214.advance T).load.owner = Master.host) ∧
    ((ws214.advance T).rfld (baseSV + 1028) 20 0 = 0 ∨ 1048576 < (ws214.advance T).rfld (baseSV + 1028) 20 0)) ∧ ((allows
    Master.host (baseSV + 1024) true (ws215.advance T) = true) ∧ ((ws215.advance T).load.st = 7) ∧ ((ws215.advance
    T).load.owner = Master.host) ∧ ((ws215.advance T).rfld (baseSV + 1028) 20 0 = 0 ∨ 1048576 < (ws215.advance T).rfld (baseSV
    + 1028) 20 0)) ∧ ((allows Master.host (baseSV + 1024) true (ws214.advance T) = true) ∧ ((ws214.advance T).load.st = 7) ∧
    ((ws214.advance T).load.owner = Master.host)) ∧ ((allows Master.host (baseSV + 1024) true (ws216.advance T) = true) ∧
    ((ws216.advance T).load.st = 3) ∧ ((ws216.advance T).load.owner = Master.host) ∧ ((ws216.advance T).tb.realign = none) ∧
    ((ws216.advance T).sup.mode = Mode.service) ∧ ((ws216.advance T).trust.level = 0)) ∧ ((allows Master.host (baseSV + 1024)
    true (ws217.advance T) = true) ∧ ((ws217.advance T).load.st = 0 ∨ (ws217.advance T).load.st = 6)) ∧ ((allows Master.spi
    (baseSV + 1024) true (ws214.advance T) = true) ∧ ((ws214.advance T).load.st ≠ 0) ∧ ((ws214.advance T).load.st ≠ 6) ∧
    ((ws214.advance T).load.owner ≠ Master.spi)) ∧ ((allows Master.host (baseSV + 1024) true (ws218.advance T) = true) ∧
    ((ws218.advance T).load.owner = Master.host) ∧ ((ws218.advance T).load.st = 1 ∨ (ws218.advance T).load.st = 2)) ∧ ((allows
    Master.host (baseSV + 1024) true (ws219.advance T) = true) ∧ ((ws219.advance T).load.owner = Master.host) ∧
    ((ws219.advance T).load.st = 3 ∨ (ws219.advance T).load.st = 4 ∨ (ws219.advance T).load.st = 5)) ∧ ((allows Master.host
    (baseSV + 1024) true (ws214.advance T) = true) ∧ ((ws214.advance T).load.owner = Master.host) ∧ ((ws214.advance T).load.st
    = 4 ∨ (ws214.advance T).load.st = 5 ∨ (ws214.advance T).load.st = 7)) ∧ ((allows Master.host (baseSV + 1024) true
    (ws220.advance T) = true) ∧ ((ws220.advance T).load.st = 5)) ∧ ((allows Master.host (baseSV + 1024) true (ws219.advance T)
    = true) ∧ ((ws219.advance T).load.st = 4) ∧ ((ws219.advance T).load.wait = false) ∧ ((ws219.advance T).tb.realign = none)
    ∧ ((ws219.advance T).load.k ≤ (ws219.advance T).ell + 2)) ∧ ((allows Master.host (baseSV + 1024) true (ws216.advance T) =
    true) ∧ (((ws216.advance T).load.st = 1 ∨ (ws216.advance T).load.st = 2) ∨ (ws216.advance T).load.st = 3 ∨ (ws216.advance
    T).load.st = 7)) ∧ ((allows Master.host (baseSV + 1024) true (ws221.advance T) = true) ∧ ((ws221.advance T).load.st = 4) ∧
    ((ws221.advance T).load.wait = false) ∧ ((ws221.advance T).tb.realign = none) ∧ ((ws221.advance T).ell + 2 <
    (ws221.advance T).load.k) ∧ ((ws221.advance T).sup.mode = Mode.reconfigure) ∧ ((ws221.advance T).load.prevMode =
    Mode.service) ∧ ((ws221.advance T).trust.level = 0)) := by and_intros <;> decide +kernel

theorem witness_rejectedBitstreamsLeaveEverythingUntouched :
    (((ws222.advance T).load.st = 1) ∧ (takeBytes (ws222.advance T) (ws222.advance T).load.piece (ws222.advance T).load =
    (ws223, some (1, 0)))) ∧ (((ended.advance T).load.st = 2) ∧ (∀ ok : Bool, failsWith (6, 0) (verify (ended.advance T)
    (ended.advance T).load ok) = true)) ∧ (((ws226.advance T).load.st = 2) ∧ ((verify (ws226.advance T) (ws226.advance T).load
    true).isOk = true)) := by and_intros <;> decide +kernel

theorem witness_acceptedBitstreamsCommit :
    ((ended.advance T).load.st ≠ 1) ∧ (((ws224.advance T).load.st = 1) ∧ (takeBytes (ws224.advance T) (ws224.advance
    T).load.piece (ws224.advance T).load = (ws225, none))) ∧ ((ws224.advance T).load.st ≠ 2 ∨ true ≠ sigVerdict (ws224.advance
    T).load) ∧ ((ws224.advance T).sup.mode ≠ Mode.configure ∨ (ws224.advance T).sup.noFlash = true ∨ (ws224.advance
    T).cfg.built = true ∨ loading (ws224.advance T).load = true) ∧ (((ws226.advance T).load.st = 2) ∧ ((ws226.advance
    T).load.hdr.delta = true) ∧ ((verify (ws226.advance T) (ws226.advance T).load true).isOk = true)) ∧ (((ws227.advance
    T).load.st = 2) ∧ ((ws227.advance T).load.hdr.delta = false) ∧ ((verify (ws227.advance T) (ws227.advance T).load
    true).isOk = true)) ∧ (deltaDue (ws228.advance T) = false) ∧ ((deltaDue (ws229.advance T) = true) ∧ ((ws229.advance
    T).tb.realign = none)) ∧ ((ws230.advance T).load.st ≠ 5 ∨ deltaNow (ws230.advance T) < (ws230.advance T).load.k + 2) ∧
    (((ws231.advance T).load.st = 5) ∧ ((ws231.advance T).load.k + 2 ≤ (ws231.advance T).ell) ∧ ((ws231.advance T).tb.realign
    = none) ∧ ((ws231.advance T).sup.mode = Mode.reconfigure) ∧ ((ws231.advance T).load.prevMode = Mode.service) ∧
    ((ws231.advance T).trust.level = 0) ∧ (∀ (ty : Nat), ty ∈ [tyQUEUE, tyTX, tyCZCTX, tyCIPHER, tyPORT, tyGATE, tyPTP] →
    changes (ws231.advance T).cfg.recs (ws231.advance T).cfg.next ty = []) ∧ (recGet (ws231.advance T).cfg.next tyPOLICY 0 =
    recGet (ws231.advance T).cfg.recs tyPOLICY 0)) := by and_intros <;> decide +kernel

theorem witness_cipherLanesLockAndRunOperations :
    ((allows Master.host (baseCE + 16 + 4 * 1) true (ws232.advance T) = true) ∧ (Master.host = Master.host ∨ Master.host =
    Master.supervisor ∨ Master.host = Master.trust) ∧ (∀ (i : Nat), i < 4 → ((ws232.advance T).lane i).owner = none) ∧ (bit
    (ws232.advance T).sup.ceRetired 1 = false)) ∧ ((allows Master.host (baseCE + 16 + 4 * 1) true (ws233.advance T) = true) ∧
    (2 < 4) ∧ (((ws233.advance T).lane 2).owner = some 13) ∧ (((ws233.advance T).lane 2).since ≠ (ws233.advance T).now ∨ 13 ≤
    srcOf Master.host)) ∧ ((allows Master.host (baseCE + 16 + 4 * 1) true (ws234.advance T) = true) ∧ (2 < 4) ∧
    (((ws234.advance T).lane 2).owner = some 14) ∧ (((ws234.advance T).lane 2).since = (ws234.advance T).now) ∧ (srcOf
    Master.host < 14) ∧ (mayLock Master.host = true) ∧ (bit (ws234.advance T).sup.ceRetired 1 = false) ∧ (∀ (j : Nat), j < 4 →
    j ≠ 2 → ((ws234.advance T).lane j).owner = none)) ∧ ((allows Master.host (baseCE + 16 + 4 * 1) true (ws235.advance T) =
    true) ∧ (((ws235.advance T).lane 1).owner = some (srcOf Master.host))) ∧ ((allows Master.host (baseCE + 16 + 4 * 1) true
    (ws233.advance T) = true) ∧ (((ws233.advance T).lane 1).owner ≠ some (srcOf Master.host))) ∧ ((((ws236.advance T).lane
    1).owner = some 13) ∧ (((ws236.advance T).lane 1).since + 16000000 < (ws236.advance T).now) ∧ ((ws236.advance T).ce.cmd =
    none)) ∧ ((((ws237.advance T).lane 1).owner = some 13) ∧ ((ws237.advance T).now ≤ ((ws237.advance T).lane 1).since +
    16000000)) ∧ (((ws232.advance T).lane 1).owner = none) ∧ ((pickLane (ws238.advance T) 4 = some 3) ∧ (∀ (j : Nat), j < 4 →
    ∀ (o : LaneOp), o ∈ ((ws238.advance T).lane j).ops → o.start ≠ (ws238.advance T).now)) ∧ ((pickLane (ws238.advance T) 4 =
    some 3) ∧ (∀ (j : Nat), j < 4 → ∀ (o : LaneOp), o ∈ ((ws238.advance T).lane j).ops → o.start ≠ (ws238.advance T).now) ∧
    (CipherOp.macsecRx 2 5#14 = CipherOp.macsecTx 2 5#14 ∨ CipherOp.macsecRx 2 5#14 = CipherOp.macsecRx 2 5#14)) ∧ ((pickLane
    (ws239.advance T) 4 = some 3) ∧ (∀ (j : Nat), j < 4 → ∀ (o : LaneOp), o ∈ ((ws239.advance T).lane j).ops → o.start ≠
    (ws239.advance T).now) ∧ (CipherOp.srtpTx 3#10 = CipherOp.srtpTx 3#10) ∧ ((ws239.advance T).se.txWait = [tpkt]) ∧
    (tpkt.stream = 3) ∧ ((ws239.advance T).recNow tyTX 3 = some (txB 7)) ∧ (txSlot ((ws239.advance T).ctx (u16 (txB 7) 24))
    (txIndex (ws239.advance T) (u16 (txB 7) 24) tpkt.seq) = some (0, false)) ∧ (txIndex (ws239.advance T) (u16 (txB 7) 24)
    tpkt.seq < 2 ^ 48) ∧ ((slotOf ((ws239.advance T).ctx (u16 (txB 7) 24)) 0).used + 1 < cdiv (7 * (slotOf ((ws239.advance
    T).ctx (u16 (txB 7) 24)) 0).limit) 8) ∧ (cdiv (7 * (slotOf ((ws239.advance T).ctx (u16 (txB 7) 24)) 0).limit) 8 ≤ (slotOf
    ((ws239.advance T).ctx (u16 (txB 7) 24)) 0).limit)) ∧ ((pickLane (ws240.advance T) 4 = some 3) ∧ (∀ (j : Nat), j < 4 → ∀
    (o : LaneOp), o ∈ ((ws240.advance T).lane j).ops → o.start ≠ (ws240.advance T).now) ∧ (CipherOp.srtpRx (3#10) Leg.red 7#16
    = CipherOp.srtpRx (3#10) Leg.red 7#16) ∧ ((ws240.advance T).ce.inq = [cpy]) ∧ (cpy.stream = 3) ∧ (cpy.leg = if Leg.red =
    Leg.red then 0 else 1) ∧ (cpy.seq = 7) ∧ (cpy.role = CopyRole.first) ∧ ((ws240.advance T).recAt (ws240.advance T).soon
    tyRX 3 = some (rxB 7)) ∧ (((ws240.advance T).rx 3).waiting = []) ∧ (131079 = rxIndex (ws240.advance T) (u16 (rxB 7) 26) 7)
    ∧ (((ws240.advance T).ctx (u16 (rxB 7) 26)).index = some 133127) ∧ (131079 + 2048 ≤ 133127)) ∧ ((pickLane (ws241.advance
    T) 4 = some 3) ∧ (∀ (j : Nat), j < 4 → ∀ (o : LaneOp), o ∈ ((ws241.advance T).lane j).ops → o.start ≠ (ws241.advance
    T).now) ∧ (CipherOp.srtpRx (3#10) Leg.red 7#16 = CipherOp.srtpRx (3#10) Leg.red 7#16) ∧ ((ws241.advance T).ce.inq = [cpy])
    ∧ (cpy.stream = 3) ∧ (cpy.leg = if Leg.red = Leg.red then 0 else 1) ∧ (cpy.seq = 7) ∧ (cpy.role = CopyRole.first) ∧
    ((ws241.advance T).recAt (ws241.advance T).soon tyRX 3 = some (rxB 7)) ∧ (((ws241.advance T).rx 3).waiting = []) ∧ (131079
    = rxIndex (ws241.advance T) (u16 (rxB 7) 26) 7) ∧ (((ws241.advance T).ctx (u16 (rxB 7) 26)).index = none) ∧ (rxSlot
    ((ceRec (ws241.advance T) (u16 (rxB 7) 26)).getD []) ((ws241.advance T).ctx (u16 (rxB 7) 26)) 131079 cpy.mki = some 0) ∧
    ((slotOf ((ws241.advance T).ctx (u16 (rxB 7) 26)) 0).used + 1 < cdiv (7 * (slotOf ((ws241.advance T).ctx (u16 (rxB 7) 26))
    0).limit) 8) ∧ (cdiv (7 * (slotOf ((ws241.advance T).ctx (u16 (rxB 7) 26)) 0).limit) 8 ≤ (slotOf ((ws241.advance T).ctx
    (u16 (rxB 7) 26)) 0).limit)) ∧ ((pickLane (ws242.advance T) 4 = some 3) ∧ (∀ (j : Nat), j < 4 → ∀ (o : LaneOp), o ∈
    ((ws242.advance T).lane j).ops → o.start ≠ (ws242.advance T).now) ∧ (CipherOp.srtpRx (3#10) Leg.red 7#16 = CipherOp.srtpRx
    (3#10) Leg.red 7#16) ∧ ((ws242.advance T).ce.inq = [cpy]) ∧ (cpy.stream = 3) ∧ (cpy.leg = if Leg.red = Leg.red then 0 else
    1) ∧ (cpy.seq = 7) ∧ (cpy.role = CopyRole.first) ∧ ((ws242.advance T).recAt (ws242.advance T).soon tyRX 3 = some (rxB 7))
    ∧ (((ws242.advance T).rx 3).waiting = []) ∧ (131079 = rxIndex (ws242.advance T) (u16 (rxB 7) 26) 7) ∧ (((ws242.advance
    T).ctx (u16 (rxB 7) 26)).index = none) ∧ (rxSlot ((ceRec (ws242.advance T) (u16 (rxB 7) 26)).getD []) ((ws242.advance
    T).ctx (u16 (rxB 7) 26)) 131079 cpy.mki = none)) ∧ (((ws238.advance T).lane 1).ops = []) ∧ ((((ws238.advance T).lane
    2).ops = [rxOp, macsecOp]) ∧ ((true, []) ≠ (rxOp.tagOk, rxOp.out))) ∧ ((((ws243.advance T).lane 2).ops = [okOp, macsecOp])
    ∧ (okOp.op = CipherOp.srtpRx (3#10) Leg.red 7#16) ∧ (okOp.copy = some cpy) ∧ (cpy.role = CopyRole.first) ∧
    (((ws243.advance T).ctx okOp.ctx).chg = none) ∧ (∀ (h : Nat), ((ws243.advance T).ctx okOp.ctx).index = some h → h ≤
    okOp.index) ∧ (okOp.tagOk = true)) ∧ ((((ws238.advance T).lane 2).ops = [rxOp, macsecOp]) ∧ (rxOp.op = CipherOp.srtpRx
    (3#10) Leg.red 7#16) ∧ (rxOp.copy = some cpy) ∧ (cpy.role = CopyRole.first) ∧ (((ws238.advance T).ctx rxOp.ctx).chg =
    none) ∧ (∀ (h : Nat), ((ws238.advance T).ctx rxOp.ctx).index = some h → h ≤ rxOp.index) ∧ (rxOp.tagOk = false)) ∧
    ((((ws244.advance T).lane 2).ops = [{ rxOp with op := CipherOp.srtpTx 3#10, copy := none }]) ∧
    ({ rxOp with op := CipherOp.srtpTx 3#10, copy := none }.op = CipherOp.srtpTx 3#10) ∧ ((ws244.advance T).recNow tyTX 3 =
    some (txB 7)) ∧ (portOfRole (ws244.advance T) 1 = none) ∧ (portOfRole (ws244.advance T) 2 = none)) ∧ ((((ws238.advance
    T).lane 2).ops = [rxOp, macsecOp]) ∧ (rxOp.repeated = false) ∧ (∀ (cp : Copy), rxOp.copy = some cp → onWire cp.stream
    cp.seq (ws238.advance T) = false)) := by and_intros <;> decide +kernel

theorem witness_cipherCommandsActWhenTheyComplete :
    ((allows Master.host baseCE true (ws245.advance T) = true) ∧ ((ws245.advance T).ce.cmd ≠ none)) ∧ ((allows Master.host
    baseCE true (ws232.advance T) = true) ∧ ((ws232.advance T).ce.cmd = none) ∧ (∀ (i : Nat), i < 4 → ((ws232.advance T).lane
    i).owner ≠ some (srcOf Master.host))) ∧ ((allows Master.host baseCE true (ws247.advance T) = true) ∧ ((ws247.advance
    T).ce.cmd = none) ∧ (3 < 4) ∧ (((ws247.advance T).lane 3).owner = some (srcOf Master.host)) ∧ (∀ (i : Nat), i < 3 →
    ((ws247.advance T).lane i).owner ≠ some (srcOf Master.host))) ∧ ((ws232.advance T).ce.cmd = none) ∧ (((ws249.advance
    T).ce.cmd = some (ceCmd 2 0 65537)) ∧ ((ceCmd 2 0 65537).fail = 0) ∧ ((ceCmd 2 0 65537).ctx < 2048) ∧ (ceRec
    (ws249.advance T) (ceCmd 2 0 65537).ctx = some (ceB 0#8)) ∧ ((false, []) ≠ cmdReport (ceCmd 2 0 65537) (ws249.advance T)))
    ∧ (((ws245.advance T).ce.cmd = some (ceCmd 1 0 65537)) ∧ ((ceCmd 1 0 65537).fail = 0) ∧ ((ceCmd 1 0 65537).ctx < 2048) ∧
    (ceRec (ws245.advance T) (ceCmd 1 0 65537).ctx = some (ceB 0#8)) ∧ ((ceCmd 1 0 65537).repeated = false)) ∧
    (((ws250.advance T).ce.cmd = some (ceCmd 1 0 65537)) ∧ ((ceCmd 1 0 65537).fail = 0) ∧ ((ceCmd 1 0 65537).ctx < 2048) ∧
    (ceRec (ws250.advance T) (ceCmd 1 0 65537).ctx = some (ceB 0#8)) ∧ ((ceCmd 1 0 65537).op = 1) ∧ ((slotOf ((ws250.advance
    T).ctx (ceCmd 1 0 65537).ctx) (ceCmd 1 0 65537).slot).st ≠ 0)) ∧ (((ws251.advance T).ce.cmd = some (ceCmd 1 1 65537)) ∧
    ((ceCmd 1 1 65537).fail = 0) ∧ ((ceCmd 1 1 65537).ctx < 2048) ∧ (ceRec (ws251.advance T) (ceCmd 1 1 65537).ctx = some (ceB
    0#8)) ∧ ((ceCmd 1 1 65537).op = 1) ∧ ((slotOf ((ws251.advance T).ctx (ceCmd 1 1 65537).ctx) (ceCmd 1 1 65537).slot).st =
    0)) ∧ (((ws252.advance T).ce.cmd = some (ceCmd 2 0 65537)) ∧ ((ceCmd 2 0 65537).fail = 0) ∧ ((ceCmd 2 0 65537).ctx < 2048)
    ∧ (ceRec (ws252.advance T) (ceCmd 2 0 65537).ctx = some (ceB 0#8)) ∧ ((ceCmd 2 0 65537).op = 2) ∧ ((slotOf ((ws252.advance
    T).ctx (ceCmd 2 0 65537).ctx) (1 - ((ws252.advance T).ctx (ceCmd 2 0 65537).ctx).act)).st = 1)) ∧ (((ws249.advance
    T).ce.cmd = some (ceCmd 2 0 65537)) ∧ ((ceCmd 2 0 65537).fail = 0) ∧ ((ceCmd 2 0 65537).ctx < 2048) ∧ (ceRec
    (ws249.advance T) (ceCmd 2 0 65537).ctx = some (ceB 0#8)) ∧ ((ceCmd 2 0 65537).op = 2) ∧ ((slotOf ((ws249.advance T).ctx
    (ceCmd 2 0 65537).ctx) (1 - ((ws249.advance T).ctx (ceCmd 2 0 65537).ctx).act)).st ≠ 1)) ∧ (((ws253.advance T).ce.cmd =
    some (ceCmd 3 0 65537)) ∧ ((ceCmd 3 0 65537).fail = 0) ∧ ((ceCmd 3 0 65537).ctx < 2048) ∧ (ceRec (ws253.advance T) (ceCmd
    3 0 65537).ctx = some (ceB 1#8)) ∧ ((ceCmd 3 0 65537).op = 3) ∧ (ceTx (ceB 1#8) = true) ∧ ((ceCmd 3 0 65537).slot =
    ((ws253.advance T).ctx (ceCmd 3 0 65537).ctx).act) ∧ (usable (slotOf ((ws253.advance T).ctx (ceCmd 3 0 65537).ctx) (ceCmd
    3 0 65537).slot) = true)) ∧ (((ws254.advance T).ce.cmd = some (ceCmd 3 1 65537)) ∧ ((ceCmd 3 1 65537).fail = 0) ∧ ((ceCmd
    3 1 65537).ctx < 2048) ∧ (ceRec (ws254.advance T) (ceCmd 3 1 65537).ctx = some (ceB 1#8)) ∧ ((ceCmd 3 1 65537).op = 3) ∧
    (ceTx (ceB 1#8) = false ∨ (ceCmd 3 1 65537).slot ≠ ((ws254.advance T).ctx (ceCmd 3 1 65537).ctx).act ∨ usable (slotOf
    ((ws254.advance T).ctx (ceCmd 3 1 65537).ctx) (ceCmd 3 1 65537).slot) = false)) ∧ (((ws255.advance T).ce.cmd = some (ceCmd
    4 0 65537)) ∧ ((ceCmd 4 0 65537).fail = 0) ∧ ((ceCmd 4 0 65537).ctx < 2048) ∧ (ceRec (ws255.advance T) (ceCmd 4 0
    65537).ctx = some (ceB 0#8)) ∧ ((ceCmd 4 0 65537).op = 4)) ∧ (((ws256.advance T).ce.cmd = some (ceCmd 5 0 65537)) ∧
    ((ceCmd 5 0 65537).fail = 0) ∧ ((ceCmd 5 0 65537).ctx < 2048) ∧ (ceRec (ws256.advance T) (ceCmd 5 0 65537).ctx = some (ceB
    0#8)) ∧ ((ceCmd 5 0 65537).op = 5) ∧ ((tget
    { kind := 0, stream := 0, full := false, ctx := { s0 := { st := 0, key := [], salt := [], mki := 0, used := 0, limit := 0 }, s1 := { st := 0, key := [], salt := [], mki := 0, used := 0, limit := 0 }, act := 0, chg := none, index := none, tagFail := 0, replay := 0, replayEll := 0, nokeyEll := 0, chgLogged := false } }
    (ws256.advance T).ce.saves ((ceCmd 5 0 65537).arg % 512)).full = true) ∧ ((tget
    { kind := 0, stream := 0, full := false, ctx := { s0 := { st := 0, key := [], salt := [], mki := 0, used := 0, limit := 0 }, s1 := { st := 0, key := [], salt := [], mki := 0, used := 0, limit := 0 }, act := 0, chg := none, index := none, tagFail := 0, replay := 0, replayEll := 0, nokeyEll := 0, chgLogged := false } }
    (ws256.advance T).ce.saves ((ceCmd 5 0 65537).arg % 512)).kind = b2n (ceTx (ceB 0#8))) ∧ ((tget
    { kind := 0, stream := 0, full := false, ctx := { s0 := { st := 0, key := [], salt := [], mki := 0, used := 0, limit := 0 }, s1 := { st := 0, key := [], salt := [], mki := 0, used := 0, limit := 0 }, act := 0, chg := none, index := none, tagFail := 0, replay := 0, replayEll := 0, nokeyEll := 0, chgLogged := false } }
    (ws256.advance T).ce.saves ((ceCmd 5 0 65537).arg % 512)).stream = ceStream (ceB 0#8))) ∧ (((ws257.advance T).ce.cmd =
    some (ceCmd 5 0 65537)) ∧ ((ceCmd 5 0 65537).fail = 0) ∧ ((ceCmd 5 0 65537).ctx < 2048) ∧ (ceRec (ws257.advance T) (ceCmd
    5 0 65537).ctx = some (ceB 1#8)) ∧ ((ceCmd 5 0 65537).op = 5) ∧ ((tget
    { kind := 0, stream := 0, full := false, ctx := { s0 := { st := 0, key := [], salt := [], mki := 0, used := 0, limit := 0 }, s1 := { st := 0, key := [], salt := [], mki := 0, used := 0, limit := 0 }, act := 0, chg := none, index := none, tagFail := 0, replay := 0, replayEll := 0, nokeyEll := 0, chgLogged := false } }
    (ws257.advance T).ce.saves ((ceCmd 5 0 65537).arg % 512)).full = false ∨ (tget
    { kind := 0, stream := 0, full := false, ctx := { s0 := { st := 0, key := [], salt := [], mki := 0, used := 0, limit := 0 }, s1 := { st := 0, key := [], salt := [], mki := 0, used := 0, limit := 0 }, act := 0, chg := none, index := none, tagFail := 0, replay := 0, replayEll := 0, nokeyEll := 0, chgLogged := false } }
    (ws257.advance T).ce.saves ((ceCmd 5 0 65537).arg % 512)).kind ≠ b2n (ceTx (ceB 1#8)) ∨ (tget
    { kind := 0, stream := 0, full := false, ctx := { s0 := { st := 0, key := [], salt := [], mki := 0, used := 0, limit := 0 }, s1 := { st := 0, key := [], salt := [], mki := 0, used := 0, limit := 0 }, act := 0, chg := none, index := none, tagFail := 0, replay := 0, replayEll := 0, nokeyEll := 0, chgLogged := false } }
    (ws257.advance T).ce.saves ((ceCmd 5 0 65537).arg % 512)).stream ≠ ceStream (ceB 1#8))) ∧ (((ws258.advance T).ce.cmd =
    some (ceCmd 6 0 65537)) ∧ ((ceCmd 6 0 65537).fail = 0) ∧ ((ceCmd 6 0 65537).ctx < 2048) ∧ (ceRec (ws258.advance T) (ceCmd
    6 0 65537).ctx = some (ceB 0#8)) ∧ ((ceCmd 6 0 65537).op = 6) ∧ (kekUsable (ws258.advance T) (ceCmd 6 0 65537).kek =
    true)) ∧ (((ws259.advance T).ce.cmd = some (ceCmd 6 0 65537)) ∧ ((ceCmd 6 0 65537).fail = 0) ∧ ((ceCmd 6 0 65537).ctx <
    2048) ∧ (ceRec (ws259.advance T) (ceCmd 6 0 65537).ctx = some (ceB 0#8)) ∧ ((ceCmd 6 0 65537).op = 6) ∧ (kekUsable
    (ws259.advance T) (ceCmd 6 0 65537).kek = false)) ∧ (((ws260.advance T).ce.cmd = some (ceCmd 7 0 65537)) ∧ ((ceCmd 7 0
    65537).fail = 0) ∧ ((ceCmd 7 0 65537).ctx < 2048) ∧ (ceRec (ws260.advance T) (ceCmd 7 0 65537).ctx = some (ceB 0#8)) ∧
    ((ceCmd 7 0 65537).op = 7)) := by and_intros <;> decide +kernel

theorem witness_blocksAreReleasedOnlyWhenVerified :
    ((czRec (ws261.advance T) 9 = some (zB 1#8 1#8)) ∧ (czKind (zB 1#8 1#8) = 1) ∧ (pickUnit (ws261.advance T) [0, 1] = some
    0) ∧ ((ws261.advance T).cz.txq = [zPkt]) ∧ (zPkt.stream = czStream (zB 1#8 1#8)) ∧ ((ws261.advance T).cz.delayed = []) ∧
    ((ws261.advance T).recNow tyTX (czStream (zB 1#8 1#8)) = some zTx)) ∧ ((czRec (ws262.advance T) 9 = some (zB 1#8 1#8)) ∧
    (pickUnit (ws262.advance T) [0, 1] = none)) ∧ ((czRec (ws263.advance T) 9 = some (zB 2#8 1#8)) ∧ (takeMarked (zB 2#8 1#8)
    (ws263.advance T) = (some ws264, ws265)) ∧ (ws265.pending = (ws263.advance T).pending) ∧ (ws265.gts = (ws263.advance
    T).gts) ∧ (ws265.fuses = (ws263.advance T).fuses) ∧ ((ws263.advance T).cz.refused = []) ∧ (ws264.data.length ≤ 65535) ∧
    (czKind (zB 2#8 1#8) = 2) ∧ (pickUnit (ws263.advance T) [0, 1] = some 0) ∧ (unitOf (ws263.advance T) [0, 1] 9 = none)) ∧
    ((czRec (ws266.advance T) 9 = some (zB 3#8 1#8)) ∧ (takeMarked (zB 3#8 1#8) (ws266.advance T) = (some ws264, ws267)) ∧
    (ws267.pending = (ws266.advance T).pending) ∧ (ws267.gts = (ws266.advance T).gts) ∧ (ws267.fuses = (ws266.advance
    T).fuses) ∧ ((ws266.advance T).cz.refused = []) ∧ (ws264.data.length ≤ 65535) ∧ (czKind (zB 3#8 1#8) = 3) ∧ (pickUnit
    (ws266.advance T) [2, 3] = some 2) ∧ (unitOf (ws266.advance T) [2, 3] 9 = none)) ∧ ((czRec (ws268.advance T) 9 = some (zB
    1#8 1#8)) ∧ (unitOf (ws268.advance T) [0, 1] 9 = some 1) ∧ (czKind (zB 1#8 1#8) = 1) ∧ (((ws268.advance T).unit 1).lost =
    false) ∧ (((ws268.advance T).unit 1).pos < ((ws268.advance T).unit 1).raw.length ∨ ((ws268.advance T).unit 1).blocks = 0)
    ∧ (if czMode (zB 1#8 1#8) = 0 then (List.take (czMax (zB 1#8 1#8)) (List.drop ((ws268.advance T).unit 1).pos
    ((ws268.advance T).unit 1).raw)).length + 8 ≤ 16384 else (zLast.length + 7) / 8 ≤ 16384) ∧ ((true && verifies
    ((ws268.advance T).unit 1) zLast (decide (((ws268.advance T).unit 1).raw.length ≤ ((ws268.advance T).unit 1).pos +
    (List.take (czMax (zB 1#8 1#8)) (List.drop ((ws268.advance T).unit 1).pos ((ws268.advance T).unit 1).raw)).length))
    (List.take (czMax (zB 1#8 1#8)) (List.drop ((ws268.advance T).unit 1).pos ((ws268.advance T).unit 1).raw))) = true) ∧
    ((decide (8 * ((List.take (czMax (zB 1#8 1#8)) (List.drop ((ws268.advance T).unit 1).pos ((ws268.advance T).unit
    1).raw)).length + 3) < zLast.length) || !modeWrites (czMode (zB 1#8 1#8)) zLast) = false)) ∧ ((czRec (ws268.advance T) 9 =
    some (zB 1#8 1#8)) ∧ (unitOf (ws268.advance T) [0, 1] 9 = some 1) ∧ (czKind (zB 1#8 1#8) = 1) ∧ (((ws268.advance T).unit
    1).lost = false) ∧ (((ws268.advance T).unit 1).pos < ((ws268.advance T).unit 1).raw.length ∨ ((ws268.advance T).unit
    1).blocks = 0) ∧ (if czMode (zB 1#8 1#8) = 0 then (List.take (czMax (zB 1#8 1#8)) (List.drop ((ws268.advance T).unit
    1).pos ((ws268.advance T).unit 1).raw)).length + 8 ≤ 16384 else ((List.replicate 5000 true).length + 7) / 8 ≤ 16384) ∧
    ((decide (8 * ((List.take (czMax (zB 1#8 1#8)) (List.drop ((ws268.advance T).unit 1).pos ((ws268.advance T).unit
    1).raw)).length + 3) < (List.replicate 5000 true).length) || !modeWrites (czMode (zB 1#8 1#8)) (List.replicate 5000 true))
    = true) ∧ (true = true) ∧ (verifies ((ws268.advance T).unit 1) (storedBits ((ws268.advance T).unit 1).bits.length (decide
    (((ws268.advance T).unit 1).raw.length ≤ ((ws268.advance T).unit 1).pos + (List.take (czMax (zB 1#8 1#8)) (List.drop
    ((ws268.advance T).unit 1).pos ((ws268.advance T).unit 1).raw)).length)) (List.take (czMax (zB 1#8 1#8)) (List.drop
    ((ws268.advance T).unit 1).pos ((ws268.advance T).unit 1).raw))) (decide (((ws268.advance T).unit 1).raw.length ≤
    ((ws268.advance T).unit 1).pos + (List.take (czMax (zB 1#8 1#8)) (List.drop ((ws268.advance T).unit 1).pos ((ws268.advance
    T).unit 1).raw)).length)) (List.take (czMax (zB 1#8 1#8)) (List.drop ((ws268.advance T).unit 1).pos ((ws268.advance
    T).unit 1).raw)) = true)) ∧ ((czRec (ws268.advance T) 9 = some (zB 1#8 1#8)) ∧ (unitOf (ws268.advance T) [0, 1] 9 = some
    1) ∧ (czKind (zB 1#8 1#8) = 1) ∧ (((ws268.advance T).unit 1).lost = false) ∧ (((ws268.advance T).unit 1).pos <
    ((ws268.advance T).unit 1).raw.length ∨ ((ws268.advance T).unit 1).blocks = 0) ∧ (if czMode (zB 1#8 1#8) = 0 then
    (List.take (czMax (zB 1#8 1#8)) (List.drop ((ws268.advance T).unit 1).pos ((ws268.advance T).unit 1).raw)).length + 8 ≤
    16384 else (zLast.length + 7) / 8 ≤ 16384) ∧ ((false && verifies ((ws268.advance T).unit 1) zLast (decide (((ws268.advance
    T).unit 1).raw.length ≤ ((ws268.advance T).unit 1).pos + (List.take (czMax (zB 1#8 1#8)) (List.drop ((ws268.advance
    T).unit 1).pos ((ws268.advance T).unit 1).raw)).length)) (List.take (czMax (zB 1#8 1#8)) (List.drop ((ws268.advance
    T).unit 1).pos ((ws268.advance T).unit 1).raw))) = false) ∧ ((decide (8 * ((List.take (czMax (zB 1#8 1#8)) (List.drop
    ((ws268.advance T).unit 1).pos ((ws268.advance T).unit 1).raw)).length + 3) < zLast.length) || !modeWrites (czMode (zB 1#8
    1#8)) zLast) = false) ∧ (true = true) ∧ (verifies ((ws268.advance T).unit 1) (storedBits ((ws268.advance T).unit
    1).bits.length (decide (((ws268.advance T).unit 1).raw.length ≤ ((ws268.advance T).unit 1).pos + (List.take (czMax (zB 1#8
    1#8)) (List.drop ((ws268.advance T).unit 1).pos ((ws268.advance T).unit 1).raw)).length)) (List.take (czMax (zB 1#8 1#8))
    (List.drop ((ws268.advance T).unit 1).pos ((ws268.advance T).unit 1).raw))) (decide (((ws268.advance T).unit 1).raw.length
    ≤ ((ws268.advance T).unit 1).pos + (List.take (czMax (zB 1#8 1#8)) (List.drop ((ws268.advance T).unit 1).pos
    ((ws268.advance T).unit 1).raw)).length)) (List.take (czMax (zB 1#8 1#8)) (List.drop ((ws268.advance T).unit 1).pos
    ((ws268.advance T).unit 1).raw)) = true)) ∧ ((czRec (ws268.advance T) 9 = some (zB 1#8 1#8)) ∧ (unitOf (ws268.advance T)
    [0, 1] 9 = some 1) ∧ (czKind (zB 1#8 1#8) = 1) ∧ (((ws268.advance T).unit 1).lost = false) ∧ (((ws268.advance T).unit
    1).pos < ((ws268.advance T).unit 1).raw.length ∨ ((ws268.advance T).unit 1).blocks = 0) ∧ (if czMode (zB 1#8 1#8) = 0 then
    (List.take (czMax (zB 1#8 1#8)) (List.drop ((ws268.advance T).unit 1).pos ((ws268.advance T).unit 1).raw)).length + 8 ≤
    16384 else ((List.replicate 5000 true).length + 7) / 8 ≤ 16384) ∧ ((decide (8 * ((List.take (czMax (zB 1#8 1#8))
    (List.drop ((ws268.advance T).unit 1).pos ((ws268.advance T).unit 1).raw)).length + 3) < (List.replicate 5000
    true).length) || !modeWrites (czMode (zB 1#8 1#8)) (List.replicate 5000 true)) = true) ∧ ((false && verifies
    ((ws268.advance T).unit 1) (storedBits ((ws268.advance T).unit 1).bits.length (decide (((ws268.advance T).unit
    1).raw.length ≤ ((ws268.advance T).unit 1).pos + (List.take (czMax (zB 1#8 1#8)) (List.drop ((ws268.advance T).unit 1).pos
    ((ws268.advance T).unit 1).raw)).length)) (List.take (czMax (zB 1#8 1#8)) (List.drop ((ws268.advance T).unit 1).pos
    ((ws268.advance T).unit 1).raw))) (decide (((ws268.advance T).unit 1).raw.length ≤ ((ws268.advance T).unit 1).pos +
    (List.take (czMax (zB 1#8 1#8)) (List.drop ((ws268.advance T).unit 1).pos ((ws268.advance T).unit 1).raw)).length))
    (List.take (czMax (zB 1#8 1#8)) (List.drop ((ws268.advance T).unit 1).pos ((ws268.advance T).unit 1).raw))) = false) ∧
    (((ws268.advance T).unit 1).pkt = some zPkt) ∧ (((ws268.advance T).unit 1).ctx = 9)) ∧ ((czRec (ws269.advance T) 9 = some
    (zB 1#8 1#8)) ∧ (unitOf (ws269.advance T) [0, 1] 9 = none)) ∧ ((czRec (ws270.advance T) 9 = some (zB 2#8 1#8)) ∧
    (((ws270.advance T).unit 1).ctx = 9) ∧ (((ws270.advance T).unit 1).stalled = false)) ∧ ((czRec (ws271.advance T) 9 = some
    (zB 2#8 1#8)) ∧ (qCap zQ = qCap zQ) ∧ (((ws271.advance T).unit 1).ctx = 9) ∧ (((ws271.advance T).unit 1).stalled = true) ∧
    (czKind (zB 2#8 1#8) = 2) ∧ (qDesc (ws271.advance T) (czQout (zB 2#8 1#8)) = some zQ) ∧ (ws272 = (ws271.advance T).queue
    (czQout (zB 2#8 1#8))) ∧ (qOcc zQ ws272 < qSlots zQ) ∧ (qDepth zQ ws272 < qSlots zQ) ∧ (qProd zQ = 8) ∧ (qBusy ws272 =
    false) ∧ (ws272.popStall = false) ∧ (ws272.coming = []) ∧ (ws272.dropPend = false) ∧ (qPfc zQ = false) ∧ (0 < qCap zQ) ∧
    (qCap zQ < (List.drop ((ws271.advance T).unit 1).pushed (unitBytes (zB 2#8 1#8) ((ws271.advance T).unit 1) false)).length)
    ∧ ((List.drop ((ws271.advance T).unit 1).pushed (unitBytes (zB 2#8 1#8) ((ws271.advance T).unit 1) false)).length ≤ 2 *
    qCap zQ)) ∧ ((czRec (ws273.advance T) 9 = some (zB 1#8 1#8)) ∧ (unitOf (ws273.advance T) [0, 1] 9 = some 1) ∧
    ((ws273.advance T).cz.delayed = []) ∧ (((ws273.advance T).unit 1).raw.length ≤ ((ws273.advance T).unit 1).pos) ∧
    (((ws273.advance T).unit 1).blocks ≠ 0) ∧ (((ws273.advance T).unit 1).pkt = some zPkt) ∧ ((ws273.advance T).recNow tyTX
    zPkt.stream = some zTx) ∧ (txCeCtx zTx ≠ 65535)) ∧ ((czRec (ws274.advance T) 9 = some (zB 0#8 0#8)) ∧ (czKind (zB 0#8 0#8)
    = 0) ∧ (pickUnit (ws274.advance T) [2, 3] = some 2) ∧ ((ws274.advance T).cz.inq = [zCopy zPay]) ∧ ((zCopy zPay).stream =
    czStream (zB 0#8 0#8)) ∧ ((zCopy zPay).leg = if Leg.red = Leg.red then 0 else 1) ∧ ((zCopy zPay).seq = 7) ∧
    ((ws274.advance T).cz.delayed = []) ∧ ((ws274.advance T).cz.refused = []) ∧ (rxEntry (ws274.advance T) (czStream (zB 0#8
    0#8)) = some zRx) ∧ (headerOk (rxCtl zRx) (zCopy zPay).payload = true)) ∧ ((czRec (ws275.advance T) 9 = some (zB 0#8 0#8))
    ∧ (czKind (zB 0#8 0#8) = 0) ∧ (pickUnit (ws275.advance T) [2, 3] = some 2) ∧ ((ws275.advance T).cz.inq = [zCopy [1#8, 2#8,
    3#8, 4#8]]) ∧ ((zCopy [1#8, 2#8, 3#8, 4#8]).stream = czStream (zB 0#8 0#8)) ∧ ((zCopy [1#8, 2#8, 3#8, 4#8]).leg = if
    Leg.red = Leg.red then 0 else 1) ∧ ((zCopy [1#8, 2#8, 3#8, 4#8]).seq = 7) ∧ ((ws275.advance T).cz.delayed = []) ∧
    ((ws275.advance T).cz.refused = []) ∧ (rxEntry (ws275.advance T) (czStream (zB 0#8 0#8)) = some zRx) ∧ (headerOk (rxCtl
    zRx) (zCopy [1#8, 2#8, 3#8, 4#8]).payload = false) ∧ (((ws275.advance T).rx (zCopy [1#8, 2#8, 3#8, 4#8]).stream).waiting =
    [])) ∧ ((czRec (ws276.advance T) 9 = some (zB 0#8 0#8)) ∧ (unitOf (ws276.advance T) [2, 3] 9 = some 2) ∧ (((ws276.advance
    T).unit 2).copy = some (zCopy [1#8, 2#8, 3#8, 4#8])) ∧ ((zCopy [1#8, 2#8, 3#8, 4#8]).role = CopyRole.first) ∧ (rxEntry
    (ws276.advance T) (zCopy [1#8, 2#8, 3#8, 4#8]).stream = some zRx) ∧ (fmtOf (rxCtl zRx) = 2) ∧ (((ws276.advance T).rx
    (zCopy [1#8, 2#8, 3#8, 4#8]).stream).waiting = []) ∧ ((ws276.advance T).se.direct = []) ∧ ((tget
    { st := 0, legs := 0, leg := 0, ts := 0, m := false, gts := 0, first := 0, len := 0, seq := 0 } ((ws276.advance T).rx
    (zCopy [1#8, 2#8, 3#8, 4#8]).stream).merge ((zCopy [1#8, 2#8, 3#8, 4#8]).seq % 2048)).st = 1) ∧ ((tget
    { st := 0, legs := 0, leg := 0, ts := 0, m := false, gts := 0, first := 0, len := 0, seq := 0 } ((ws276.advance T).rx
    (zCopy [1#8, 2#8, 3#8, 4#8]).stream).merge ((zCopy [1#8, 2#8, 3#8, 4#8]).seq % 2048)).seq = (zCopy [1#8, 2#8, 3#8,
    4#8]).seq) ∧ ((tget { st := 0, legs := 0, leg := 0, ts := 0, m := false, gts := 0, first := 0, len := 0, seq := 0 }
    ((ws276.advance T).rx (zCopy [1#8, 2#8, 3#8, 4#8]).stream).merge ((zCopy [1#8, 2#8, 3#8, 4#8]).seq % 2048)).leg = (zCopy
    [1#8, 2#8, 3#8, 4#8]).leg) ∧ ((if false = true then some 4 else (dalow (imageLen (rxCtl zRx) (zCopy [1#8, 2#8, 3#8,
    4#8]).payload) (List.drop 4 (zCopy [1#8, 2#8, 3#8, 4#8]).payload)).snd) = some 3)) ∧ ((czRec (ws277.advance T) 9 = some
    (zB 0#8 0#8)) ∧ (unitOf (ws277.advance T) [2, 3] 9 = some 2) ∧ (((ws277.advance T).unit 2).copy = some (zCopy zPay)) ∧
    ((zCopy zPay).role = CopyRole.first) ∧ (rxEntry (ws277.advance T) (zCopy zPay).stream = some zRx) ∧ (fmtOf (rxCtl zRx) =
    2) ∧ (((ws277.advance T).rx (zCopy zPay).stream).waiting = []) ∧ ((ws277.advance T).se.direct = []) ∧ ((tget
    { st := 0, legs := 0, leg := 0, ts := 0, m := false, gts := 0, first := 0, len := 0, seq := 0 } ((ws277.advance T).rx
    (zCopy zPay).stream).merge ((zCopy zPay).seq % 2048)).st = 1) ∧ ((tget
    { st := 0, legs := 0, leg := 0, ts := 0, m := false, gts := 0, first := 0, len := 0, seq := 0 } ((ws277.advance T).rx
    (zCopy zPay).stream).merge ((zCopy zPay).seq % 2048)).seq = (zCopy zPay).seq) ∧ ((tget
    { st := 0, legs := 0, leg := 0, ts := 0, m := false, gts := 0, first := 0, len := 0, seq := 0 } ((ws277.advance T).rx
    (zCopy zPay).stream).merge ((zCopy zPay).seq % 2048)).leg = (zCopy zPay).leg) ∧ (false = false) ∧ ((dalow (imageLen (rxCtl
    zRx) (zCopy zPay).payload) (List.drop 4 (zCopy zPay).payload)).snd = none) ∧ ((ws277.advance T).cz.delayed = [])) := by and_intros <;> decide +kernel

theorem witness_memoryErrorsAndTimeoutsAreContained :
    (14 < 65536) ∧ (regionOf (ws278.advance T) 3 5 = none) ∧ ((ws278.advance T).sup.badProg.contains (3, 70) = false) ∧
    (((ws279.advance T).sup.badProg.contains (3, 70) = true) ∧ (repairable (ws279.advance T) 3 70 = true) ∧ (true = true)) ∧
    (((ws279.advance T).sup.badProg.contains (3, 70) = true) ∧ (repairable (ws279.advance T) 3 70 = true) ∧ (false = false) ∧
    (bit ((ws279.advance T).reg (baseSV + 1536)) 15 = false)) ∧ (((ws280.advance T).sup.badProg.contains (3, 70) = true) ∧
    (repairable (ws280.advance T) 3 70 = true) ∧ (false = false) ∧ (bit ((ws280.advance T).reg (baseSV + 1536)) 15 = true) ∧
    ((ws280.advance T).sup.mode = Mode.service)) ∧ ((37 = 32 + 5) ∧ (((ws281.advance T).core 5).st ≠ 0) ∧ (((ws281.advance
    T).core 5).attempt = 0) ∧ (5 % 5 ≠ 4) ∧ (3 = ((ws281.advance T).core 5).inst) ∧ (((ws281.advance T).task 3).fin = false) ∧
    (standbyFree (ws281.advance T) (tkHolm (instBody (ws281.advance T) 3)) = true) ∧ (outranked (ws281.advance T) 37 (5 *
    tkHolm (instBody (ws281.advance T) 3) + 4) = none) ∧ (tget [] (ws281.advance T).sup.faultElls 37 = [])) ∧ ((9 ≠ 6) ∧
    ((ws278.advance T).sup.hsLog = [])) ∧ (((ws282.advance T).sup.hsLog = [((ws282.advance T).ell, 9, 4)]) ∧ (15#8 = 15#8)) := by and_intros <;> decide +kernel

theorem witness_freezesEndByRequestTestOrTime :
    ((allows Master.host (baseSV + 1540) true (ws278.advance T) = true) ∧ ((ws278.advance T).isFrozen 13 = false)) ∧ ((allows
    Master.supervisor (baseSV + 1540) true (frozen.advance T) = true) ∧ ((frozen.advance T).isFrozen 17 = true) ∧ (17 < 32 ∨
    112 ≤ 17)) ∧ ((allows Master.supervisor (baseSV + 1540) true (frozen.advance T) = true) ∧ ((frozen.advance T).isFrozen 33
    = true) ∧ (32 ≤ 33) ∧ (33 < 112)) ∧ ((ws278.advance T).sup.bist = []) ∧ ((32 + 0, (frozen.advance T).ell) ∈
    (frozen.advance T).sup.bist) ∧ ((frozen.advance 100000000004#64).isFrozen 13 = false ∨ (frozen.advance
    100000000004#64).rfld (baseSV + 1536) 31 16 = 0 ∨ (frozen.advance 100000000004#64).now < (frozen.advance
    100000000004#64).sup.hostFrozenAt + (frozen.advance 100000000004#64).rfld (baseSV + 1536) 31 16 * 4000000) ∧
    (((frozen.advance T).isFrozen 13 = true) ∧ ((frozen.advance T).rfld (baseSV + 1536) 31 16 ≠ 0) ∧ ((frozen.advance
    T).sup.hostFrozenAt + (frozen.advance T).rfld (baseSV + 1536) 31 16 * 4000000 ≤ (frozen.advance T).now)) ∧ (allows
    Master.host (baseSV + 2196) true (ws278.advance T) = true) := by and_intros <;> decide +kernel

theorem witness_modeOperationsWaitForTheBoundary :
    ((allows Master.host (baseSV + 2560) true (ws283.advance T) = true) ∧ ((ws283.advance T).sup.mode ≠ Mode.lockdown) ∧ (3#8
    ≠ 90#8)) ∧ ((allows Master.host (baseSV + 2560) true (ws285.advance T) = true) ∧ ((ws285.advance T).sup.mode ≠
    Mode.lockdown) ∧ (90#8 = 90#8) ∧ (requestAllowed (ws285.advance T).sup.mode ws286.snd.fst = 1)) ∧ ((allows
    Master.supervisor (baseSV + 2560) true (ws287.advance T) = true) ∧ ((ws287.advance T).sup.mode ≠ Mode.lockdown) ∧ (90#8 =
    90#8) ∧ (requestAllowed (ws287.advance T).sup.mode ws288.snd.fst = 0)) ∧ ((allows Master.host (baseSV + 2560) true
    (ws289.advance T) = true) ∧ ((ws289.advance T).sup.mode ≠ Mode.lockdown) ∧ (90#8 = 90#8) ∧ (requestAllowed (ws289.advance
    T).sup.mode ws290.snd.fst = 2)) ∧ ((allows Master.host (baseSV + 2560) true (ws283.advance T) = true) ∧ ((ws283.advance
    T).sup.mode ≠ Mode.lockdown) ∧ (90#8 = 90#8) ∧ (Master.host ≠ Master.spi ∨ (ws283.advance T).sup.mode ≠ Mode.standby)) ∧
    ((allows Master.spi (baseSV + 2560) true (ws291.advance T) = true) ∧ ((ws291.advance T).sup.mode ≠ Mode.lockdown) ∧ (90#8
    = 90#8) ∧ (Master.spi = Master.spi) ∧ ((ws291.advance T).sup.mode = Mode.standby) ∧ ((ws291.advance T).trust.level = 0)) ∧
    ((allows Master.supervisor (baseSV + 2560) true (ws292.advance T) = true) ∧ ((ws292.advance T).sup.mode = Mode.lockdown))
    ∧ (bit ((ws292.advance T).reg (baseSV + 2564)) 16 = false ∨ (ws292.advance T).sup.mode ≠ Mode.standby) ∧ ((bit
    ((ws291.advance T).reg (baseSV + 2564)) 16 = true) ∧ ((ws291.advance T).sup.mode = Mode.standby) ∧ ((ws291.advance
    T).trust.level = 0)) ∧ ((ws294.advance 12000000000#64).sup.mode ≠ Mode.calibrate ∨ (ws294.advance 12000000000#64).now <
    (ws294.advance 12000000000#64).sup.calFrom + (ws294.advance 12000000000#64).rfld (baseSV + 2564) 15 0 * sec) ∧
    (((ws294.advance 12000000001#64).sup.mode = Mode.calibrate) ∧ ((ws294.advance 12000000001#64).sup.calFrom + (ws294.advance
    12000000001#64).rfld (baseSV + 2564) 15 0 * sec ≤ (ws294.advance 12000000001#64).now)) ∧ ((ws292.advance T).sup.downTo =
    none) ∧ ((ws295.advance T).sup.downTo = some Mode.off) := by and_intros <;> decide +kernel

theorem witness_resetsClearWhatTheyReach :
    ((ws291.advance T).sup.mode = Mode.standby ∨ (ws291.advance T).sup.mode = Mode.lockdown) ∧ (((ws296.advance T).sup.mode =
    Mode.off) ∧ ((ws296.advance T).sup.tripped = false ∨ false = false)) ∧ (((ws283.advance T).sup.mode ≠ Mode.standby) ∧
    ((ws283.advance T).sup.mode ≠ Mode.lockdown) ∧ ((ws283.advance T).sup.mode ≠ Mode.off) ∧ ((ws283.advance T).trust.level =
    0)) ∧ (((ws296.advance T).sup.mode = Mode.off) ∧ ((ws296.advance T).sup.tripped = true) ∧ (true = true) ∧ ((ws296.advance
    T).trust.level = 0)) ∧ ((ws283.advance T).trust.level ≠ 2) ∧ (((ws297.advance T).trust.level = 2) ∧ ((ws297.advance
    T).sup.mode = Mode.debug)) ∧ ((ws283.advance T).sup.mode = Mode.service ∨ (ws283.advance T).sup.mode = Mode.calibrate ∨
    (ws283.advance T).sup.mode = Mode.configure ∨ (ws283.advance T).sup.mode = Mode.sheltered) ∧ ((ws287.advance T).sup.mode =
    Mode.boot ∨ (ws287.advance T).sup.mode = Mode.off ∨ (ws287.advance T).sup.mode = Mode.lockdown ∨ (ws287.advance
    T).sup.mode = Mode.recovery) ∧ (((ws298.advance T).sup.mode ≠ Mode.boot) ∧ ((ws298.advance T).sup.mode ≠ Mode.recovery)) ∧
    ((ws299.advance T).sup.mode = Mode.boot ∨ (ws299.advance T).sup.mode = Mode.recovery) ∧ (u64 [1#8] 16 < (ws299.advance
    T).fuses.rollback) ∧ (slice [1#8] 0 4 ≠ [84#8, 86#8, 70#8, 87#8]) ∧ (((ws300.advance T).sup.mode = Mode.boot) ∧
    ((ws300.advance T).sup.fwOk = true)) ∧ ((ws299.advance T).sup.fwOk = false) := by and_intros <;> decide +kernel

theorem witness_trustOperationsAnswerTheirResult :
    ((allows Master.host baseTR true (ws301.advance T) = true) ∧ (Master.host ≠ Master.debug ∨ (ws301.advance T).trust.level =
    2) ∧ ((ws301.advance T).trust.busyOp ≠ 0)) ∧ ((allows Master.host baseTR true (ws302.advance T) = true) ∧ (Master.host ≠
    Master.debug ∨ (ws302.advance T).trust.level = 2) ∧ ((ws302.advance T).trust.busyOp = 0) ∧ ((ws302.advance
    T).trust.idErased = true)) ∧ ((allows Master.host baseTR true (ws303.advance T) = true) ∧ (Master.host ≠ Master.debug ∨
    (ws303.advance T).trust.level = 2) ∧ ((ws303.advance T).trust.busyOp = 0) ∧ ((ws303.advance T).trust.idErased = false)) ∧
    ((allows Master.host baseTR true (ws304.advance T) = true) ∧ (Master.host ≠ Master.debug ∨ (ws304.advance T).trust.level =
    2) ∧ ((ws304.advance T).trust.busyOp = 0) ∧ (1 < (ws304.advance T).fuses.lifecycle)) ∧ ((allows Master.host baseTR true
    (ws305.advance T) = true) ∧ (Master.host ≠ Master.debug ∨ (ws305.advance T).trust.level = 2) ∧ ((ws305.advance
    T).trust.busyOp = 0) ∧ ((ws305.advance T).fuses.lifecycle ≤ 1) ∧ (3 < 4)) ∧ ((allows Master.host baseTR true
    (ws305.advance T) = true) ∧ (Master.host ≠ Master.debug ∨ (ws305.advance T).trust.level = 2) ∧ ((ws305.advance
    T).trust.busyOp = 0) ∧ ((ws305.advance T).fuses.lifecycle ≤ 1) ∧ (0 ≤ 3) ∧ (tget [] (ws305.advance T).fuses.slots 0 ≠ []))
    ∧ ((allows Master.host baseTR true (ws306.advance T) = true) ∧ (Master.host ≠ Master.debug ∨ (ws306.advance T).trust.level
    = 2) ∧ ((ws306.advance T).trust.busyOp = 0) ∧ ((ws306.advance T).fuses.lifecycle ≤ 1) ∧ (3 ≤ 3) ∧ (tget [] (ws306.advance
    T).fuses.slots 3 = []) ∧ (allZero (tgets (0#8) (ws306.advance T).trust.xfer 0 64) = false)) ∧ ((allows Master.host baseTR
    true (ws305.advance T) = true) ∧ (Master.host ≠ Master.debug ∨ (ws305.advance T).trust.level = 2) ∧ ((ws305.advance
    T).trust.busyOp = 0) ∧ ((ws305.advance T).fuses.lifecycle ≤ 1) ∧ (0 = 0 ∨ 3 < 0)) ∧ ((allows Master.host baseTR true
    (ws307.advance T) = true) ∧ (Master.host ≠ Master.debug ∨ (ws307.advance T).trust.level = 2) ∧ ((ws307.advance
    T).trust.busyOp = 0) ∧ ((ws307.advance T).fuses.lifecycle ≤ 1) ∧ (1 ≤ 3) ∧ (3 ≤ 3) ∧ (tget [] (ws307.advance T).fuses.keks
    3 ≠ [])) ∧ ((allows Master.host baseTR true (ws306.advance T) = true) ∧ (Master.host ≠ Master.debug ∨ (ws306.advance
    T).trust.level = 2) ∧ ((ws306.advance T).trust.busyOp = 0) ∧ ((ws306.advance T).fuses.lifecycle ≤ 1) ∧ (1 ≤ 3) ∧ (3 ≤ 3) ∧
    (tget [] (ws306.advance T).fuses.keks 3 = []) ∧ (allZero (tgets (0#8) (ws306.advance T).trust.xfer 0 32) = false)) ∧
    ((allows Master.host baseTR true (ws305.advance T) = true) ∧ (Master.host ≠ Master.debug ∨ (ws305.advance T).trust.level =
    2) ∧ ((ws305.advance T).trust.busyOp = 0) ∧ ((ws305.advance T).fuses.lifecycle ≠ 0 ∨ ¬((ws305.advance T).sup.mode =
    Mode.configure ∨ (ws305.advance T).sup.mode = Mode.service ∨ (ws305.advance T).sup.mode = Mode.sheltered))) ∧ ((allows
    Master.host baseTR true (ws303.advance T) = true) ∧ (Master.host ≠ Master.debug ∨ (ws303.advance T).trust.level = 2) ∧
    ((ws303.advance T).trust.busyOp = 0) ∧ ((ws303.advance T).fuses.lifecycle = 0) ∧ ((ws303.advance T).sup.mode =
    Mode.configure ∨ (ws303.advance T).sup.mode = Mode.service ∨ (ws303.advance T).sup.mode = Mode.sheltered) ∧ (3 ≤
    (ws303.advance T).fuses.rollback ∨ 64 < 3 ∨ (ws303.advance T).trust.fwSec < 3 ∨ (ws303.advance T).cfg.built = true ∧
    (ws303.advance T).cfg.hdr.secVersion < 3)) ∧ ((allows Master.host baseTR true (ws303.advance T) = true) ∧ (Master.host ≠
    Master.debug ∨ (ws303.advance T).trust.level = 2) ∧ ((ws303.advance T).trust.busyOp = 0) ∧ ((ws303.advance
    T).fuses.lifecycle = 0) ∧ ((ws303.advance T).sup.mode = Mode.configure ∨ (ws303.advance T).sup.mode = Mode.service ∨
    (ws303.advance T).sup.mode = Mode.sheltered) ∧ (41 ≤ (ws303.advance T).fuses.rollback ∨ 64 < 41 ∨ (ws303.advance
    T).trust.fwSec < 41 ∨ (ws303.advance T).cfg.built = true ∧ (ws303.advance T).cfg.hdr.secVersion < 41)) ∧ ((allows
    Master.host baseTR true (ws303.advance T) = true) ∧ (Master.host ≠ Master.debug ∨ (ws303.advance T).trust.level = 2) ∧
    ((ws303.advance T).trust.busyOp = 0) ∧ ((ws303.advance T).fuses.lifecycle = 0) ∧ ((ws303.advance T).sup.mode =
    Mode.configure ∨ (ws303.advance T).sup.mode = Mode.service ∨ (ws303.advance T).sup.mode = Mode.sheltered) ∧
    ((ws303.advance T).fuses.rollback < 40) ∧ (40 ≤ 64) ∧ (40 ≤ (ws303.advance T).trust.fwSec) ∧ ((ws303.advance T).cfg.built
    = false ∨ 40 ≤ (ws303.advance T).cfg.hdr.secVersion)) ∧ ((allows Master.host baseTR true (ws303.advance T) = true) ∧
    (Master.host ≠ Master.debug ∨ (ws303.advance T).trust.level = 2) ∧ ((ws303.advance T).trust.busyOp = 0) ∧ (0#8 ≠ 90#8)) ∧
    ((allows Master.host baseTR true (ws305.advance T) = true) ∧ (Master.host ≠ Master.debug ∨ (ws305.advance T).trust.level =
    2) ∧ ((ws305.advance T).trust.busyOp = 0) ∧ (90#8 = 90#8) ∧ ((ws305.advance T).fuses.lifecycle ≠ 0 ∨ tget []
    (ws305.advance T).fuses.slots 0 = [])) ∧ ((allows Master.host baseTR true (ws303.advance T) = true) ∧ (Master.host ≠
    Master.debug ∨ (ws303.advance T).trust.level = 2) ∧ ((ws303.advance T).trust.busyOp = 0) ∧ (90#8 = 90#8) ∧ ((ws303.advance
    T).fuses.lifecycle = 0) ∧ (tget [] (ws303.advance T).fuses.slots 0 ≠ [])) ∧ ((allows Master.host baseTR true
    (ws304.advance T) = true) ∧ (Master.host ≠ Master.debug ∨ (ws304.advance T).trust.level = 2) ∧ ((ws304.advance
    T).trust.busyOp = 0) ∧ (90#8 = 90#8) ∧ ((ws304.advance T).fuses.lifecycle ≠ 1)) ∧ ((allows Master.host baseTR true
    (ws305.advance T) = true) ∧ (Master.host ≠ Master.debug ∨ (ws305.advance T).trust.level = 2) ∧ ((ws305.advance
    T).trust.busyOp = 0) ∧ (90#8 = 90#8) ∧ ((ws305.advance T).fuses.lifecycle = 1)) ∧ ((allows Master.host baseTR true
    (ws305.advance T) = true) ∧ (Master.host ≠ Master.debug ∨ (ws305.advance T).trust.level = 2) ∧ ((ws305.advance
    T).trust.busyOp = 0) ∧ (Master.host ≠ Master.spi ∨ (ws305.advance T).sup.mode ≠ Mode.boot ∨ (ws305.advance T).sup.bootErr
    = 0)) ∧ ((allows Master.spi baseTR true (ws308.advance T) = true) ∧ (Master.spi ≠ Master.debug ∨ (ws308.advance
    T).trust.level = 2) ∧ ((ws308.advance T).trust.busyOp = 0) ∧ (Master.spi = Master.spi) ∧ ((ws308.advance T).sup.mode =
    Mode.boot) ∧ ((ws308.advance T).sup.bootErr ≠ 0)) ∧ ((allows Master.host baseTR true (ws305.advance T) = true) ∧
    (Master.host ≠ Master.debug ∨ (ws305.advance T).trust.level = 2) ∧ (0#8 ≠ 90#8)) ∧ ((allows Master.debug baseTR true
    (windowed.advance T) = true) ∧ (Master.debug ≠ Master.debug ∨ (windowed.advance T).trust.level = 2) ∧ (90#8 = 90#8) ∧
    (Master.debug ≠ Master.host) ∧ (Master.debug ≠ Master.spi)) ∧ ((allows Master.spi baseTR true (ws305.advance T) = true) ∧
    (Master.spi ≠ Master.debug ∨ (ws305.advance T).trust.level = 2) ∧ (90#8 = 90#8) ∧ (Master.spi = Master.host ∨ Master.spi =
    Master.spi) ∧ ((ws305.advance T).sup.mode ≠ Mode.off) ∧ ((ws305.advance T).sup.mode ≠ Mode.standby) ∧ ((ws305.advance
    T).sup.mode ≠ Mode.lockdown)) := by and_intros <;> decide +kernel

theorem witness_certificatesSessionsAndLockdown :
    ((allows Master.host baseTR true (ws309.advance T) = true) ∧ (certEarly (begun Master.host (ws309.advance T)) (tgets (0#8)
    (ws309.advance T).trust.xfer 0 5472) ≠ 0) ∧ ((ws309.advance T).trust.rejects < 15)) ∧ ((allows Master.host baseTR true
    (ws310.advance T) = true) ∧ (certEarly (begun Master.host (ws310.advance T)) (tgets (0#8) (ws310.advance T).trust.xfer 0
    5472) ≠ 0) ∧ ((ws310.advance T).trust.rejects = 15) ∧ ((ws310.advance T).sup.mode ≠ Mode.off) ∧ ((ws310.advance
    T).sup.mode ≠ Mode.standby) ∧ ((ws310.advance T).sup.mode ≠ Mode.lockdown)) ∧ ((allows Master.host baseTR true
    (ws303.advance T) = true) ∧ ((ws303.advance T).trust.busyOp = 0) ∧ ((ws303.advance T).fuses.lifecycle = 0) ∧
    (((ws303.advance T).sup.mode = Mode.configure ∨ (ws303.advance T).sup.mode = Mode.calibrate ∨ (ws303.advance T).sup.mode =
    Mode.service ∨ (ws303.advance T).sup.mode = Mode.sheltered ∨ (ws303.advance T).sup.mode = Mode.reconfigure) ∨
    (ws303.advance T).sup.mode = Mode.debug ∧ (ws303.advance T).trust.level = 0)) ∧ ((allows Master.host baseTR true
    (ws311.advance T) = true) ∧ ((ws311.advance T).trust.busyOp = 0) ∧ ((ws311.advance T).fuses.lifecycle = 0) ∧
    ((ws311.advance T).sup.mode = Mode.test ∨ (ws311.advance T).sup.mode = Mode.recovery)) ∧ ((allows Master.host baseTR true
    (ws312.advance T) = true) ∧ ((ws312.advance T).trust.busyOp = 0) ∧ ((ws312.advance T).fuses.lifecycle = 1) ∧
    (((ws312.advance T).sup.mode = Mode.configure ∨ (ws312.advance T).sup.mode = Mode.calibrate ∨ (ws312.advance T).sup.mode =
    Mode.service ∨ (ws312.advance T).sup.mode = Mode.sheltered ∨ (ws312.advance T).sup.mode = Mode.reconfigure) ∨
    (ws312.advance T).sup.mode = Mode.test ∨ (ws312.advance T).sup.mode = Mode.recovery)) ∧ ((allows Master.host baseTR true
    (ws313.advance T) = true) ∧ ((ws313.advance T).trust.busyOp = 0) ∧ (2 ≤ (ws313.advance T).fuses.lifecycle)) ∧ ((allows
    Master.host baseTR true (ws304.advance T) = true) ∧ ((ws304.advance T).trust.busyOp = 0) ∧ ((ws304.advance T).trust.level
    = 0)) ∧ ((allows Master.host baseTR true (ws314.advance T) = true) ∧ ((ws314.advance T).trust.busyOp = 0) ∧
    ((ws314.advance T).trust.level ≠ 0)) ∧ ((ws304.advance T).trust.sessEnd = none) ∧ (((ws315.advance T).trust.sessEnd = some
    100000000006) ∧ ((ws315.advance T).now < 100000000006)) ∧ (((ws316.advance T).trust.sessEnd = some 100000000005) ∧
    (100000000005 ≤ (ws316.advance T).now) ∧ ((ws316.advance T).trust.level ≠ 0)) ∧ ((ws304.advance T).trust.busyOp ≠ 2 ∨
    (ws304.advance T).trust.cert = [] ∨ true ≠ certVerdict (ws304.advance T).trust.cert) ∧ (((ws317.advance T).trust.busyOp =
    2) ∧ ((ws317.advance T).trust.cert ≠ []) ∧ ((ws317.advance T).trust.rejects < 15)) ∧ (((ws318.advance T).trust.busyOp = 2)
    ∧ ((ws318.advance T).trust.cert ≠ []) ∧ (certLate (ws318.advance T) (ws318.advance T).trust.cert ≠ 0) ∧ ((ws318.advance
    T).trust.rejects < 15)) ∧ (((ws319.advance T).trust.busyOp = 2) ∧ ((ws319.advance T).trust.cert ≠ []) ∧ (certKind
    (ws319.advance T).trust.cert = 1) ∧ ((ws319.advance T).fuses.lifecycle < 2 ∨ ¬(((ws319.advance T).sup.mode =
    Mode.configure ∨ (ws319.advance T).sup.mode = Mode.calibrate ∨ (ws319.advance T).sup.mode = Mode.service ∨ (ws319.advance
    T).sup.mode = Mode.sheltered ∨ (ws319.advance T).sup.mode = Mode.reconfigure) ∨ (ws319.advance T).sup.mode = Mode.test ∨
    (ws319.advance T).sup.mode = Mode.recovery))) ∧ (((ws320.advance T).trust.busyOp = 2) ∧ ((ws320.advance T).trust.cert ≠
    []) ∧ (certKind (ws320.advance T).trust.cert = 3) ∧ ((ws320.advance T).fuses.lifecycle = 1 ∨ (ws320.advance
    T).fuses.lifecycle = 2) ∧ (3 < certArg (ws320.advance T).trust.cert)) ∧ (((ws321.advance T).trust.busyOp = 2) ∧
    ((ws321.advance T).trust.cert ≠ []) ∧ (certKind (ws321.advance T).trust.cert = 4) ∧ ((ws321.advance T).fuses.lifecycle = 1
    ∨ (ws321.advance T).fuses.lifecycle = 2) ∧ (certArg (ws321.advance T).trust.cert ≤ 3) ∧ (∀ (j : Nat), j < 4 → (slotLive
    (ws321.advance T) j = true ↔ j = certArg (ws321.advance T).trust.cert))) ∧ (((ws322.advance T).trust.busyOp = 2) ∧
    ((ws322.advance T).trust.cert ≠ []) ∧ (certLate (ws322.advance T) (ws322.advance T).trust.cert = 0) ∧ (certKind
    (ws322.advance T).trust.cert = 1)) ∧ (((ws323.advance T).trust.busyOp = 2) ∧ ((ws323.advance T).trust.cert ≠ []) ∧
    (certLate (ws323.advance T) (ws323.advance T).trust.cert = 0) ∧ (certKind (ws323.advance T).trust.cert = 2) ∧
    ((ws323.advance T).fuses.lifecycle ≠ 2)) ∧ (((ws324.advance T).trust.busyOp = 2) ∧ ((ws324.advance T).trust.cert ≠ []) ∧
    (certLate (ws324.advance T) (ws324.advance T).trust.cert = 0) ∧ (certKind (ws324.advance T).trust.cert = 2) ∧
    ((ws324.advance T).fuses.lifecycle = 2)) ∧ (((ws325.advance T).trust.busyOp = 2) ∧ ((ws325.advance T).trust.cert ≠ []) ∧
    (certLate (ws325.advance T) (ws325.advance T).trust.cert = 0) ∧ (certKind (ws325.advance T).trust.cert = 3) ∧ (allZero
    (slice (ws325.advance T).trust.cert 112 64) = false)) ∧ (((ws326.advance T).trust.busyOp = 2) ∧ ((ws326.advance
    T).trust.cert ≠ []) ∧ (certLate (ws326.advance T) (ws326.advance T).trust.cert = 0) ∧ (certKind (ws326.advance
    T).trust.cert = 4)) ∧ (((ws327.advance T).trust.busyOp = 2) ∧ ((ws327.advance T).trust.cert ≠ []) ∧ (certLate
    (ws327.advance T) (ws327.advance T).trust.cert = 0) ∧ (certKind (ws327.advance T).trust.cert = 5)) ∧ (((ws328.advance
    T).trust.busyOp = 2) ∧ ((ws328.advance T).trust.cert ≠ []) ∧ (certLate (ws328.advance T) (ws328.advance T).trust.cert = 0)
    ∧ (certKind (ws328.advance T).trust.cert = 6)) ∧ ((ws304.advance T).trust.zeroizing = false) ∧ (((ws329.advance
    T).trust.zeroizing = true) ∧ ((ws329.advance T).trust.pendInv = none)) ∧ (((ws330.advance T).trust.zeroizing = true) ∧
    ((ws330.advance T).trust.pendInv = some 60) ∧ ((ws330.advance T).sup.mode = Mode.configure ∨ (ws330.advance T).sup.mode =
    Mode.calibrate ∨ (ws330.advance T).sup.mode = Mode.service ∨ (ws330.advance T).sup.mode = Mode.sheltered ∨ (ws330.advance
    T).sup.mode = Mode.reconfigure)) ∧ (((ws304.advance T).sup.mode ≠ Mode.off) ∧ ((ws304.advance T).sup.mode ≠ Mode.standby)
    ∧ ((ws304.advance T).sup.mode ≠ Mode.lockdown)) ∧ ((ws304.advance T).trust.busyOp ≠ 1 ∨ (ws304.advance T).trust.idReady =
    false) ∧ (((ws331.advance T).trust.busyOp = 1) ∧ ((ws331.advance T).trust.idReady = true) ∧ ((List.replicate 3309
    0#8).length = 3309)) ∧ ((ws304.advance T).trust.busyOp ≠ 7 ∨ (ws304.advance T).fuses.rollback < (ws304.advance
    T).trust.advTo) ∧ (((ws332.advance T).trust.busyOp = 7) ∧ ((ws332.advance T).trust.advTo ≤ (ws332.advance
    T).fuses.rollback)) := by and_intros <;> decide +kernel

theorem witness_ringsMoveItemsAndFrames :
    ((allows Master.host (ringReg 3 12) true (ws333.advance T) = true) ∧ ((14 % 8192 % ringMod (ws333.advance T) 3 + ringMod
    (ws333.advance T) 3 - ((ws333.advance T).ring 3).head % ringMod (ws333.advance T) 3) % ringMod (ws333.advance T) 3 ≤ 2 ^
    ringLog (ws333.advance T) 3)) ∧ ((allows Master.host (ringReg 3 12) true (ws333.advance T) = true) ∧ (2 ^ ringLog
    (ws333.advance T) 3 < (15 % 8192 % ringMod (ws333.advance T) 3 + ringMod (ws333.advance T) 3 - ((ws333.advance T).ring
    3).head % ringMod (ws333.advance T) 3) % ringMod (ws333.advance T) 3)) ∧ (((ws334.advance T).ring 3).wb = 0 ∨
    ((ws334.advance T).ring 3).wb < ringN (ws334.advance T) 3 ∧ (ws334.advance T).now < ((ws334.advance T).ring 3).wbFrom - 1
    + ringUs (ws334.advance T) 3 * 4000) ∧ ((((ws335.advance T).ring 3).wb = 0 + 1) ∧ (ringN (ws335.advance T) 3 ≤
    ((ws335.advance T).ring 3).wb ∨ ((ws335.advance T).ring 3).wbFrom - 1 + ringUs (ws335.advance T) 3 * 4000 ≤ (ws335.advance
    T).now)) ∧ ((((ws336.advance T).ring 3).wb = 1 + 1) ∧ (ringN (ws336.advance T) 3 ≤ ((ws336.advance T).ring 3).wb ∨
    ((ws336.advance T).ring 3).wbFrom - 1 + ringUs (ws336.advance T) 3 * 4000 ≤ (ws336.advance T).now)) ∧ ((7 < 8) ∧ (ringOn
    (ws337.advance T) 7 = true ∧ hostUp (ws337.advance T) = true) ∧ (ringCoded (ws337.advance T) 7 = false) ∧ (qDesc
    (ws337.advance T) (ringQueue (ws337.advance T) 7) = some (qB 7#8 7#8 0#8 0#8 0#8)) ∧ (((ws337.advance T).queue (ringQueue
    (ws337.advance T) 7)).coming = []) ∧ (((ws337.advance T).queue (ringQueue (ws337.advance T) 7)).popStall = false) ∧
    (((ws337.advance T).queue (ringQueue (ws337.advance T) 7)).push = none) ∧ (((ws337.advance T).queue (ringQueue
    (ws337.advance T) 7)).out = []) ∧ (((ws337.advance T).queue (ringQueue (ws337.advance T) 7)).pfcOn = false) ∧
    (((ws337.advance T).ring 7).chain = none) ∧ (((ws337.advance T).ring 7).chainDescs = []) ∧ (((ws337.advance T).ring
    7).overOn = false) ∧ (0 < owned (ws337.advance T) 7) ∧ ([desc 5 0] ≠ []) ∧ (qCons (qB 7#8 7#8 0#8 0#8 0#8) ≠ 13)) ∧ ((7 <
    8) ∧ (ringOn (ws338.advance T) 7 = true ∧ hostUp (ws338.advance T) = true) ∧ (ringCoded (ws338.advance T) 7 = false) ∧
    (qDesc (ws338.advance T) (ringQueue (ws338.advance T) 7) = some ringQ) ∧ (((ws338.advance T).queue (ringQueue
    (ws338.advance T) 7)).coming = []) ∧ (((ws338.advance T).queue (ringQueue (ws338.advance T) 7)).popStall = false) ∧
    (((ws338.advance T).queue (ringQueue (ws338.advance T) 7)).push = none) ∧ (((ws338.advance T).queue (ringQueue
    (ws338.advance T) 7)).out = []) ∧ (((ws338.advance T).queue (ringQueue (ws338.advance T) 7)).pfcOn = false) ∧
    (((ws338.advance T).ring 7).chain = none) ∧ (((ws338.advance T).ring 7).chainDescs = []) ∧ (((ws338.advance T).ring
    7).overOn = false) ∧ (owned (ws338.advance T) 7 = 0 ∨ [desc 5 0] = [])) ∧ ((7 < 8) ∧ (ringOn (ws339.advance T) 7 = true ∧
    hostUp (ws339.advance T) = true) ∧ (ringCoded (ws339.advance T) 7 = false) ∧ (qDesc (ws339.advance T) (ringQueue
    (ws339.advance T) 7) = some ringQ) ∧ (((ws339.advance T).queue (ringQueue (ws339.advance T) 7)).coming = []) ∧
    (((ws339.advance T).queue (ringQueue (ws339.advance T) 7)).popStall = false) ∧ (((ws339.advance T).queue (ringQueue
    (ws339.advance T) 7)).push = none) ∧ (((ws339.advance T).queue (ringQueue (ws339.advance T) 7)).out = []) ∧
    (((ws339.advance T).queue (ringQueue (ws339.advance T) 7)).pfcOn = false) ∧ (((ws339.advance T).ring 7).chain = none) ∧
    (((ws339.advance T).ring 7).chainDescs = []) ∧ (((ws339.advance T).ring 7).overOn = false) ∧ (0 < owned (ws339.advance T)
    7) ∧ ([desc 5 0] ≠ []) ∧ (qCons ringQ = 13) ∧ (0 < qDepth ringQ ((ws339.advance T).queue (ringQueue (ws339.advance T)
    7)))) ∧ ((8 ≤ 8) ∧ (ringOn (ws340.advance T) 8 = true ∧ hostUp (ws340.advance T) = true) ∧ (ringCoded (ws340.advance T) 8
    = false) ∧ (qDesc (ws340.advance T) (ringQueue (ws340.advance T) 8) = some (qB 7#8 7#8 0#8 0#8 0#8)) ∧ (qPfc (qB 7#8 7#8
    0#8 0#8 0#8) = false) ∧ (qBusy ((ws340.advance T).queue (ringQueue (ws340.advance T) 8)) = false) ∧ (((ws340.advance
    T).queue (ringQueue (ws340.advance T) 8)).popStall = false) ∧ (((ws340.advance T).queue (ringQueue (ws340.advance T)
    8)).coming = []) ∧ (qOcc (qB 7#8 7#8 0#8 0#8 0#8) ((ws340.advance T).queue (ringQueue (ws340.advance T) 8)) < qSlots (qB
    7#8 7#8 0#8 0#8 0#8)) ∧ (qDepth (qB 7#8 7#8 0#8 0#8 0#8) ((ws340.advance T).queue (ringQueue (ws340.advance T) 8)) <
    qSlots (qB 7#8 7#8 0#8 0#8 0#8)) ∧ (0 < owned (ws340.advance T) 8) ∧ (((ws340.advance T).ring 8).chain = none) ∧
    (((ws340.advance T).ring 8).chainDescs = []) ∧ (((ws340.advance T).ring 8).overOn = false) ∧ (qProd (qB 7#8 7#8 0#8 0#8
    0#8) ≠ 13)) ∧ ((8 ≤ 8) ∧ (ringOn (ws341.advance T) 8 = true ∧ hostUp (ws341.advance T) = true) ∧ (ringCoded (ws341.advance
    T) 8 = false) ∧ (qDesc (ws341.advance T) (ringQueue (ws341.advance T) 8) = some ringQ) ∧ (qPfc ringQ = false) ∧ (qBusy
    ((ws341.advance T).queue (ringQueue (ws341.advance T) 8)) = false) ∧ (((ws341.advance T).queue (ringQueue (ws341.advance
    T) 8)).popStall = false) ∧ (((ws341.advance T).queue (ringQueue (ws341.advance T) 8)).coming = []) ∧ (qOcc ringQ
    ((ws341.advance T).queue (ringQueue (ws341.advance T) 8)) < qSlots ringQ) ∧ (qDepth ringQ ((ws341.advance T).queue
    (ringQueue (ws341.advance T) 8)) < qSlots ringQ) ∧ (0 < owned (ws341.advance T) 8) ∧ (((ws341.advance T).ring 8).chain =
    none) ∧ (((ws341.advance T).ring 8).chainDescs = []) ∧ (((ws341.advance T).ring 8).overOn = false) ∧ (qProd ringQ = 13) ∧
    ((desc 5 0).flags.getLsbD 0 = false)) ∧ ((8 ≤ 8) ∧ (ringOn (ws341.advance T) 8 = true ∧ hostUp (ws341.advance T) = true) ∧
    (ringCoded (ws341.advance T) 8 = false) ∧ (qDesc (ws341.advance T) (ringQueue (ws341.advance T) 8) = some ringQ) ∧ (qPfc
    ringQ = false) ∧ (qBusy ((ws341.advance T).queue (ringQueue (ws341.advance T) 8)) = false) ∧ (((ws341.advance T).queue
    (ringQueue (ws341.advance T) 8)).popStall = false) ∧ (((ws341.advance T).queue (ringQueue (ws341.advance T) 8)).coming =
    []) ∧ (qOcc ringQ ((ws341.advance T).queue (ringQueue (ws341.advance T) 8)) < qSlots ringQ) ∧ (qDepth ringQ
    ((ws341.advance T).queue (ringQueue (ws341.advance T) 8)) < qSlots ringQ) ∧ (0 < owned (ws341.advance T) 8) ∧
    (((ws341.advance T).ring 8).chain = none) ∧ (((ws341.advance T).ring 8).chainDescs = []) ∧ (((ws341.advance T).ring
    8).overOn = false) ∧ (qProd ringQ = 13) ∧ ((desc 5 3).flags.getLsbD 0 = true) ∧ ((desc 5 3).flags.getLsbD 1 = true)) ∧ ((8
    ≤ 8) ∧ (ringOn (ws341.advance T) 8 = true ∧ hostUp (ws341.advance T) = true) ∧ (ringCoded (ws341.advance T) 8 = false) ∧
    (qDesc (ws341.advance T) (ringQueue (ws341.advance T) 8) = some ringQ) ∧ (qPfc ringQ = false) ∧ (qBusy ((ws341.advance
    T).queue (ringQueue (ws341.advance T) 8)) = false) ∧ (((ws341.advance T).queue (ringQueue (ws341.advance T) 8)).popStall =
    false) ∧ (((ws341.advance T).queue (ringQueue (ws341.advance T) 8)).coming = []) ∧ (qOcc ringQ ((ws341.advance T).queue
    (ringQueue (ws341.advance T) 8)) < qSlots ringQ) ∧ (qDepth ringQ ((ws341.advance T).queue (ringQueue (ws341.advance T) 8))
    < qSlots ringQ) ∧ (0 < owned (ws341.advance T) 8) ∧ (((ws341.advance T).ring 8).chain = none) ∧ (((ws341.advance T).ring
    8).chainDescs = []) ∧ (((ws341.advance T).ring 8).overOn = false) ∧ (qProd ringQ = 13) ∧ ((desc 5 1).flags.getLsbD 0 =
    true) ∧ ((desc 5 1).flags.getLsbD 1 = false)) ∧ ((8 ≤ 9) ∧ (ringOn (ws342.advance T) 9 = true ∧ hostUp (ws342.advance T) =
    true) ∧ (ringCoded (ws342.advance T) 9 = true) ∧ (0 < owned (ws342.advance T) 9) ∧ (((ws342.advance T).ring 9).chain =
    none) ∧ (((ws342.advance T).ring 9).chainDescs = []) ∧ (((ws342.advance T).ring 9).overOn = false) ∧ ((tget []
    (ws342.advance T).host.coded (place 200400 80 5 3).slot.toNat).length = 4)) ∧ ((8 ≤ 9) ∧ (ringOn (ws343.advance T) 9 =
    true ∧ hostUp (ws343.advance T) = true) ∧ (ringCoded (ws343.advance T) 9 = true) ∧ (0 < owned (ws343.advance T) 9) ∧
    (((ws343.advance T).ring 9).chain = none) ∧ (((ws343.advance T).ring 9).chainDescs = []) ∧ (((ws343.advance T).ring
    9).overOn = false) ∧ ((tget [] (ws343.advance T).host.coded (place 200080 80 5 3).slot.toNat).length < 4) ∧ (¬(9, (place
    200080 80 5 3).slot.toNat) ∈ codedNow (ws343.advance T) ∨ codecOf (ws343.advance T) (place 200080 80 5 3).slot.toNat =
    none ∨ ((tget [] (ws343.advance T).host.coded (place 200080 80 5 3).slot.toNat).any fun y => y.first == extendEll
    (ws343.advance T) (place 200080 80 5 3).ell.toNat) = true)) ∧ ((8 ≤ 9) ∧ (ringOn (ws343.advance T) 9 = true ∧ hostUp
    (ws343.advance T) = true) ∧ (ringCoded (ws343.advance T) 9 = true) ∧ (0 < owned (ws343.advance T) 9) ∧ (((ws343.advance
    T).ring 9).chain = none) ∧ (((ws343.advance T).ring 9).chainDescs = []) ∧ (((ws343.advance T).ring 9).overOn = false) ∧
    ((tget [] (ws343.advance T).host.coded (place 200400 80 5 3).slot.toNat).length < 4) ∧ ((9, (place 200400 80 5
    3).slot.toNat) ∈ codedNow (ws343.advance T)) ∧ (codecOf (ws343.advance T) (place 200400 80 5 3).slot.toNat = some (3, 80,
    0)) ∧ (extendEll (ws343.advance T) (place 200400 80 5 3).ell.toNat % 80 = 0) ∧ (((tget [] (ws343.advance T).host.coded
    (place 200400 80 5 3).slot.toNat).any fun y => y.first == extendEll (ws343.advance T) (place 200400 80 5 3).ell.toNat) =
    false) ∧ ((place 200400 80 5 3).flags.getLsbD 2 = true ∨ 3 = 4 ∧ 1 ≤ (place 200400 80 5 3).len.toNat ∧ (place 200400 80 5
    3).len.toNat ≤ min 1275 (15 * 80) ∨ 3 ≠ 4 ∧ (place 200400 80 5 3).len.toNat = 80) ∧ ((place 200400 80 5 3).flags.getLsbD 3
    = false ∨ 3 = 4) ∧ ((ws343.advance T).now + 40000 < (ws343.advance T).startOf (extendEll (ws343.advance T) (place 200400
    80 5 3).ell.toNat))) ∧ ((8 ≤ 9) ∧ (ringOn (ws344.advance T) 9 = true ∧ hostUp (ws344.advance T) = true) ∧ (ringCoded
    (ws344.advance T) 9 = true) ∧ (0 < owned (ws344.advance T) 9) ∧ (((ws344.advance T).ring 9).chain = none) ∧
    (((ws344.advance T).ring 9).chainDescs = []) ∧ (((ws344.advance T).ring 9).overOn = false) ∧ ((tget [] (ws344.advance
    T).host.coded (place 200000 1200 5 11).slot.toNat).length < 4) ∧ ((9, (place 200000 1200 5 11).slot.toNat) ∈ codedNow
    (ws344.advance T)) ∧ (codecOf (ws344.advance T) (place 200000 1200 5 11).slot.toNat = some (4, 80, 0)) ∧ (extendEll
    (ws344.advance T) (place 200000 1200 5 11).ell.toNat % 80 = 0) ∧ (((tget [] (ws344.advance T).host.coded (place 200000
    1200 5 11).slot.toNat).any fun y => y.first == extendEll (ws344.advance T) (place 200000 1200 5 11).ell.toNat) = false) ∧
    ((place 200000 1200 5 11).flags.getLsbD 2 = true ∨ 4 = 4 ∧ 1 ≤ (place 200000 1200 5 11).len.toNat ∧ (place 200000 1200 5
    11).len.toNat ≤ min 1275 (15 * 80) ∨ 4 ≠ 4 ∧ (place 200000 1200 5 11).len.toNat = 80) ∧ ((place 200000 1200 5
    11).flags.getLsbD 3 = false ∨ 4 = 4) ∧ ((ws344.advance T).startOf (extendEll (ws344.advance T) (place 200000 1200 5
    11).ell.toNat) ≤ (ws344.advance T).now + 40000)) ∧ ((3 < 8) ∧ (ringOn (ws345.advance T) 3 = true ∧ hostUp (ws345.advance
    T) = true) ∧ (ringCoded (ws345.advance T) 3 = true) ∧ (0 < owned (ws345.advance T) 3) ∧ ((3, 4097) ∈ codedNow
    (ws345.advance T)) ∧ (((ws345.advance T).ring 3).chain = none) ∧ (((ws345.advance T).ring 3).chainDescs = []) ∧
    (((ws345.advance T).ring 3).overOn = false) ∧ ((tget { cur := none, ready := [] } (ws345.advance T).host.codedOut
    4097).ready = [])) ∧ ((3 < 8) ∧ (ringOn (ws346.advance T) 3 = true ∧ hostUp (ws346.advance T) = true) ∧ (ringCoded
    (ws346.advance T) 3 = true) ∧ (0 < owned (ws346.advance T) 3) ∧ ((3, 4097) ∈ codedNow (ws346.advance T)) ∧
    (((ws346.advance T).ring 3).chain = none) ∧ (((ws346.advance T).ring 3).chainDescs = []) ∧ (((ws346.advance T).ring
    3).overOn = false) ∧ ((tget { cur := none, ready := [] } (ws346.advance T).host.codedOut 4097).ready = [ws347])) ∧ (ringOn
    (ws348.advance T) 3 = false) ∧ (ringOn (ws349.advance T) 3 = true) := by and_intros <;> decide +kernel

theorem witness_localInputsLockAndTestsRun :
    ((ws350.advance T).recNow tyLOCAL 8 = none) ∧ (((ws351.advance T).recNow tyLOCAL 16 = some (lb 1#8 2#8)) ∧ (isAudio 16 =
    true) ∧ (isAesOut 16 = false) ∧ (lpMode (lb 1#8 2#8) ≠ 0) ∧ (((ws351.advance T).lport 16).loopback = false) ∧
    ((ws351.advance T).sup.passThru = false) ∧ (isAesIn 16 = false) ∧ (((ws351.advance T).lport 16).locked = false) ∧
    (¬8000000000 ≤ ((ws351.advance T).now - ((ws351.advance T).lport 16).lastFrame) * lpHz (lb 1#8 2#8)) ∧ (((ws351.advance
    T).lport 16).run + 1 < 64)) ∧ (((ws352.advance T).recNow tyLOCAL 16 = some (lb 1#8 2#8)) ∧ (isAudio 16 = true) ∧ (isAesOut
    16 = false) ∧ (lpMode (lb 1#8 2#8) ≠ 0) ∧ (((ws352.advance T).lport 16).loopback = false) ∧ ((ws352.advance
    T).sup.passThru = false) ∧ (isAesIn 16 = false) ∧ (((ws352.advance T).lport 16).locked = false) ∧ (8000000000 ≤
    ((ws352.advance T).now - ((ws352.advance T).lport 16).lastFrame) * lpHz (lb 1#8 2#8))) ∧ (((ws353.advance T).recNow
    tyLOCAL 16 = some (lb 1#8 2#8)) ∧ (isAudio 16 = true) ∧ (isAesOut 16 = false) ∧ (lpMode (lb 1#8 2#8) ≠ 0) ∧
    (((ws353.advance T).lport 16).loopback = false) ∧ ((ws353.advance T).sup.passThru = false) ∧ (isAesIn 16 = false) ∧
    (((ws353.advance T).lport 16).locked = false) ∧ (¬8000000000 ≤ ((ws353.advance T).now - ((ws353.advance T).lport
    16).lastFrame) * lpHz (lb 1#8 2#8)) ∧ (64 ≤ ((ws353.advance T).lport 16).run + 1)) ∧ (((ws354.advance T).recNow tyLOCAL 16
    = some (lb 1#8 2#8)) ∧ (isAudio 16 = true) ∧ (isAesOut 16 = false) ∧ (lpMode (lb 1#8 2#8) ≠ 0) ∧ (((ws354.advance T).lport
    16).loopback = false) ∧ ((ws354.advance T).sup.passThru = false) ∧ (isAesIn 16 = false) ∧ (((ws354.advance T).lport
    16).locked = true) ∧ (¬8000000000 ≤ ((ws354.advance T).now - ((ws354.advance T).lport 16).lastFrame) * lpHz (lb 1#8 2#8))
    ∧ (lpMode (lb 1#8 2#8) = 1) ∧ (nearSample (ws354.advance T) (lb 1#8 2#8) ≤ ((ws354.advance T).lport 16).idx + 3) ∧
    (((ws354.advance T).lport 16).idx ≤ nearSample (ws354.advance T) (lb 1#8 2#8) + 3)) ∧ (((ws355.advance T).recNow tyLOCAL
    16 = some (lb 1#8 2#8)) ∧ (isAudio 16 = true) ∧ (isAesOut 16 = false) ∧ (lpMode (lb 1#8 2#8) ≠ 0) ∧ (((ws355.advance
    T).lport 16).loopback = false) ∧ ((ws355.advance T).sup.passThru = false) ∧ (isAesIn 16 = false) ∧ (((ws355.advance
    T).lport 16).locked = true) ∧ (¬8000000000 ≤ ((ws355.advance T).now - ((ws355.advance T).lport 16).lastFrame) * lpHz (lb
    1#8 2#8)) ∧ (lpMode (lb 1#8 2#8) = 1) ∧ (nearSample (ws355.advance T) (lb 1#8 2#8) ≤ ((ws355.advance T).lport 16).idx + 3)
    ∧ (((ws355.advance T).lport 16).idx ≤ nearSample (ws355.advance T) (lb 1#8 2#8) + 3)) ∧ (((ws356.advance T).recNow tyLOCAL
    16 = some (lb 1#8 2#8)) ∧ (isAudio 16 = true) ∧ (isAesOut 16 = false) ∧ (lpMode (lb 1#8 2#8) ≠ 0) ∧ (((ws356.advance
    T).lport 16).loopback = false) ∧ ((ws356.advance T).sup.passThru = false) ∧ (isAesIn 16 = false) ∧ (((ws356.advance
    T).lport 16).locked = true) ∧ (¬8000000000 ≤ ((ws356.advance T).now - ((ws356.advance T).lport 16).lastFrame) * lpHz (lb
    1#8 2#8)) ∧ (lpMode (lb 1#8 2#8) = 1) ∧ (nearSample (ws356.advance T) (lb 1#8 2#8) + 3 < ((ws356.advance T).lport
    16).idx)) ∧ (((ws357.advance T).recNow tyLOCAL 16 = some (lb 1#8 2#8)) ∧ (isAudio 16 = true) ∧ (isAesOut 16 = false) ∧
    (lpMode (lb 1#8 2#8) ≠ 0) ∧ (((ws357.advance T).lport 16).loopback = false) ∧ ((ws357.advance T).sup.passThru = false) ∧
    (isAesIn 16 = false) ∧ (((ws357.advance T).lport 16).locked = true) ∧ (¬8000000000 ≤ ((ws357.advance T).now -
    ((ws357.advance T).lport 16).lastFrame) * lpHz (lb 1#8 2#8)) ∧ (lpMode (lb 1#8 2#8) = 1) ∧ (((ws357.advance T).lport
    16).idx + 3 < nearSample (ws357.advance T) (lb 1#8 2#8))) ∧ (((ws358.advance T).recNow tyLOCAL 16 = some (lb 2#8 2#8)) ∧
    (isAudio 16 = true) ∧ (isAesOut 16 = false) ∧ (lpMode (lb 2#8 2#8) ≠ 0) ∧ (((ws358.advance T).lport 16).loopback = false)
    ∧ ((ws358.advance T).sup.passThru = false) ∧ (isAesIn 16 = false) ∧ (((ws358.advance T).lport 16).locked = true) ∧
    (¬8000000000 ≤ ((ws358.advance T).now - ((ws358.advance T).lport 16).lastFrame) * lpHz (lb 2#8 2#8)) ∧ (lpMode (lb 2#8
    2#8) ≠ 1)) ∧ (((ws359.advance T).recNow tyLOCAL 4 = some (lb 1#8 2#8)) ∧ (isAudio 4 = true) ∧ (isAesOut 4 = false) ∧
    (lpMode (lb 1#8 2#8) ≠ 0) ∧ (((ws359.advance T).lport 4).loopback = false) ∧ ((ws359.advance T).sup.passThru = false) ∧
    (isAesIn 4 = true) ∧ (two = [sam (5#24) false, sam (6#24) true]) ∧ (lpChans (lb 1#8 2#8) = 2) ∧ (¬8000000000 ≤
    ((ws359.advance T).now - ((ws359.advance T).lport 4).lastFrame) * lpHz (lb 1#8 2#8)) ∧ (((ws359.advance T).lport 4).locked
    = false) ∧ (((ws359.advance T).lport 4).run + 1 < 64)) ∧ (((ws360.advance T).recNow tyLOCAL 16 = some (lb 0#8 2#8)) ∧
    (isAudio 16 = false ∨ isAesOut 16 = true ∨ lpMode (lb 0#8 2#8) = 0 ∨ ((ws360.advance T).lport 16).loopback = true)) ∧
    (((ws361.advance T).recNow tyLOCAL 16 = some (lb 1#8 2#8)) ∧ (((ws361.advance T).lport 16).locked = false ∨ ¬8000000000 ≤
    ((ws361.advance T).now - ((ws361.advance T).lport 16).lastFrame) * lpHz (lb 1#8 2#8))) ∧ (((ws362.advance T).recNow
    tyLOCAL 16 = some (lb 1#8 2#8)) ∧ (((ws362.advance T).lport 16).locked = true) ∧ (8000000000 ≤ ((ws362.advance T).now -
    ((ws362.advance T).lport 16).lastFrame) * lpHz (lb 1#8 2#8))) ∧ ((allows Master.host (baseHP + 16) true (ws363.advance T)
    = true) ∧ ((ws363.advance T).sup.mode ≠ Mode.test)) ∧ ((allows Master.host (baseHP + 16) true (ws364.advance T) = true) ∧
    ((ws364.advance T).sup.mode = Mode.test) ∧ ((ws364.advance T).host.testOp ≠ 0)) ∧ ((allows Master.host (baseHP + 16) true
    (ws365.advance T) = true) ∧ ((ws365.advance T).sup.mode = Mode.test) ∧ ((ws365.advance T).host.testOp = 0)) ∧
    (((ws363.advance T).sup.mode ≠ Mode.boot) ∧ ((ws363.advance T).host.testOp = 0)) ∧ (((ws366.advance T).sup.mode ≠
    Mode.boot) ∧ ((ws366.advance T).host.testOp ≠ 0)) ∧ ((ws367.advance T).sup.mode = Mode.boot) ∧ (((ws367.advance
    T).sup.mode = Mode.boot) ∧ (7 = 7)) := by and_intros <;> decide +kernel



/-- The words of the filter of [09], as its listing names them. -/
theorem test_words_of_the_filter :
    ([(0x40107003, .ld gi { mode := 7, reg := 4, nf := false, ea := 3 }), (0x40681000, .ld gi { mode := 1, reg := 0x1A, nf := false, ea := 0 }),
      (0x94000002, .moviD gi 5 2), (0x329A5000, .and gi { form := 0, dst := 6, s1 := 4, s2 := 5, ci := false, cnt := 0 }),
      (0xAA030000, .moviAddress gi 1 2 0x30000), (0x610B0000, .mov gi 0x21 0x18),
      (0x4808_1400, .st gi { mode := 1, reg := 2, nf := false, ea := 0x400 }), (0x7500003E, .repi gi 62),
      (0x36A00000, .clr gi { form := 1, dst := 0, s1 := 0, s2 := 0, ci := false, cnt := 0 }),
      (0x356C0000, .mva gi { form := 3, dst := 3, s1 := 0, s2 := 0, ci := false, cnt := 0 }),
      (0x79000000, .endLoop gi), (0x7B000000, .yield gi), (0x71001207, .br gi 0x1207), (0x70000000, .nop gi)] : List (Word × Instr)).all
      (fun e => decodeGeldin gi e.1 == some e.2) = true := by decide +kernel
/-- LD D0,(P1)+ ; LD D1,(P2)+ and TAP A0,D0,D1,(P1)+,(P2)+ of the same filter. -/
theorem test_parallel_loads_of_the_filter :
    decodeGeldin gi 0x50002548 = some (.ldLd gi { ptr0 := 1, mode0 := 1, nf0 := false, reg0 := 0, ptr1 := 2, mode1 := 1, nf1 := false, reg1 := 1 }) ∧
      decodeGeldin gi 0x100082A4 = some (.tap gi false 0 0 1 { p0 := 1, m0 := 1, p1 := 2, m1 := 1, nf0 := false, nf1 := false }) := by
  and_intros <;> decide +kernel
/-- MAC A0,D0,D1, LOOPI 6 with a body of 9 words, and BRC NE of the same filter. -/
theorem test_control_words_of_the_filter :
    decodeGeldin gi 0x04004000 = some (.mac gi { sm := .signed, dual := false, aa := 0, ab := 0, x0 := 0, y0 := 1, x1 := 0, y1 := 0 }) ∧
      decodeGeldin gi 0x77008005 = some (.loopi gi 8 5) ∧ decodeGeldin gi 0x72201219 = some (.brc gi 1 0x1219) := by
  and_intros <;> decide +kernel
/-- ITU-T G.711: silence, and the largest codes, full scale at 2^23. -/
theorem test_g711 :
    lawEncode false 0 = 0xD5 ∧ lawEncode true 0 = 0xFF ∧ lawDecode false 0xAA = 4032 * 2 ^ 11 ∧ lawDecode true 0x00 = -8031 * 2 ^ 10 := by
  and_intros <;> decide +kernel
/-- A slot without signature is refused for its first bytes (R406). -/
theorem test_image_without_magic : fwErr State.reset [] = 1 := by decide +kernel

/-- A port whose association 0 may protect a frame. -/
def protecting : State := { sealing with ce := { txAn := [(0, 1)], sas := [(0, { st := 1, pn := 1, limit := 100 })] } }

/-- The frame of class 2 is protected. -/
theorem witness_a_frame_is_protected :
    let r := prepared 0 (protecting.advance T)
    npMacsec r 0 = true ∧ macsecFree r 0 (txf 2).bytes = false ∧ headOf r 0 2 = some (txf 2) ∧
      (macsecSeal 0 (txf 2).bytes (popHead 0 2 (r.setPort 0 { r.port 0 with txCur := none }))).isSome = true := by
  and_intros <;> decide +kernel

/-- FORCE, over no request of its own kind. -/
theorem witness_force_over_an_unforced_request :
    (mixing .service { pend := some (false, 3) }).mf.pend = some (false, 3) ∧
      ∀ n, (mixing .service { pend := some (false, 3) }).mf.pend ≠ some (true, n) :=
  ⟨rfl, fun _ h => nomatch h⟩

/-- A queue with a command in front. -/
theorem witness_everyStepCompletesAndOnlyAdvancesFuses :
    ({ svc with pending := [.trstN T, .perstN T] } : State).pending = .trstN T :: [.perstN T] := rfl

end Sys2Proof.Tests
end

/-! Bus accesses (R5-R7, R429): where the registers of a block lie, what a write of a stored register or of an event register leaves,
and what a read of a counter leaves. -/

namespace Sys2Proof.Machine

open Sys2Proof.Machine.State

/-! ### The register map -/

/-- The block of an offset is that of its page of 0x4000 bytes (R422). -/
theorem blkOf_add {a o : Nat} (ha : a % 0x4000 = 0) (ho : o < 0x4000) : blkOf (a + o) = blkOf a := by
  have hpage : (a + o) / 0x10000 = a / 0x10000 := by omega
  have hport : (a + o) % 0x10000 / 0x4000 = a % 0x10000 / 0x4000 := by omega
  simp only [blkOf, hpage, hport]

/-- The four ports lie at their bases (R422). -/
theorem blkOf_np_base : ∀ p, p < 4 → blkOf (Blk.np p).base = .np p ∧ (Blk.np p).base % 0x4000 = 0 := by decide

/-- The sixteen holms lie at their bases (R422). -/
theorem blkOf_ha_base : ∀ k, k < 16 → blkOf (Blk.ha k).base = .ha k ∧ (Blk.ha k).base % 0x4000 = 0 := by decide

/-- A block lies at its base, and its base is the start of a page. -/
theorem blkOf_base {off : Nat} (h : blkOf off ≠ .none) :
    blkOf (blkOf off).base = blkOf off ∧ (blkOf off).base % 0x4000 = 0 := by
  generalize hb : blkOf off = b at h ⊢
  unfold blkOf at hb
  split at hb
  case h_5 => subst hb; exact blkOf_np_base _ (by omega)
  case h_16 =>
    split at hb
    · subst hb; exact blkOf_ha_base _ (by omega)
    · split at hb
      · subst hb; decide
      · exact absurd hb.symm h
  all_goals subst hb; decide

/-- Every register in the first page of a block belongs to it. -/
theorem blkOf_base_add {off o : Nat} (h : blkOf off ≠ .none) (ho : o < 0x4000) : blkOf ((blkOf off).base + o) = blkOf off := by
  obtain ⟨hb, ha⟩ := blkOf_base h
  rw [blkOf_add ha ho, hb]

/-- Where the event and enable registers are (R429). -/
theorem evOf_eq_some {off e : Nat} (h : evOf off = some e) :
    e = (blkOf off).base + 0x104 ∧ (off = e ∨ off = e + 4) ∧ blkOf off ≠ .none := by
  unfold evOf at h
  simp only [Option.ite_none_right_eq_some, Option.some.injEq] at h
  obtain ⟨⟨hv, ho⟩, he⟩ := h
  refine ⟨he.symm, by omega, fun hn => hv ?_⟩
  rw [hn]; rfl

/-- An event register and its enable lie in one block. -/
theorem blkOf_event {off e : Nat} (h : evOf off = some e) : blkOf e = blkOf off ∧ blkOf (e + 4) = blkOf off := by
  obtain ⟨rfl, -, hn⟩ := evOf_eq_some h
  exact ⟨blkOf_base_add hn (by omega), by rw [Nat.add_assoc]; exact blkOf_base_add hn (by omega)⟩

/-- In every block only the register at 0x104 has bits that a one clears. -/
theorem regDef_w1c_of_ne {off : Nat} (h : off - (blkOf off).base ≠ 0x104) : (regDef off).w1c = 0 := by
  simp only [regDef]
  generalize off - (blkOf off).base = o at h ⊢
  split
  · rfl
  cases blkOf off
  case gl => simp only [regGL]; split <;> rfl
  case hp =>
    simp only [regHP]
    split
    case h_3 => exact absurd rfl h
    case h_5 =>
      split
      · split <;> rfl
      · rfl
    all_goals rfl
  case mem => rfl
  case none => rfl
  all_goals
    simp only [regTR, regSV, regTB, regNP, regSE, regQF, regCE, regCZ, regRC, regMF, regHA]
    split <;> simp_all [apply_ite RegDef.w1c]

/-- Only an event register has bits that a one clears. -/
theorem regDef_w1c {off : Nat} (h : evOf off = none) : (regDef off).w1c = 0 := by
  by_cases ho : off - (blkOf off).base = 0x104
  case neg => exact regDef_w1c_of_ne ho
  have hv : evVectors (blkOf off).base = [] := by simpa [evOf, ho] using h
  by_cases hn : blkOf off = .none
  · simp [regDef, hn]
  rw [evVectors, (blkOf_base hn).1] at hv
  simp only [regDef, ho]
  split
  · rfl
  cases hk : blkOf off
  case gl => rfl
  case mem => rfl
  case none => rfl
  all_goals simp [hk] at hv

/-- An event register holds nothing but bits that a one clears. -/
theorem regDef_event {off e : Nat} (h : evOf off = some e) : (regDef e).rw = 0 ∧ (regDef e).rwl = 0 := by
  have hb := (blkOf_event h).1
  obtain ⟨he, -, hn⟩ := evOf_eq_some h
  have ho : e - (blkOf off).base = 0x104 := by omega
  simp only [regDef, hb, ho]
  split
  · exact ⟨rfl, rfl⟩
  cases blkOf off <;> exact ⟨rfl, rfl⟩

/-- An enable register holds nothing but bits that a write stores. -/
theorem regDef_enable {off e : Nat} (h : evOf off = some e) : (regDef (e + 4)).rwl = 0 ∧ (regDef (e + 4)).w1c = 0 := by
  have hb := (blkOf_event h).2
  obtain ⟨he, -, hn⟩ := evOf_eq_some h
  have ho : e + 4 - (blkOf off).base = 0x108 := by omega
  simp only [regDef, hb, ho]
  split
  · exact ⟨rfl, rfl⟩
  cases blkOf off <;> exact ⟨rfl, rfl⟩

/-! ### The beginning of a request -/

@[simp] theorem begun_regs (m : Master) (s : State) : (begun m s).regs = s.regs := by obtain ⟨h, e⟩ := begun_eq m s; rw [e]
@[simp] theorem begun_sup (m : Master) (s : State) : (begun m s).sup = s.sup := by obtain ⟨h, e⟩ := begun_eq m s; rw [e]
@[simp] theorem begun_ports (m : Master) (s : State) : (begun m s).ports = s.ports := by obtain ⟨h, e⟩ := begun_eq m s; rw [e]
@[simp] theorem begun_gts (m : Master) (s : State) : (begun m s).gts = s.gts := by obtain ⟨h, e⟩ := begun_eq m s; rw [e]
@[simp] theorem begun_ctrs (m : Master) (s : State) : (begun m s).ctrs = s.ctrs := by obtain ⟨h, e⟩ := begun_eq m s; rw [e]
@[simp] theorem begun_cntHi (m : Master) (s : State) : (begun m s).cntHi = s.cntHi := by obtain ⟨h, e⟩ := begun_eq m s; rw [e]
@[simp] theorem begun_msix (m : Master) (s : State) : (begun m s).msix = s.msix := by obtain ⟨h, e⟩ := begun_eq m s; rw [e]
@[simp] theorem begun_cfg (m : Master) (s : State) : (begun m s).cfg = s.cfg := by obtain ⟨h, e⟩ := begun_eq m s; rw [e]
@[simp] theorem begun_reg (m : Master) (s : State) (o : Nat) : (begun m s).reg o = s.reg o := by simp only [reg, begun_regs]
@[simp] theorem begun_rfld (m : Master) (s : State) (o hi lo : Nat) : (begun m s).rfld o hi lo = s.rfld o hi lo := by
  simp only [rfld, begun_reg]
@[simp] theorem begun_port (m : Master) (s : State) (p : Nat) : (begun m s).port p = s.port p := by simp only [port, begun_ports]
@[simp] theorem begun_now (m : Master) (s : State) : (begun m s).now = s.now := by simp only [now, begun_gts]
@[simp] theorem begun_ctr (m : Master) (s : State) (o : Nat) : (begun m s).ctr o = s.ctr o := by simp only [ctr, begun_ctrs]

/-- What is built does not depend on the beginning of a request. -/
@[simp] theorem begun_ctrBuilt (m : Master) (s : State) (off : Nat) : ctrBuilt (begun m s) off = ctrBuilt s off := by
  simp only [ctrBuilt, recNow, begun_cfg]

/-! ### Storing a register word -/

/-- A stored register is a word. -/
theorem reg_lt (s : State) (o : Nat) : s.reg o < 2 ^ 32 := BitVec.isLt _

theorem reg_testBit_of_le (s : State) (o : Nat) {i : Nat} (hi : 32 ≤ i) : (s.reg o).testBit i = false :=
  Nat.testBit_lt_two_pow (Nat.lt_of_lt_of_le (reg_lt s o) (Nat.pow_le_pow_right (by decide) hi))

/-- The mask under which `storeReg` stores the bits of a write. -/
def writeMask (s : State) (m : Master) (off : Nat) : Nat :=
  (regDef off).rw ||| (if s.sup.rwlLocked ∧ (m = .host ∨ m = .spi) then 0 else (regDef off).rwl)

/-- The bits of the mask are the writable bits. -/
theorem testBit_writeMask (s : State) (m : Master) (off i : Nat) : (writeMask s m off).testBit i = bitWritable s m off i := by
  unfold writeMask bitWritable bit
  by_cases hl : s.sup.rwlLocked = true ∧ (m = .host ∨ m = .spi)
  · have hb : (s.sup.rwlLocked && (m == .host || m == .spi)) = true := by simpa using hl
    simp only [if_pos hl, hb, Nat.testBit_or, Nat.zero_testBit, Bool.not_true, Bool.and_false]
  · have hb : (s.sup.rwlLocked && (m == .host || m == .spi)) = false := by simpa using hl
    simp only [if_neg hl, hb, Nat.testBit_or, Bool.not_false, Bool.and_true]

/-- What a write leaves in its register, in terms of the mask. -/
theorem storeReg_reg (m : Master) (off v : Nat) (s : State) :
    (storeReg m off v s).reg off =
      let new := s.reg off ^^^ (s.reg off &&& writeMask s m off) ||| (v &&& writeMask s m off)
      (new ^^^ (new &&& (v &&& (regDef off).w1c))) % 2 ^ 32 := setReg_reg_same _ _ _

/-- R6: a write stores the writable bits, then clears what its ones clear. -/
theorem storeReg_testBit (m : Master) (off v : Nat) (s : State) (i : Nat) :
    ((storeReg m off v s).reg off).testBit i =
      (decide (i < 32) && (if bitWritable s m off i then v.testBit i else (s.reg off).testBit i) &&
        !(v.testBit i && (regDef off).w1c.testBit i)) := by
  simp only [storeReg_reg, Nat.testBit_mod_two_pow, Nat.testBit_xor, Nat.testBit_and, Nat.testBit_or, testBit_writeMask]
  cases bitWritable s m off i <;> cases v.testBit i <;> cases (s.reg off).testBit i <;> simp

/-- No other register changes. -/
theorem storeReg_reg_ne (m : Master) {off o : Nat} (v : Nat) (s : State) (h : o ≠ off) :
    (storeReg m off v s).reg o = s.reg o := setReg_reg_ne s _ h

/-- A write of a register with no bits that a one clears takes the writable bits, whatever else the state it acts on holds. -/
theorem stored_storeReg {m : Master} {off : Nat} (w : Word) {a s : State} (hw : (regDef off).w1c = 0)
    (hr : s.regs = a.regs) (hs : s.sup = a.sup) : Stored m off w a (storeReg m off w.toNat s) := by
  have hreg : ∀ o, s.reg o = a.reg o := fun o => by simp only [reg, hr]
  refine ⟨fun o ho => by rw [storeReg_reg_ne m _ s ho, hreg], fun i hi => ?_⟩
  have hb : bitWritable s m off i = bitWritable a m off i := by simp only [bitWritable, hs]
  simp only [bit, storeReg_testBit, hb, hreg, hw, hi, Nat.zero_testBit, BitVec.testBit_toNat, Bool.and_false, Bool.not_false,
    Bool.and_true, decide_true, Bool.true_and]

/-! ### Writes of an ordinary register -/

/-- What `ordinary` says of a register. -/
theorem ordinary_iff (off : Nat) : ordinary off = true ↔
    regDef off ≠ {} ∧ evOf off = none ∧ off ≠ baseSV + 0x404 ∧ off ≠ baseSV + 0x408 ∧ off ≠ baseSV + 0x894 ∧
      ¬ (baseHP + 0x1000 ≤ off ∧ off < baseHP + 0x1400) ∧
      ∀ p, blkOf off = .np p → off ≠ baseNP p + 0x38 ∧ off ≠ baseNP p + 0x48 := by
  unfold ordinary
  simp only [Bool.and_eq_true, Bool.not_eq_true', decide_eq_true_eq, Option.isNone_iff_eq_none, bne_iff_ne, ne_eq, and_assoc,
    Bool.and_eq_false_imp, decide_eq_false_iff_not, not_and]
  cases blkOf off <;> simp

/-- Only an aligned offset has a register. -/
theorem mod_four_of_regDef_ne {off : Nat} (h : regDef off ≠ {}) : off % 4 = 0 := by
  refine Decidable.byContradiction fun h4 => h ?_
  simp only [regDef, if_pos (show off % 4 ≠ 0 from h4)]

/-- No register lies in the memory windows or beyond (R423). -/
theorem lt_of_regDef_ne {off : Nat} (h : regDef off ≠ {}) : off < 0x400000 := by
  refine Decidable.byContradiction fun hge => h ?_
  have hb : blkOf off = .mem ∨ blkOf off = .none := by
    unfold blkOf
    split
    case h_16 =>
      rw [if_neg (by omega)]
      split
      · exact .inl rfl
      · exact .inr rfl
    all_goals omega
  unfold regDef
  obtain hb | hb := hb <;> simp only [hb, ite_self]

/-- The Trust Block has no register at or above 0x240. -/
theorem regTR_of_le {o : Nat} (h : 0x240 ≤ o) : regTR o = {} := by
  unfold regTR
  split
  case h_3 => exact if_neg (by omega)
  all_goals omega

/-- CE_LOCKn and the windows of the Cipher Engine are no stored registers. -/
theorem regCE_of_window {o : Nat} (h : (0x10 ≤ o ∧ o < 0x20) ∨ 0x1000 ≤ o) : regCE o = {} := by
  unfold regCE
  split
  case h_8 => rfl
  all_goals omega

/-- The transfer buffer of the Trust Block holds no register. -/
theorem regDef_trWindow {off : Nat} (h : 0x14000 ≤ off ∧ off < 0x16000) : regDef off = {} := by
  have hk : off / 0x10000 = 1 := by omega
  have hb : blkOf off = .tr := by simp only [blkOf, hk]
  have ho : 0x240 ≤ off - baseTR := by unfold baseTR; omega
  simp only [regDef, hb, Blk.base, regTR_of_le ho, ite_self]

/-- The locks and windows of the Cipher Engine hold no register. -/
theorem regDef_ceWindow {off : Nat} (h : off / 0x10000 = 0xD)
    (ho : (0x10 ≤ off - baseCE ∧ off - baseCE < 0x20) ∨ 0x1000 ≤ off - baseCE) : regDef off = {} := by
  have hb : blkOf off = .ce := by simp only [blkOf, h]
  simp only [regDef, hb, Blk.base, regCE_of_window ho, ite_self]

/-- The registers whose write is an operation store nothing. -/
theorem regDef_operation : ∀ o ∈ [baseTR, baseSV + 0x400, baseSV + 0x604, baseSV + 0xA00, baseTB + 0x10, baseQF, baseCE, baseRC, baseMF,
    baseHP + 0x10], regDef o = {} := by decide

/-- A write of a stored register outside the log pointer and the rings performs no operation. -/
theorem writeWord_of_stored {off : Nat} (m : Master) (w : Word) (h : regDef off ≠ {}) (hlog : off ≠ baseSV + 0x894)
    (hring : ¬ (baseHP + 0x1000 ≤ off ∧ off < baseHP + 0x1400)) :
    writeWord m off w = guardWrite m off (plainWrite m off w) := by
  have hop : ∀ o ∈ [baseTR, baseSV + 0x400, baseSV + 0x604, baseSV + 0xA00, baseTB + 0x10, baseQF, baseCE, baseRC, baseMF,
      baseHP + 0x10], off ≠ o := fun o ho he => h (he ▸ regDef_operation o ho)
  simp only [List.forall_mem_cons, List.not_mem_nil, false_implies, implies_true, and_true] at hop
  obtain ⟨htr, hcfg, hfw, hmode, htb, hqf, hce, hrc, hmf, htest⟩ := hop
  have hlock : ¬ (baseCE + 0x10 ≤ off ∧ off < baseCE + 0x20 ∧ off % 4 = 0) := fun hl =>
    h (regDef_ceWindow (by unfold baseCE at hl; omega) (by omega))
  have htail : ¬ (baseHP + 0x1000 ≤ off ∧ off < baseHP + 0x1400 ∧ off % 0x40 = 0xC) := fun hl => hring ⟨hl.1, hl.2.1⟩
  simp only [writeWord, if_neg htr, if_neg hcfg, if_neg hfw, if_neg hlog, if_neg hmode, if_neg htb, if_neg hqf, if_neg hce,
    if_neg hlock, if_neg hrc, if_neg hmf, if_neg htest, if_neg htail]

/-- No stored register lies in a window that takes requests of several dwords. -/
theorem isWide_of_stored {off : Nat} (h : regDef off ≠ {}) : isWide off = false := by
  have := lt_of_regDef_ne h
  simp only [isWide, Bool.or_eq_false_iff, Bool.and_eq_false_imp, decide_eq_true_eq, decide_eq_false_iff_not]
  omega

/-- A plain write of an ordinary register stores it. -/
theorem plainWrite_ordinary {off : Nat} (m : Master) (w : Word) (h : ordinary off = true) :
    plainWrite m off w = storeReg m off w.toNat := by
  obtain ⟨hdef, hev, hlen, htarget, -, hring, hnp⟩ := (ordinary_iff off).mp h
  have htr : ¬ (0x14000 ≤ off ∧ off < 0x16000) := fun hl => hdef (regDef_trWindow hl)
  have hxfer : ¬ (baseCE + 0x1000 ≤ off ∧ off < baseCE + 0x1200) := fun hl =>
    hdef (regDef_ceWindow (by unfold baseCE at hl; omega) (by omega))
  funext s
  simp only [plainWrite, isWide_of_stored hdef, Bool.false_eq_true, if_false, if_neg htr, if_neg hxfer, hlen, htarget, or_self, hev]
  split
  · rw [if_neg hring]
  · next p hb =>
    obtain ⟨hwdog, heee⟩ := hnp p hb
    rw [if_neg hwdog, if_neg fun hl => heee hl.1]
  · rfl

/-- What a write of NP_EEE does beside storing: clearing `eee_en` ends low-power idle on the port (R82). -/
def eeeIdle (p : Fin 4) (w : Word) (s : State) : State := if w.getLsbD 0 then s else leaveLpi p.val s

/-- NP_EEE stands in its block. -/
theorem blkOf_eee (p : Fin 4) : blkOf (baseNP p.val + 0x48) = .np p.val := by revert p; decide

/-- NP_EEE is a stored register, and none of those with an effect of their own but low-power idle. -/
theorem eee_stored (p : Fin 4) : regDef (baseNP p.val + 0x48) ≠ {} ∧ evOf (baseNP p.val + 0x48) = none := by revert p; decide

/-- A plain write of NP_EEE: clearing `eee_en` also ends low-power idle (R82). -/
theorem plainWrite_eee (m : Master) (p : Fin 4) (w : Word) (s : State) :
    plainWrite m (baseNP p.val + 0x48) w s =
      storeReg m (baseNP p.val + 0x48) w.toNat (eeeIdle p w s) := by
  unfold eeeIdle
  obtain ⟨hdef, hev⟩ := eee_stored p
  have hoff : baseNP p.val + 0x48 < 0x50000 ∧ 0x40000 ≤ baseNP p.val + 0x48 := by unfold baseNP; omega
  have htr : ¬ (0x14000 ≤ baseNP p.val + 0x48 ∧ baseNP p.val + 0x48 < 0x16000) := by omega
  have hxfer : ¬ (baseCE + 0x1000 ≤ baseNP p.val + 0x48 ∧ baseNP p.val + 0x48 < baseCE + 0x1200) := by unfold baseCE; omega
  have hcfg : ¬ (baseNP p.val + 0x48 = baseSV + 0x404 ∨ baseNP p.val + 0x48 = baseSV + 0x408) := by unfold baseSV; omega
  have hw : bit w.toNat 0 = w.getLsbD 0 := rfl
  simp only [plainWrite, isWide_of_stored hdef, Bool.false_eq_true, if_false, if_neg htr, if_neg hxfer, if_neg hcfg, hev,
    blkOf_eee, hw]
  rw [if_neg (by omega)]
  cases w.getLsbD 0
  · exact if_pos ⟨trivial, Bool.false_ne_true⟩
  · exact if_neg fun hl => hl.2 rfl

/-- What a single allowed write of a register without an operation answers. -/
theorem exec_registerWrite_single {t : Gts} {m : Master} {off : Off} {w : Word} {s : State} {f : State → State}
    (hdef : regDef off.toNat ≠ {}) (hw : writeWord m off.toNat w = guardWrite m off.toNat f)
    (ha : allows m off.toNat true (s.advance t) = true) :
    exec (.registerWrite t m off true [w]) s = .next { f (begun m (s.advance t)) with
      pending := s.pending, gts := (s.advance t).gts, fuses := (s.advance t).fuses } := by
  have hbus : busWrite m off.toNat true [w] (s.advance t) = busWord m off.toNat w (s.advance t) := by
    have halign : off.toNat / 4 * 4 = off.toNat := by have := mod_four_of_regDef_ne hdef; omega
    by_cases hm : m = .host
    · simp [busWrite, hm, halign]
    · simp [busWrite, hm]
  have htr : off.toNat ≠ baseTR := fun he => hdef (he ▸ regDef_operation _ (by decide))
  calc exec (.registerWrite t m off true [w]) s = actTrust t (busWrite m off.toNat true [w]) s := rfl
    _ = _ := by rw [actTrust_next, hbus, busWord, if_neg htr, hw, guardWrite_allowed ha]

/-! ### Leaving low-power idle -/

/-- Leaving low-power idle changes ports alone. -/
theorem leaveLpi_eq (p : Nat) (s : State) : ∃ x, leaveLpi p s = { s with ports := x } := by
  unfold leaveLpi
  simp only []
  split
  · exact ⟨_, rfl⟩
  · exact ⟨_, rfl⟩

/-- The port that leaves low-power idle (R82). -/
theorem leaveLpi_port_same (p : Nat) (s : State) :
    (leaveLpi p s).port p = if (s.port p).lpiTx then { s.port p with
      lpiTx := false, idleFrom := s.now, txReady := s.now + s.rfld (baseNP p + 0x48) 31 16 * 4000 } else s.port p := by
  unfold leaveLpi
  simp only []
  split
  · exact setPort_port_same _ _ _
  · rfl

/-- No other port. -/
theorem leaveLpi_onlyPort (p : Nat) (s : State) : OnlyPort p s (leaveLpi p s) := by
  intro j hj
  unfold leaveLpi
  simp only []
  split
  · rw [setPort_port, if_neg hj]
  · rfl

/-- A write of NP_EEE changes no block but its port. -/
theorem eeeIdle_frame (p : Fin 4) (w : Word) (s : State) :
    (∃ x, eeeIdle p w s = { s with ports := x }) ∧ OnlyPort p.val s (eeeIdle p w s) := by
  unfold eeeIdle
  cases w.getLsbD 0
  · exact ⟨leaveLpi_eq p.val s, leaveLpi_onlyPort p.val s⟩
  · exact ⟨⟨_, rfl⟩, fun _ _ => rfl⟩

/-! ### Writes of an event register -/

/-- What a write of an event register clears beside its bits: NP_STATUS.`wake`, with `wake_match` (R86). -/
def evWake (off v e : Nat) (s : State) : State :=
  match blkOf off with
  | .np p => if off = e ∧ bit v 4 then s.updPort p fun x => { x with wake := false } else s
  | _ => s

theorem evStore_eq (m : Master) (off v e : Nat) (s : State) :
    evStore m off v e s = (evWake off v e (storeReg m off v s)).signalEv e fun _ => true := rfl

theorem evWake_eq (off v e : Nat) (s : State) : ∃ x, evWake off v e s = { s with ports := x } := by
  unfold evWake
  split
  · split
    · exact ⟨_, rfl⟩
    · exact ⟨_, rfl⟩
  · exact ⟨_, rfl⟩

theorem evWake_port (off v e : Nat) (s : State) (p : Nat) :
    (evWake off v e s).port p =
      if off = e ∧ blkOf off = .np p ∧ bit v 4 then { s.port p with wake := false } else s.port p := by
  unfold evWake
  split
  · next q hb =>
    by_cases hc : off = e ∧ bit v 4
    · rw [if_pos hc, updPort, setPort_port]
      by_cases hp : p = q
      · rw [if_pos hp, if_pos ⟨hc.1, hp ▸ hb, hc.2⟩, hp]
      · rw [if_neg hp, if_neg fun h => hp (Blk.np.inj (h.2.1.symm.trans hb))]
    · rw [if_neg hc, if_neg fun h => hc ⟨h.1, h.2.2⟩]
  · next hb => rw [if_neg fun hc => hb p hc.2.1]

/-- A write of an event register changes registers, ports and vectors alone. -/
theorem evStore_frame (m : Master) (off v e : Nat) (s : State) :
    ∃ x y, evStore m off v e s = { storeReg m off v s with ports := x, msix := y } := by
  obtain ⟨x, hx⟩ := evWake_eq off v e (storeReg m off v s)
  obtain ⟨y, hy⟩ := signalEv_eq (evWake off v e (storeReg m off v s)) e fun _ => true
  exact ⟨x, y, by rw [evStore_eq, hy, hx]⟩

theorem evStore_reg (m : Master) (off v e : Nat) (s : State) (o : Nat) :
    (evStore m off v e s).reg o = (storeReg m off v s).reg o := by
  obtain ⟨x, y, h⟩ := evStore_frame m off v e s
  rw [h]; rfl

theorem evStore_port (m : Master) (off v e : Nat) (s : State) (p : Nat) :
    (evStore m off v e s).port p =
      if off = e ∧ blkOf off = .np p ∧ bit v 4 then { s.port p with wake := false } else s.port p := by
  obtain ⟨y, hy⟩ := signalEv_eq (evWake off v e (storeReg m off v s)) e fun _ => true
  rw [evStore_eq, hy]
  exact evWake_port off v e (storeReg m off v s) p

/-- The word 0xFFFFFFFF as a mask. -/
theorem testBit_ones (i : Nat) : (0xFFFFFFFF : Nat).testBit i = decide (i < 32) := Nat.testBit_two_pow_sub_one 32 i

/-- R6: an event register loses the bits written as ones. -/
theorem storeReg_reg_event {off e : Nat} (h : evOf off = some e) (m : Master) (v : Nat) (s : State) :
    (storeReg m e v s).reg e = s.reg e &&& (0xFFFFFFFF ^^^ (v &&& (regDef e).w1c)) := by
  obtain ⟨hrw, hrwl⟩ := regDef_event h
  refine Nat.eq_of_testBit_eq fun i => ?_
  have hbit : bitWritable s m e i = false := by simp [bitWritable, bit, hrw, hrwl]
  by_cases hi : i < 32
  · simp [storeReg_testBit, hbit, hi, testBit_ones]
  · simp [storeReg_testBit, hi, testBit_ones, reg_testBit_of_le s e (Nat.le_of_not_lt hi)]

/-- R6: an enable register stores what is written. -/
theorem storeReg_reg_enable {off e : Nat} (h : evOf off = some e) (m : Master) (v : Word) (s : State) :
    (storeReg m (e + 4) v.toNat s).reg (e + 4) =
      v.toNat &&& (regDef (e + 4)).rw ||| (s.reg (e + 4) &&& (0xFFFFFFFF ^^^ (regDef (e + 4)).rw)) := by
  obtain ⟨hrwl, hw1c⟩ := regDef_enable h
  refine Nat.eq_of_testBit_eq fun i => ?_
  have hbit : bitWritable s m (e + 4) i = (regDef (e + 4)).rw.testBit i := by simp [bitWritable, bit, hrwl]
  by_cases hi : i < 32
  · cases hr : (regDef (e + 4)).rw.testBit i <;> simp [storeReg_testBit, hbit, hi, testBit_ones, hw1c, hr]
  · have hv : v.toNat.testBit i = false := BitVec.testBit_toNat v ▸ BitVec.getLsbD_of_ge v i (Nat.le_of_not_lt hi)
    simp [storeReg_testBit, hi, hv, reg_testBit_of_le s (e + 4) (Nat.le_of_not_lt hi)]

/-! ### Signalling vectors -/

/-- The step of `signalEv`. -/
def signalIf (o : Nat) (was : Nat → Bool) (s : State) (v : Nat × Nat) : State :=
  if s.evAnd o v.2 ≠ 0 ∧ was v.1 then s.signal v.1 else s

theorem signalEv_eq_foldl (s : State) (o : Nat) (was : Nat → Bool) :
    s.signalEv o was = (evVectors o).foldl (signalIf o was) s := rfl

theorem signalIf_evAnd (o : Nat) (was : Nat → Bool) (s : State) (v : Nat × Nat) (k : Nat) :
    (signalIf o was s v).evAnd o k = s.evAnd o k := by
  unfold signalIf
  split <;> rfl

theorem signalIf_msix (o : Nat) (was : Nat → Bool) (s : State) (v : Nat × Nat) (j : Nat) :
    tget 0 (signalIf o was s v).msix j =
      tget 0 s.msix j + if j = v.1 ∧ s.evAnd o v.2 ≠ 0 ∧ was v.1 then 1 else 0 := by
  unfold signalIf
  by_cases hc : s.evAnd o v.2 ≠ 0 ∧ was v.1
  · rw [if_pos hc, signal_msix, tupd, tget_tset]
    by_cases hj : j = v.1
    · rw [if_pos hj, if_pos ⟨hj, hc⟩, hj]
    · rw [if_neg hj, if_neg fun h => hj h.1, Nat.add_zero]
  · rw [if_neg hc, if_neg fun h => hc h.2, Nat.add_zero]

/-- Vectors that are not of the list are not signalled. -/
theorem foldl_signalIf_msix_of_notMem (o : Nat) (was : Nat → Bool) {j : Nat} (l : List (Nat × Nat)) :
    ∀ s : State, j ∉ l.map Prod.fst → tget 0 (l.foldl (signalIf o was) s).msix j = tget 0 s.msix j := by
  induction l with
  | nil => exact fun _ _ => rfl
  | cons v l ih =>
    intro s hj
    rw [List.map_cons, List.mem_cons, not_or] at hj
    rw [List.foldl_cons, ih _ hj.2, signalIf_msix, if_neg fun h => hj.1 h.1, Nat.add_zero]

/-- Of a list without repeats each vector is signalled once, exactly when its AND is nonzero. -/
theorem foldl_signalIf_msix (o : Nat) (was : Nat → Bool) (l : List (Nat × Nat)) :
    ∀ s : State, (l.map Prod.fst).Nodup → ∀ q ∈ l,
      tget 0 (l.foldl (signalIf o was) s).msix q.1 = tget 0 s.msix q.1 + if s.evAnd o q.2 ≠ 0 ∧ was q.1 then 1 else 0 := by
  induction l with
  | nil => exact fun _ _ q hq => absurd hq (List.not_mem_nil)
  | cons v l ih =>
    intro s hl q hq
    rw [List.map_cons, List.nodup_cons] at hl
    obtain ⟨hv, hl⟩ := hl
    rw [List.foldl_cons]
    obtain rfl | hq := List.mem_cons.mp hq
    · rw [foldl_signalIf_msix_of_notMem o was l _ hv, signalIf_msix]
      simp only [true_and]
    · have hne : q.1 ≠ v.1 := fun he => hv (he ▸ List.mem_map_of_mem hq)
      rw [ih _ hl q hq, signalIf_evAnd, signalIf_msix, if_neg fun h => hne h.1, Nat.add_zero]

/-- An event register serves each of its vectors once (R428). -/
theorem evVectors_nodup (e : Nat) : ((evVectors e).map Prod.fst).Nodup := by
  unfold evVectors
  split <;> simp

/-- R429: each vector of the register is signalled once more exactly when its AND is nonzero. -/
theorem signalEv_msix (s : State) (o : Nat) (was : Nat → Bool) {q : Nat × Nat} (hq : q ∈ evVectors o) :
    tget 0 (s.signalEv o was).msix q.1 = tget 0 s.msix q.1 + if s.evAnd o q.2 ≠ 0 ∧ was q.1 then 1 else 0 := by
  rw [signalEv_eq_foldl]
  exact foldl_signalIf_msix o was _ s (evVectors_nodup o) q hq

theorem evStore_msix (m : Master) (off v e : Nat) (s : State) {q : Nat × Nat} (hq : q ∈ evVectors e) :
    tget 0 (evStore m off v e s).msix q.1 = tget 0 s.msix q.1 + if (evStore m off v e s).evAnd e q.2 = 0 then 0 else 1 := by
  obtain ⟨x, hx⟩ := evWake_eq off v e (storeReg m off v s)
  have hand : (evStore m off v e s).evAnd e q.2 = (evWake off v e (storeReg m off v s)).evAnd e q.2 := by
    simp only [evAnd, evStore_reg, hx]; rfl
  rw [hand, evStore_eq, signalEv_msix _ _ _ hq, hx]
  simp only [ne_eq, and_true, ite_not]
  rfl

/-! ### Reads of a counter -/

/-- A counter lies in a block that has a CNT_HI. -/
theorem blkOf_of_isCounter {off : Nat} (h : isCounter off = true) :
    blkOf off ≠ .gl ∧ blkOf off ≠ .tr ∧ blkOf off ≠ .mem ∧ blkOf off ≠ .none := by
  unfold isCounter at h
  refine ⟨?_, ?_, ?_, ?_⟩ <;> intro hb <;> simp [hb] at h

/-- CNT_HI of a counter's block: an aligned register of the same block, and itself no counter (R7). -/
theorem isCntHi_of_isCounter {off hi : Nat} (h : isCounter off = true) (hhi : hi = (blkOf off).base + 0x1FC) :
    blkOf hi = blkOf off ∧ hi % 4 = 0 ∧ isCounter hi = false ∧ isCntHi hi = true := by
  obtain ⟨hgl, htr, hmem, hnone⟩ := blkOf_of_isCounter h
  have hb : blkOf hi = blkOf off := hhi ▸ blkOf_base_add hnone (by omega)
  have hpage := (blkOf_base hnone).2
  have ho : hi - (blkOf off).base = 0x1FC := by omega
  refine ⟨hb, by omega, ?_, ?_⟩
  · unfold isCounter
    simp only [hb, ho]
    cases blkOf off <;> rfl
  · unfold isCntHi
    simp only [hb, ho]
    cases hk : blkOf off
    case gl => exact absurd hk hgl
    case tr => exact absurd hk htr
    case mem => exact absurd hk hmem
    case none => exact absurd hk hnone
    all_goals rfl

/-- An allowed read of an aligned offset hands its master the word of `readWord`, and leaves what that read leaves. -/
theorem does_counterLowRead {t : Gts} {m : Master} {off : Off} {s : State} (h4 : off.toNat % 4 = 0)
    (ha : allows m off.toNat false (s.advance t) = true) :
    Does (.counterLowRead t m off) s fun b =>
      let r := readWord m off.toNat (begun m (s.advance t))
      readBack b m = [BitVec.ofNat 32 r.1] ∧
        b = { r.2 with rdata := b.rdata, pending := s.pending, gts := (s.advance t).gts, fuses := (s.advance t).fuses } := by
  have halign : (if m = .host then off.toNat / 4 * 4 else off.toNat) = off.toNat := by split <;> omega
  have hop : opRead m off.toNat (s.advance t) = setRdata m [BitVec.ofNat 32 (readWord m off.toNat (begun m (s.advance t))).1]
      (readWord m off.toNat (begun m (s.advance t))).2 := by
    simp only [opRead, halign, busRead_allowed ha]
  refine ⟨_, act_next t (opRead m off.toNat) s, ?_⟩
  rw [hop]
  exact ⟨by simp only [readBack, setRdata, tget_tset_same], rfl⟩

/-- A read of a counter returns its low word, latches its high word and clears it (R7). -/
theorem readWord_counter {off : Nat} (m : Master) {s : State} (h : isCounter off = true) (hb : ctrBuilt s off = true) :
    readWord m off s = (s.ctr off % 2 ^ 32,
      { s with ctrs := tset 0 s.ctrs off 0, cntHi := tset 0 s.cntHi (hiKey off m) (BitVec.ofNat 32 (s.ctr off / 2 ^ 32)) }) := by
  simp only [readWord, h, hb, if_true]

/-- A read of CNT_HI returns the latch of the master and changes nothing (R7). -/
theorem readWord_cntHi {off : Nat} (m : Master) (s : State) (h : isCounter off = false) (hc : isCntHi off = true) :
    readWord m off s = ((tget 0 s.cntHi (hiKey off m)).toNat, s) := by
  simp only [readWord, h, hc, Bool.false_eq_true, if_false, if_true]

/-! ### Settled -/

/-- Settles O1: a single write reaches `storeReg` alone, which stores bit by bit under the mask of writable bits; NP_EEE leaves
low-power idle before it is stored. -/
theorem registerWriteStoresWritableBits : Obligations.RegisterWriteStoresWritableBits := by
  intro t m off w s ha
  have hb := begun_eq m (s.advance t)
  refine ⟨fun hord => ?_, fun p hp => ?_⟩
  · obtain ⟨hdef, hev, -, -, hlog, hring, -⟩ := (ordinary_iff _).mp hord
    have hw := writeWord_of_stored m w hdef hlog hring
    rw [plainWrite_ordinary m w hord] at hw
    refine ⟨_, exec_registerWrite_single hdef hw ha, stored_storeReg w (regDef_w1c hev) (begun_regs m _) (begun_sup m _), ?_⟩
    obtain ⟨h, e⟩ := hb
    rw [e]; rfl
  · obtain ⟨hdef, hev⟩ := eee_stored p
    rw [← hp] at hdef hev
    have hw := writeWord_of_stored m w hdef (by unfold baseNP at hp; unfold baseSV; omega) (by unfold baseNP at hp; unfold baseHP; omega)
    rw [hp, funext (plainWrite_eee m p w), ← hp] at hw
    obtain ⟨⟨x, hx⟩, honly⟩ := eeeIdle_frame p w (begun m (s.advance t))
    refine ⟨_, exec_registerWrite_single hdef hw ha, ?_, ?_,
      fun j hj => (honly j hj).trans (begun_port m _ j), fun h1 => ?_, fun h0 => ?_⟩
    · exact stored_storeReg w (regDef_w1c hev) (by rw [hx]; exact begun_regs m _) (by rw [hx]; exact begun_sup m _)
    · obtain ⟨h, e⟩ := hb
      rw [hx, e]; rfl
    · show (eeeIdle p w (begun m (s.advance t))).port p.val = _
      rw [eeeIdle, if_pos h1, begun_port]
    · show (eeeIdle p w (begun m (s.advance t))).port p.val = _
      rw [eeeIdle, h0, if_neg Bool.false_ne_true, leaveLpi_port_same]
      simp only [begun_port, begun_now, begun_rfld]

/-- Settles O3: an allowed write is `evStore`, which stores the word, clears `wake` with `wake_match`, and signals the vectors whose AND
is then nonzero. -/
theorem eventWriteClearsAndSignals : Obligations.EventWriteClearsAndSignals := by
  intro t m off v e s he ha
  have hexec : exec (.eventWrite t m off v) s = .next { evStore m off.toNat v.toNat e (begun m (s.advance t)) with
      pending := s.pending, gts := (s.advance t).gts, fuses := (s.advance t).fuses } := by
    calc exec (.eventWrite t m off v) s = execEventWrite t m off v s := rfl
      _ = _ := by simp only [execEventWrite, act_next, he, guardWrite_allowed ha]
  refine ⟨_, hexec, ?_, fun o ho => ?_, fun h1 => ?_, fun h1 => ?_, fun q hq => ?_, fun p => ?_⟩
  · obtain ⟨x, y, h⟩ := evStore_frame m off.toNat v.toNat e (begun m (s.advance t))
    obtain ⟨h', e'⟩ := begun_eq m (s.advance t)
    rw [h, e']; rfl
  · exact (evStore_reg ..).trans ((storeReg_reg_ne m _ _ ho).trans (begun_reg ..))
  · refine (evStore_reg ..).trans ?_
    rw [h1, storeReg_reg_event he, begun_reg]
  · refine (evStore_reg ..).trans ?_
    rw [h1, storeReg_reg_enable he, begun_reg]
  · exact (evStore_msix m off.toNat v.toNat e _ hq).trans (by rw [begun_msix]; rfl)
  · refine (evStore_port ..).trans ?_
    rw [(blkOf_event he).1, begun_port]

/-- Settles O4: the read clears the counter and sets the master's latch; CNT_HI is no counter, so the later read finds that latch. -/
theorem counterReadLatchesAndClears : Obligations.CounterReadLatchesAndClears := by
  intro t t' m off hi n s hcnt h4 hhi hbuilt ha
  obtain ⟨hblk, hhi4, hnot, hlatch⟩ := isCntHi_of_isCounter hcnt hhi
  obtain ⟨b, hexec, hback, hb⟩ := does_counterLowRead h4 ha
  rw [readWord_counter m hcnt ((begun_ctrBuilt m _ _).trans hbuilt), begun_ctr] at hback hb
  have hctrs : b.ctrs = tset 0 (s.advance t).ctrs off.toNat 0 := by rw [hb]; exact congrArg (tset 0 · _ 0) (begun_ctrs m _)
  have hcntHi : b.cntHi = tset 0 (s.advance t).cntHi (hiKey off.toNat m) (BitVec.ofNat 32 ((s.advance t).ctr off.toNat / 2 ^ 32)) := by
    rw [hb]; exact congrArg (tset 0 · _ _) (begun_cntHi m _)
  have hzero : b.ctr off.toNat = 0 := by rw [ctr, hctrs, tget_tset_same]; rfl
  refine ⟨b, hexec, ?_, hzero, ?_, fun o ho => ?_, fun m' o ho => ?_, ?_, fun ha' => ?_⟩
  · rw [hback]
    exact congrArg (fun w => [w]) (BitVec.eq_of_toNat_eq (Nat.mod_mod _ _))
  · rw [bumpBy_ctr_same, hzero, Nat.zero_add]
  · rw [ctr, hctrs, tget_tset_ne _ _ _ ho]; rfl
  · rw [hcntHi, tget_tset_ne 0 _ _ ho]
  · obtain ⟨h, e⟩ := begun_eq m (s.advance t)
    rw [hb, e]; rfl
  · obtain ⟨d, hexec', hback', hd⟩ := does_counterLowRead hhi4 ha'
    rw [readWord_cntHi m _ hnot hlatch] at hback' hd
    have hkey : hiKey hi.toNat m = hiKey off.toNat m := by simp only [hiKey, hblk]
    have hword : (begun m (b.advance t')).cntHi = b.cntHi := begun_cntHi m _
    refine ⟨d, hexec', ?_, ?_, ?_⟩
    · rw [hback', hword, hkey, hcntHi, tget_tset_same, BitVec.ofNat_toNat, BitVec.setWidth_eq]
    · rw [hd]; exact begun_ctrs m _
    · rw [hd]; exact hword

/-- Settles O60: nothing has been written at reset, so that every register reads its reset value; the values themselves are those of
the spec's tables. -/
theorem resetLeavesTheValuesOfTheSpec : Obligations.ResetLeavesTheValuesOfTheSpec := by
  have hctr : ∀ off, State.reset.ctr off = 0 := fun _ => rfl
  have hreg : ∀ off, State.reset.reg off = (regInit off).toNat := fun _ => rfl
  refine ⟨rfl, rfl, rfl, rfl, rfl, rfl, rfl, rfl, rfl, rfl, hctr, hreg, ?_, ?_⟩
  · decide
  · decide

end Sys2Proof.Machine

namespace Sys2Proof.Machine

open Sys2Proof.Machine.State

/-! ### Commands that pass the queue, the time and the fuses on -/

/-- What a sealed command passes on: the queue of commands, the time and the fuses. -/
def Sealed (a b : State) : Prop := b.pending = a.pending ∧ b.gts = a.gts ∧ b.fuses = a.fuses

theorem sealed_refl (a : State) : Sealed a a := ⟨rfl, rfl, rfl⟩

theorem sealed_trans {a b c : State} (h : Sealed a b) (k : Sealed b c) : Sealed a c := by
  obtain ⟨hp, hg, hf⟩ := h
  obtain ⟨kp, kg, kf⟩ := k
  exact ⟨kp.trans hp, kg.trans hg, kf.trans hf⟩

theorem portFrame_sealed {a b : State} (h : PortFrame a b) : Sealed a b := by
  rw [h]; exact ⟨rfl, rfl, rfl⟩

/-- An action that comes to `b`, and passes on what is sealed, answers `b`. -/
theorem act_of_sealed {t : Gts} {f : State → State} {s b : State} (hb : f (s.advance t) = b) (h : Sealed (s.advance t) b) :
    act t f s = .next b := by
  obtain ⟨hp, hg, hf⟩ := h
  rw [act_next, hb, ← hg, ← hf, show s.pending = b.pending from hp.symm]

/-! ### What an event leaves unchanged -/

/-- The event register of a block lies at 0x104 of a page (R429). -/
theorem evBit_offset {code o b : Nat} (h : evBit code = some (o, b)) : o % 0x4000 = 0x104 := by
  unfold evBit at h
  simp only [baseTR, baseSV, baseTB, baseNP, baseSE, baseQF, baseCE, baseCZ, baseRC, baseMF, baseHP, baseHA] at h
  split at h
  case h_14 =>
    split at h
    · simp only [Option.some.injEq, Prod.mk.injEq] at h; omega
    · split at h
      · simp only [Option.some.injEq, Prod.mk.injEq] at h; omega
      · exact absurd h nofun
  all_goals
    repeat' split at h
    all_goals simp only [Option.some.injEq, Prod.mk.injEq] at h; omega

theorem setEvBit_reg_ne (s : State) {o o' : Nat} (b : Nat) (h : o' ≠ o) : (s.setEvBit o b).reg o' = s.reg o' := by
  obtain ⟨m, e⟩ := setEvBit_eq s o b
  rw [e]
  exact setReg_reg_ne s _ h

/-- An event sets a bit of an event register, and no other register changes. -/
theorem raise_reg_ne (s : State) {o : Nat} (src code : Nat) (d : List Nat) (svc : Nat) (h : o % 0x4000 ≠ 0x104) :
    (s.raise src code d svc).reg o = s.reg o := by
  unfold raise
  simp only []
  split
  · next o' b hev => exact setEvBit_reg_ne _ b fun he => h (he ▸ evBit_offset hev)
  · rfl

section
variable (s : State) (src code : Nat) (d : List Nat) (svc : Nat)

@[simp] theorem raise_now : (s.raise src code d svc).now = s.now := by rw [now, raise_gts]; rfl
@[simp] theorem raise_port (p : Nat) : (s.raise src code d svc).port p = s.port p := by rw [port, raise_ports]; rfl
@[simp] theorem raise_ctr (o : Nat) : (s.raise src code d svc).ctr o = s.ctr o := by rw [ctr, raise_ctrs]; rfl

/-- The role of a port does not change with an event. -/
@[simp] theorem raise_npRole (p : Nat) : npRole (s.raise src code d svc) p = npRole s p := by
  simp only [npRole, npFld, rfld, raise_reg_ne s src code d svc (show (baseNP p + 0) % 0x4000 ≠ 0x104 by unfold baseNP; omega)]

end

/-! ### Frames of port commands -/

theorem portFrame_trans {a b c : State} (h : PortFrame a b) (k : PortFrame b c) : PortFrame a c := by
  unfold PortFrame at *
  rw [k, h]

theorem portFrame_setPort (p : Nat) (x : Port) (s : State) : PortFrame s (s.setPort p x) := rfl

theorem portFrame_bumpBy (off n : Nat) (s : State) : PortFrame s (s.bumpBy off n) := rfl

theorem portFrame_raise (src code : Nat) (d : List Nat) (svc : Nat) (s : State) : PortFrame s (s.raise src code d svc) := by
  obtain ⟨r, m, h⟩ := raise_eq s src code d svc
  rw [h]; rfl

theorem onlyPort_setPort (p : Nat) (x : Port) (s : State) : OnlyPort p s (s.setPort p x) := fun j hj => by
  rw [setPort_port, if_neg hj]

/-! ### PTP transmission -/

theorem exec_syncTx_master {t : Gts} {i : Fin 2} {r : List Byte} {s : State} (hr : ptpRec (s.advance t) i.val = some r)
    (hrole : ptpRole r = 2) :
    exec (.syncTx t i) s = .next ((s.advance t).setInst i.val { (s.advance t).inst i.val with
      sentSync := ((s.advance t).inst i.val).sentSync + 1, txReq := false
      txFrom := if bit (ptpOpts r) 0 then (s.advance t).now + 1 else 0 }) := by
  show execSyncTx t i s = _
  unfold execSyncTx
  refine act_of_sealed ?_ ⟨rfl, rfl, rfl⟩
  simp only [hr, if_pos hrole]

theorem exec_delayReqTx_follower {t : Gts} {i : Fin 2} {s : State} (h : isFollower (s.advance t) i.val = true) :
    exec (.delayReqTx t i) s = .next (((s.advance t).setInst i.val { (s.advance t).inst i.val with
      txFrom := (s.advance t).now + 1, txReq := true }).bump (baseTB + 0x208 + 4 * i.val)) := by
  show execDelayReqTx t i s = _
  unfold execDelayReqTx
  exact act_of_sealed (if_pos h) ⟨rfl, rfl, rfl⟩

/-- A timestamp that comes within a millisecond is that of the message that awaits it. -/
theorem exec_egressTimestamp_awaited {t ts : Gts} {i : Fin 2} {s : State} (h : ((s.advance t).inst i.val).txFrom ≠ 0)
    (hin : (s.advance t).now ≤ ((s.advance t).inst i.val).txFrom - 1 + 4000000) :
    exec (.egressTimestamp t i ts) s = .next ((s.advance t).setInst i.val
      (let x := (s.advance t).inst i.val
       let g := (s.advance t).mediaOf (ts.toNat + txLat (s.advance t) i.val)
       if x.txReq then { x with txFrom := 0, t3 := g } else { x with txFrom := 0, sentAt := g })) := by
  have hnot : ¬ (((s.advance t).inst i.val).txFrom = 0 ∨ ((s.advance t).inst i.val).txFrom - 1 + sec / 1000 < (s.advance t).now) := by
    unfold sec; omega
  show execEgressTimestamp t i ts s = _
  unfold execEgressTimestamp
  refine act_of_sealed ?_ ⟨rfl, rfl, rfl⟩
  exact (if_neg hnot).trans (apply_ite _ _ _ _).symm

/-- A timestamp that does not come: the instance forgets the message, and the loss is counted. -/
def tsLost (i : Nat) (s : State) : State :=
  (s.setInst i { s.inst i with txFrom := 0, syncSeq := none, dropSec := s.now / 4000000000 + 1 }).bump (baseTB + 0x210)

/-- The loss is logged once a second (R342). -/
theorem exec_tsDrop (t : Gts) (i : Fin 2) (s : State) :
    exec (.tsDrop t i) s = .next (if ((s.advance t).inst i.val).dropSec = (s.advance t).now / 4000000000 + 1 then
      tsLost i.val (s.advance t) else (tsLost i.val (s.advance t)).raise 12 0xC0A [i.val]) := by
  show execTsDrop t i s = _
  unfold execTsDrop
  refine act_of_sealed rfl ?_
  split
  · exact ⟨rfl, rfl, rfl⟩
  · exact ⟨raise_pending .., raise_gts .., raise_fuses ..⟩

/-- A change of one instance leaves the other. -/
theorem setInst_inst_other (s : State) {i : Nat} (y : PtpInst) : ∀ j, j ≠ i → (s.setInst i y).inst j = s.inst j :=
  fun j hj => by rw [setInst_inst, if_neg hj]

/-- Settles O22: each message changes its instance alone; a dropped timestamp is logged once a second. -/
theorem ptpTransmissionAwaitsItsTimestamp : Obligations.PtpTransmissionAwaitsItsTimestamp := by
  intro t ts i s
  refine ⟨fun r hr hrole => ?_, fun hfol => ?_, fun hfrom hin => ?_, _, exec_tsDrop t i s, ?_⟩
  · exact ⟨_, exec_syncTx_master hr hrole, setInst_inst_same _ _ _, ⟨setInst_inst_other _ _, rfl⟩, rfl⟩
  · exact ⟨_, exec_delayReqTx_follower hfol, setInst_inst_same _ _ _, ⟨setInst_inst_other _ _, rfl⟩, bumpBy_ctr_same _ _ _⟩
  · exact ⟨_, exec_egressTimestamp_awaited hfrom hin, setInst_inst_same _ _ _, ⟨setInst_inst_other _ _, rfl⟩, rfl⟩
  · split
    · next hlogged =>
      exact ⟨setInst_inst_same _ _ _, bumpBy_ctr_same _ _ _, fun _ => ⟨setInst_inst_other _ _, rfl⟩, fun h => absurd hlogged h⟩
    · next hnew =>
      refine ⟨?_, ?_, fun h => absurd h hnew, fun _ => raise_fresh ..⟩
      · rw [inst, raise_tb]; exact setInst_inst_same _ _ _
      · rw [ctr, raise_ctrs]; exact bumpBy_ctr_same _ _ _

/-! ### Pause (R77) -/

/-- What a port keeps of the pause of a class: the expiry of its hold, the end of its last hold, and since when it is paused. -/
def classPause (x : Port) (c : Nat) : Nat × Nat × Nat := (tget 0 x.hold c, tget 0 x.heldTo c, tget 0 x.pausedFrom c)

/-- Whether a received pause reaches a class: NP_PAUSE names it, and no release window is open (R77, R78). -/
def takesPause (s : State) (p c : Nat) : Bool := bit (npFld s p 0x34 15 8) c && !inRelease s p c

/-- The pause of a class once a frame has asked for `q` quanta. -/
def pausedAs (s : State) (p c q : Nat) : Nat × Nat × Nat :=
  let x := s.port p
  let stop := s.now + pauseGrains (tenG s p) q
  if takesPause s p c then
    if q = 0 then (0, if isPaused s p c then s.now else tget 0 x.heldTo c, tget 0 x.pausedFrom c)
    else (stop, stop, if tget 0 x.pausedFrom c = 0 ∨ tget 0 x.heldTo c < s.now then s.now + 1 else tget 0 x.pausedFrom c)
  else classPause x c

/-- One class of a pause frame changes its port alone. -/
theorem pauseClass_eq (p : Nat) (s : State) (cq : Nat × Nat) : ∃ x, pauseClass p s cq = { s with ports := x } := by
  unfold pauseClass
  dsimp only
  split
  · exact ⟨_, rfl⟩
  · split
    · exact ⟨_, rfl⟩
    · exact ⟨_, rfl⟩

theorem pauseClass_onlyPort (p : Nat) (s : State) (cq : Nat × Nat) : OnlyPort p s (pauseClass p s cq) := by
  unfold pauseClass
  dsimp only
  split
  · exact fun _ _ => rfl
  · split <;> exact onlyPort_setPort _ _ _

theorem not_takesPause (s : State) (p c : Nat) :
    (¬ bit (npFld s p 0x34 15 8) c ∨ inRelease s p c) ↔ ¬ takesPause s p c = true := by
  unfold takesPause
  cases bit (npFld s p 0x34 15 8) c <;> cases inRelease s p c <;> simp

theorem pauseClass_same (p c q : Nat) (s : State) : classPause ((pauseClass p s (c, q)).port p) c = pausedAs s p c q := by
  unfold pauseClass pausedAs
  simp only [not_takesPause, ite_not]
  split
  · split
    · simp only [setPort_port_same, classPause, tget_tset_same]
    · have hfrom : (tget 0 (s.port p).pausedFrom c ≠ 0 ∧ s.now ≤ tget 0 (s.port p).heldTo c) ↔
          ¬ (tget 0 (s.port p).pausedFrom c = 0 ∨ tget 0 (s.port p).heldTo c < s.now) := by omega
      simp only [setPort_port_same, classPause, tget_tset_same, hfrom, ite_not]
  · rfl

/-- The other classes stay as they are, and no release window changes. -/
theorem pauseClass_other (p q : Nat) {c c' : Nat} (s : State) (h : c' ≠ c) :
    classPause ((pauseClass p s (c, q)).port p) c' = classPause (s.port p) c' := by
  unfold pauseClass
  dsimp only
  split
  · rfl
  · split <;> simp only [setPort_port_same, classPause, tget_tset_ne _ _ _ h]

theorem pauseClass_relEnd (p : Nat) (s : State) (cq : Nat × Nat) : ((pauseClass p s cq).port p).relEnd = (s.port p).relEnd := by
  unfold pauseClass
  dsimp only
  split
  · rfl
  · split <;> simp only [setPort_port_same]

/-- What a frame asks of one class does not depend on the class before it. -/
theorem pausedAs_pauseClass (p q q' : Nat) {c c' : Nat} (s : State) (h : c' ≠ c) :
    pausedAs (pauseClass p s (c, q)) p c' q' = pausedAs s p c' q' := by
  obtain ⟨x, hx⟩ := pauseClass_eq p s (c, q)
  have hother := pauseClass_other p q s h
  have hrel := pauseClass_relEnd p s (c, q)
  have hreg : ∀ o, (pauseClass p s (c, q)).reg o = s.reg o := fun o => by rw [hx]; rfl
  have hnow : (pauseClass p s (c, q)).now = s.now := by rw [hx]; rfl
  generalize pauseClass p s (c, q) = b at *
  have htake : takesPause b p c' = takesPause s p c' := by simp only [takesPause, inRelease, npFld, rfld, hreg, hnow, hrel]
  have hten : tenG b p = tenG s p := by simp only [tenG, hreg]
  have hpair := hother
  simp only [classPause, Prod.mk.injEq] at hpair
  obtain ⟨hhold, hheld, hfrom⟩ := hpair
  have hpaused : isPaused b p c' = isPaused s p c' := by simp only [isPaused, hnow, hhold]
  simp only [pausedAs, htake, hten, hnow, hpaused, hheld, hfrom, hother]

/-- The classes of a frame, each once: every class of the list is paused as it asks, the others stay. -/
theorem foldl_pauseClass (p : Nat) (q : Nat → Nat) (l : List Nat) (hl : l.Nodup) : ∀ (s : State) (c : Nat),
    classPause (((l.map fun c => (c, q c)).foldl (pauseClass p) s).port p) c =
      if c ∈ l then pausedAs s p c (q c) else classPause (s.port p) c := by
  induction l with
  | nil => exact fun s c => (if_neg List.not_mem_nil).symm
  | cons k l ih =>
    intro s c
    obtain ⟨hk, hl⟩ := List.nodup_cons.mp hl
    rw [List.map_cons, List.foldl_cons, ih hl]
    by_cases hc : c = k
    · subst hc
      rw [if_neg hk, if_pos List.mem_cons_self, pauseClass_same]
    · simp only [List.mem_cons, hc, false_or, pausedAs_pauseClass p _ _ s hc, pauseClass_other p _ s hc]

/-- A fold over classes changes the port alone. -/
theorem foldl_pauseClass_frame (p : Nat) (l : List (Nat × Nat)) : ∀ s : State,
    (∃ x, l.foldl (pauseClass p) s = { s with ports := x }) ∧ OnlyPort p s (l.foldl (pauseClass p) s) := by
  induction l with
  | nil => exact fun s => ⟨⟨_, rfl⟩, fun _ _ => rfl⟩
  | cons cq l ih =>
    intro s
    obtain ⟨⟨x, hx⟩, honly⟩ := ih (pauseClass p s cq)
    obtain ⟨y, hy⟩ := pauseClass_eq p s cq
    refine ⟨⟨x, ?_⟩, fun j hj => (honly j hj).trans (pauseClass_onlyPort p s cq j hj)⟩
    rw [List.foldl_cons, hx, hy]

/-- The state after a pause frame that the port follows: counted, and each class that it names paused (R77). -/
def pausedBy (p : Nat) (on : Nat → Bool) (q : Nat → Nat) (s : State) : State :=
  (((List.range 8).filter on).map fun c => (c, q c)).foldl (pauseClass p) (s.bump (baseNP p + 0x220))

theorem pausedBy_frame (p : Nat) (on : Nat → Bool) (q : Nat → Nat) (s : State) :
    OnlyPort p s (pausedBy p on q s) ∧ pausedBy p on q s = { s with ports := (pausedBy p on q s).ports, ctrs := (pausedBy p on q s).ctrs } ∧
      Counted s (pausedBy p on q s) (baseNP p + 0x220) 1 := by
  unfold pausedBy
  obtain ⟨⟨x, hx⟩, honly⟩ := foldl_pauseClass_frame p (((List.range 8).filter on).map fun c => (c, q c)) (s.bump (baseNP p + 0x220))
  refine ⟨honly, ?_, ?_⟩
  · rw [hx]; rfl
  · rw [hx]; exact bumpBy_ctr_same s _ 1

theorem pausedBy_class (p : Nat) (on : Nat → Bool) (q : Nat → Nat) (s : State) {c : Nat} (hc : c < 8) :
    classPause ((pausedBy p on q s).port p) c = if on c then pausedAs s p c (q c) else classPause (s.port p) c := by
  have hmem : c ∈ (List.range 8).filter on ↔ on c = true := by simp [hc]
  unfold pausedBy
  rw [foldl_pauseClass p q _ (List.nodup_range.filter on)]
  simp only [hmem]
  rfl

/-- The three values of a class after a pause frame. -/
theorem pausedBy_held (p : Nat) (on : Nat → Bool) (q : Nat → Nat) (s : State) {c : Nat} (hc : c < 8) :
    let b := pausedBy p on q s
    let stop := s.now + pauseGrains (tenG s p) (q c)
    let hit : Bool := on c && bit (npFld s p 0x34 15 8) c && !inRelease s p c
    tget 0 (b.port p).hold c = (if hit then (if q c = 0 then 0 else stop) else tget 0 (s.port p).hold c) ∧
    tget 0 (b.port p).heldTo c =
      (if hit then (if q c = 0 then (if isPaused s p c then s.now else tget 0 (s.port p).heldTo c) else stop)
       else tget 0 (s.port p).heldTo c) ∧
    tget 0 (b.port p).pausedFrom c =
      (if hit ∧ q c ≠ 0 ∧ (tget 0 (s.port p).pausedFrom c = 0 ∨ tget 0 (s.port p).heldTo c < s.now) then s.now + 1
       else tget 0 (s.port p).pausedFrom c) := by
  intro b stop hit
  have h := pausedBy_class p on q s hc
  have hhit : hit = (on c && takesPause s p c) := Bool.and_assoc ..
  simp only [hhit]
  cases hon : on c
  · rw [hon] at h
    simp only [Bool.false_eq_true, if_false, classPause, Prod.mk.injEq] at h
    simpa using h
  · rw [hon, if_pos rfl] at h
    simp only [Bool.true_and, pausedAs] at h ⊢
    cases htake : takesPause s p c
    · simp only [htake, Bool.false_eq_true, if_false, classPause, Prod.mk.injEq] at h
      simpa using h
    · by_cases hq : q c = 0
      · simp only [htake, if_true, if_pos hq, classPause, Prod.mk.injEq] at h
        simpa [hq] using h
      · simp only [htake, if_true, if_neg hq, classPause, Prod.mk.injEq] at h
        simpa [hq] using h

theorem exec_pauseFrame_off {t : Gts} {p : PortId} {s : State} (k : PauseKind) (hlink : ((s.advance t).port p.val).link = true)
    (hrole : npRole (s.advance t) p.val ≠ 0) (hoff : bit ((s.advance t).reg (baseNP p.val + 0x34)) 0 = false) :
    exec (.pauseFrame t p k) s = .next ((s.advance t).bump (baseNP p.val + 0x220)) := by
  show execPauseFrame t p k s = _
  unfold execPauseFrame
  refine act_of_sealed ?_ ⟨rfl, rfl, rfl⟩
  have hoff' : bit (((s.advance t).bump (baseNP p.val + 0x220)).reg (baseNP p.val + 0x34)) 0 = false := hoff
  simp [hlink, hrole, hoff']

/-- The classes that a pause frame names, and its quanta for each. -/
def pauseOn : PauseKind → Nat → Bool
  | .link _, _ => true
  | .pfc e _, c => e.getLsbD c

def pauseQuanta : PauseKind → Nat → Nat
  | .link q, _ => q.toNat
  | .pfc _ qs, c => (qs.getD c 0).toNat

theorem exec_pauseFrame {t : Gts} {p : PortId} {s : State} (k : PauseKind) (hlink : ((s.advance t).port p.val).link = true)
    (hrole : npRole (s.advance t) p.val ≠ 0) (hon : bit ((s.advance t).reg (baseNP p.val + 0x34)) 0 = true) :
    exec (.pauseFrame t p k) s = .next (pausedBy p.val (pauseOn k) (pauseQuanta k) (s.advance t)) := by
  show execPauseFrame t p k s = _
  unfold execPauseFrame
  have hon' : bit (((s.advance t).bump (baseNP p.val + 0x220)).reg (baseNP p.val + 0x34)) 0 = true := hon
  refine act_of_sealed ?_ ?_
  · refine (if_neg (by simp [hlink, hrole])).trans ((if_neg (by simp [hon'])).trans ?_)
    cases k with
    | link q => rfl
    | pfc e qs => rfl
  · rw [(pausedBy_frame p.val _ _ _).2.1]; exact ⟨rfl, rfl, rfl⟩

/-! ### Expiry, release windows, storms and moved classes (R77, R78, R381) -/

theorem exec_pauseExpiry (t : Gts) (p : PortId) (c : Fin 8) (s : State) :
    exec (.pauseExpiry t p c) s = .next (if isPaused (s.advance t) p.val c.val then s.advance t else
      (s.advance t).updPort p.val fun x => { x with hold := tset 0 x.hold c.val 0 }) := by
  show execPauseExpiry t p c s = _
  unfold execPauseExpiry
  refine act_of_sealed rfl ?_
  split <;> exact ⟨rfl, rfl, rfl⟩

theorem exec_releaseWindowEnd (t : Gts) (p : PortId) (c : Fin 8) (s : State) :
    exec (.releaseWindowEnd t p c) s = .next (if inRelease (s.advance t) p.val c.val then s.advance t else
      (s.advance t).updPort p.val fun x => { x with relEnd := tset 0 x.relEnd c.val 0 }) := by
  show execReleaseWindowEnd t p c s = _
  unfold execReleaseWindowEnd
  refine act_of_sealed rfl ?_
  split <;> exact ⟨rfl, rfl, rfl⟩

/-- The port whose class a storm releases (R78). -/
def stormPort (s : State) (p c : Nat) : Port :=
  let x := s.port p
  { x with hold := tset 0 x.hold c 0, heldTo := tset 0 x.heldTo c 0, pausedFrom := tset 0 x.pausedFrom c 0,
           relEnd := tset 0 x.relEnd c (s.now + npFld s p 0x38 31 16 * 4000) }

/-- A storm is released, counted and logged. -/
def stormBroken (p c : Nat) (s : State) : State :=
  ((s.setPort p (stormPort s p c)).bump (baseNP p + 0x23C)).raise p (p * 256 + 3) [c, s.now % 2 ^ 32, s.now / 2 ^ 32]

theorem stormBroken_portFrame (p c : Nat) (s : State) : PortFrame s (stormBroken p c s) :=
  portFrame_trans (portFrame_trans (portFrame_setPort _ _ s) (portFrame_bumpBy _ 1 _)) (portFrame_raise _ _ _ _ _)

/-- Only a media port moves a class (R381). -/
theorem classMove_of_role {p c : Nat} {s : State} (h : npRole s p = 3) : classMove p c s = s := by
  simp only [classMove, otherMedia, h]

/-- A storm on a port that carries no media network. -/
theorem exec_pauseStorm {t : Gts} {p : PortId} {c : Fin 8} {s : State} (hlimit : npFld (s.advance t) p.val 0x38 15 0 ≠ 0)
    (hfrom : tget 0 ((s.advance t).port p.val).pausedFrom c.val ≠ 0) (hpaused : isPaused (s.advance t) p.val c.val = true)
    (hdue : tget 0 ((s.advance t).port p.val).pausedFrom c.val - 1 + npFld (s.advance t) p.val 0x38 15 0 * 4000 ≤ (s.advance t).now)
    (hrole : npRole (s.advance t) p.val = 3) :
    exec (.pauseStorm t p c) s = .next (stormBroken p.val c.val (s.advance t)) := by
  show execPauseStorm t p c s = _
  unfold execPauseStorm
  refine act_of_sealed ?_ (portFrame_sealed (stormBroken_portFrame ..))
  refine (if_pos ⟨hlimit, hfrom, hpaused, hdue⟩).trans (classMove_of_role ?_)
  exact (raise_npRole ..).trans hrole

/-- A class that was moved comes back. -/
def classReturned (k : Nat) (s : State) : State :=
  s.updSup fun u => { u with moved := tset 0 u.moved k 0, movedAt := tset 0 u.movedAt k 0 }

theorem exec_classBack {t : Gts} {p : PortId} {c : Fin 8} {s : State} (hmoved : tget 0 (s.advance t).sup.moved (8 * p.val + c.val) ≠ 0)
    (hdue : tget 0 (s.advance t).sup.moved (8 * p.val + c.val) ≤ (s.advance t).now) :
    exec (.classBack t p c) s = .next ((classReturned (8 * p.val + c.val) (s.advance t)).raiseSv 0x6A [c.val, p.val]) := by
  show execClassBack t p c s = _
  unfold execClassBack
  refine act_of_sealed ?_ ⟨raiseSv_pending .., raiseSv_gts .., raiseSv_fuses ..⟩
  exact if_pos ⟨hmoved, hdue⟩

/-- Settles O26: a frame pauses each class that it names once, which foldl_pauseClass says of a list of classes without repeats. -/
theorem pauseHoldsAndReleasesClasses : Obligations.PauseHoldsAndReleasesClasses := by
  intro t p s
  refine ⟨fun hlink hrole => ⟨fun hoff k => exec_pauseFrame_off k hlink hrole hoff, fun hon => ?_⟩, fun c => ?_⟩
  · exact ⟨fun q => ⟨_, exec_pauseFrame (.link q) hlink hrole hon, fun c hc => pausedBy_held _ _ _ _ hc, pausedBy_frame _ _ _ _⟩,
      fun e qs => ⟨_, exec_pauseFrame (.pfc e qs) hlink hrole hon, fun c hc => pausedBy_held _ _ _ _ hc, pausedBy_frame _ _ _ _⟩⟩
  · refine ⟨fun h => ?_, fun h => ?_, fun h => ?_, fun hlimit hfrom hpaused hdue hrole => ?_, fun hmoved hdue => ?_⟩
    · rw [exec_pauseExpiry, h]; rfl
    · rw [Idles, exec_pauseExpiry, if_pos h]
    · rw [exec_releaseWindowEnd, h]; rfl
    · refine ⟨_, exec_pauseStorm hlimit hfrom hpaused hdue hrole, ?_, ?_, raise_fresh .., fun j hj => ?_, stormBroken_portFrame ..⟩
      · exact (raise_port ..).trans (setPort_port_same _ _ _)
      · exact (raise_ctr ..).trans (bumpBy_ctr_same _ _ _)
      · exact (raise_port ..).trans (onlyPort_setPort _ _ _ j hj)
    · refine ⟨_, exec_classBack hmoved hdue, ?_, raiseSv_fresh .., ?_⟩
      · rw [raiseSv_sup]; exact tget_tset_same 0 _ _ 0
      · obtain ⟨r, m, h⟩ := raise_eq (classReturned (8 * p.val + c.val) (s.advance t)) 15 0xF6A [c.val, p.val] 0
        rw [show (classReturned (8 * p.val + c.val) (s.advance t)).raiseSv 0x6A [c.val, p.val] = _ from h]
        rfl

/-! ### Gates: a counterexample -/

/-- Two ports in a table that does not stand in the order of its keys (log 38); port 0 waits for a list that is due at GTS 1. -/
def portsOutOfOrder : State := { ports := [(1, { link := true }), (0, { gclNext := [(1, [])] })] }

/-- GATE_ENTRY writes the port back although nothing is due, which puts the table in order. -/
theorem gateEntry_reorders :
    exec (.gateEntry 0 0) portsOutOfOrder = .next { portsOutOfOrder with ports := [(0, { gclNext := [(1, [])] }), (1, { link := true })] } := by
  rfl

/-- Refutes O29: where the next list is not due GATE_ENTRY writes the port back as it stands, and a table of ports that is not in
canonical form does not come out of that write as it was; over such a table the command is not idle. -/
theorem not_gatesAndLowPowerIdle : ¬ Obligations.GatesAndLowPowerIdle := by
  intro h
  obtain ⟨-, hnext, -⟩ := h 0 0 portsOutOfOrder
  have hidle : exec (.gateEntry 0 0) portsOutOfOrder = .next (portsOutOfOrder.advance 0) := (hnext 1 [] rfl).2 (by decide)
  rw [gateEntry_reorders, Host.Outcome.next.injEq] at hidle
  exact absurd (congrArg State.ports hidle) (by decide)

/-! ### Received frames: a counterexample -/

/-- Queue 5: one item, filled by port 0, emptied by the host, lossless (R121). -/
def oneItemQueue : List Byte := [0, 0, 0, 0, 0, 32, 0, 13] ++ List.replicate 24 0

/-- A linked port of the host network that fills queue 5. An item has been stored there and popped (W and Rd are 1), and the push
that stalled while it stood still waits for STALLED_PUSH_PROCEED (R127). -/
def stalledPort : State :=
  { sup := { mode := .service }
    regs := [(0x4003C, 0x00050505), (0x40000, 3)]
    ports := [(0, { link := true })]
    cfg := { built := true, recs := [(recKey tyQUEUE 5, some oneItemQueue)] }
    queues := [(5, { w := 1, rd := 1, pushWait := some {}, waitWhole := true })] }

/-- A broadcast frame of the least length, with its FCS. -/
def broadcastFrame : List Byte := withFcs (List.replicate 6 0xFF ++ List.replicate 54 0) false

/-- W of a queue after a command. -/
def wAfter (q : Nat) (c : Instr) (s : State) : Option Nat :=
  match exec c s with
  | .next b => some (b.queue q).w
  | _ => none

theorem wAfter_of_exec {q n : Nat} {c : Instr} {s b : State} (h : exec c s = .next b) (hw : (b.queue q).w = n) :
    wAfter q c s = some n := by
  rw [wAfter, h, ← hw]

/-- Refutes O25: its clause on a frame that is stored asks for room and no push in progress, and not that no push stalls. While one
does, the port's frame waits behind it and W stays. -/
theorem not_receivedFramesAreFilteredAndQueued : ¬ Obligations.ReceivedFramesAreFilteredAndQueued := by
  intro h
  obtain ⟨hup, -, -⟩ := h 0 0 0 broadcastFrame [] [] stalledPort
  obtain ⟨-, -, hgood⟩ := hup (by decide +kernel) (by decide +kernel)
  obtain ⟨-, -, hstore⟩ := hgood (by decide +kernel) (by decide +kernel) (by decide +kernel) (by decide +kernel)
  obtain ⟨c, hexec, hw, -⟩ := hstore oneItemQueue (by decide +kernel) (by decide +kernel) (by decide +kernel) (by decide +kernel)
    (by decide +kernel) (by decide +kernel) (by decide +kernel) (by decide +kernel)
  exact absurd (wAfter_of_exec hexec hw) (by decide +kernel)

/-! ### What the operations of queues and of the Time Base leave of links -/

/-- From `a` to `b` what is sealed passed on, no link, role or loss of a network changed, and every event that waits still does. -/
structure KeepsLinks (a b : State) : Prop where
  passes : Sealed a b
  link : ∀ j, (b.port j).link = (a.port j).link
  role : ∀ j, npRole b j = npRole a j
  lost : b.sup.netLost = a.sup.netLost
  fresh : ∀ e ∈ a.log.fresh, e ∈ b.log.fresh

/-- A change of queues, counters, free values, the Time Base or what the Supervisor keeps besides lost networks. -/
theorem keepsLinks_of_eq {a b : State}
    (h : b = { a with queues := b.queues, ctrs := b.ctrs, freeN := b.freeN, tb := b.tb, sup := b.sup })
    (hs : b.sup.netLost = a.sup.netLost) : KeepsLinks a b := by
  refine ⟨?_, fun j => ?_, fun j => ?_, hs, ?_⟩ <;> rw [h]
  · exact ⟨rfl, rfl, rfl⟩
  · rfl
  · rfl
  · exact fun _ he => he

theorem keepsLinks_refl (a : State) : KeepsLinks a a := keepsLinks_of_eq rfl rfl

/-- One more operation. -/
theorem KeepsLinks.after {a b c : State} (k : KeepsLinks b c) (h : KeepsLinks a b) : KeepsLinks a c :=
  ⟨sealed_trans h.passes k.passes, fun j => (k.link j).trans (h.link j), fun j => (k.role j).trans (h.role j), k.lost.trans h.lost,
    fun e he => k.fresh e (h.fresh e he)⟩

theorem keepsLinks_foldl {α : Type} (f : State → α → State) (hf : ∀ s x, KeepsLinks s (f s x)) (l : List α) :
    ∀ s, KeepsLinks s (l.foldl f s) := by
  induction l with
  | nil => exact keepsLinks_refl
  | cons x l ih => exact fun s => (ih _).after (hf s x)

theorem keepsLinks_setQueue (q : Nat) (x : Queue) (s : State) : KeepsLinks s (s.setQueue q x) := keepsLinks_of_eq rfl rfl

theorem keepsLinks_updQueue (q : Nat) (f : Queue → Queue) (s : State) : KeepsLinks s (s.updQueue q f) := keepsLinks_of_eq rfl rfl

theorem keepsLinks_bumpBy (o n : Nat) (s : State) : KeepsLinks s (s.bumpBy o n) := keepsLinks_of_eq rfl rfl

theorem keepsLinks_bump (o : Nat) (s : State) : KeepsLinks s (s.bump o) := keepsLinks_of_eq rfl rfl

theorem keepsLinks_updTb (f : TimeB → TimeB) (s : State) : KeepsLinks s (s.updTb f) := keepsLinks_of_eq rfl rfl

theorem keepsLinks_setInst (i : Nat) (x : PtpInst) (s : State) : KeepsLinks s (s.setInst i x) := keepsLinks_of_eq rfl rfl

theorem keepsLinks_updSup {f : Sup → Sup} (s : State) (h : (f s.sup).netLost = s.sup.netLost) : KeepsLinks s (s.updSup f) :=
  keepsLinks_of_eq rfl h

theorem keepsLinks_raise (src code : Nat) (d : List Nat) (svc : Nat) (s : State) : KeepsLinks s (s.raise src code d svc) :=
  ⟨⟨raise_pending .., raise_gts .., raise_fuses ..⟩, fun _ => by rw [raise_port], fun _ => raise_npRole .., by rw [raise_sup],
    fun _ he => by rw [raise_fresh]; exact List.mem_append_left _ he⟩

theorem keepsLinks_raiseSv (low : Nat) (d : List Nat) (s : State) : KeepsLinks s (s.raiseSv low d) := keepsLinks_raise ..

theorem keepsLinks_updPort (p : Nat) (f : Port → Port) (s : State) (h : ∀ x, (f x).link = x.link) : KeepsLinks s (s.updPort p f) := by
  refine ⟨⟨rfl, rfl, rfl⟩, fun j => ?_, fun _ => rfl, rfl, fun _ he => he⟩
  rw [updPort, setPort_port]
  split
  · next hj => rw [h, hj]
  · rfl

/-! #### Queues -/

theorem keepsLinks_sendPfc (d : List Byte) (quanta : Nat) (s : State) : KeepsLinks s (sendPfc d quanta s) := by
  unfold sendPfc
  dsimp only
  split
  · exact (keepsLinks_bump _ _).after (keepsLinks_updPort _ _ s fun _ => rfl)
  · exact keepsLinks_refl s

theorem keepsLinks_qEvent (low q x : Nat) (s : State) : KeepsLinks s (qEvent low q x s) := keepsLinks_raise ..

theorem keepsLinks_pfcRise (q : Nat) (d : List Byte) (s : State) : KeepsLinks s (pfcRise q d s) := by
  unfold pfcRise
  dsimp only
  split
  · exact (keepsLinks_sendPfc _ _ _).after ((keepsLinks_qEvent _ _ _ _).after (keepsLinks_setQueue _ _ s))
  · exact keepsLinks_refl s

theorem keepsLinks_pfcFall (q : Nat) (d : List Byte) (s : State) : KeepsLinks s (pfcFall q d s) := by
  unfold pfcFall
  dsimp only
  split
  · exact (keepsLinks_sendPfc _ _ _).after ((keepsLinks_qEvent _ _ _ _).after (keepsLinks_setQueue _ _ s))
  · exact keepsLinks_refl s

theorem keepsLinks_qStore (q : Nat) (d : List Byte) (it : Item) (s : State) : KeepsLinks s (qStore q d it s) := by
  unfold qStore
  exact (keepsLinks_pfcRise _ _ _).after ((keepsLinks_bump _ _).after (keepsLinks_setQueue _ _ s))

theorem keepsLinks_qRead (d : List Byte) (x : Queue) (s : State) : KeepsLinks s (qRead d x s).2 := by
  unfold qRead
  split
  · exact keepsLinks_of_eq rfl rfl
  · exact keepsLinks_refl s

theorem keepsLinks_qFlush (q : Nat) (d : List Byte) (immediate : Bool) (s : State) : KeepsLinks s (qFlush q d immediate s) := by
  unfold qFlush
  dsimp only
  refine (keepsLinks_pfcFall _ _ _).after ((keepsLinks_bumpBy _ _ _).after ((keepsLinks_setQueue _ _ _).after ?_))
  split
  · exact keepsLinks_qRead _ _ s
  · exact keepsLinks_refl s

theorem keepsLinks_qExpire (q : Nat) (d : List Byte) (g : Nat) (s : State) : KeepsLinks s (qExpire q d g s) := by
  unfold qExpire
  dsimp only
  have hpop : ∀ c : Bool, KeepsLinks s (if c = true then s.updQueue q fun x => { x with popStall := false, timedOut := true } else s) := by
    intro c
    split
    · exact keepsLinks_updQueue _ _ s
    · exact keepsLinks_refl s
  have hevent : ∀ n b, KeepsLinks b (qEvent 2 q n (b.bump (qCtr q 4))) := fun n b =>
    (keepsLinks_qEvent _ _ _ _).after (keepsLinks_bump _ b)
  have hclosed : ∀ it b, KeepsLinks b (((qStore q d it b).updQueue q fun x => { x with pushDead := true }).bump (qCtr q 3)) := fun it b =>
    (keepsLinks_bump _ _).after ((keepsLinks_updQueue _ _ _).after (keepsLinks_qStore q d it b))
  split
  · exact keepsLinks_refl s
  · split
    · refine (keepsLinks_qEvent _ _ _ _).after ((keepsLinks_qFlush _ _ _ _).after ((hevent _ _).after ?_))
      split
      · exact (hclosed _ _).after (hpop _)
      · exact hpop _
    · refine (hevent _ _).after ?_
      split
      · exact (hclosed _ _).after (hpop _)
      · exact hpop _

theorem keepsLinks_qWrite (q : Nat) (d : List Byte) (l : List (Gts × List Byte)) : ∀ s, KeepsLinks s (qWrite q d l s) := by
  induction l with
  | nil =>
    intro s
    unfold qWrite
    exact (keepsLinks_qExpire _ _ _ _).after (keepsLinks_updQueue _ _ s)
  | cons x l ih =>
    intro s
    unfold qWrite
    dsimp only
    split
    · exact (keepsLinks_qExpire _ _ _ _).after (keepsLinks_updQueue _ _ s)
    · exact (ih _).after ((keepsLinks_updQueue _ _ _).after (keepsLinks_qExpire q d x.1.toNat s))

theorem keepsLinks_qDeliver (q : Nat) (d : List Byte) (s : State) : KeepsLinks s (qDeliver q d s) := by
  unfold qDeliver
  dsimp only
  split
  · exact keepsLinks_refl s
  · exact (keepsLinks_pfcFall _ _ _).after ((keepsLinks_bump _ _).after (keepsLinks_setQueue _ _ s))

theorem keepsLinks_qFlushLater (q : Nat) (d : List Byte) (s : State) : KeepsLinks s (qFlushLater q d s) := by
  unfold qFlushLater
  dsimp only
  split
  · exact keepsLinks_qFlush _ _ _ s
  · exact keepsLinks_setQueue _ _ s

theorem keepsLinks_qTake (q : Nat) (s : State) : KeepsLinks s (qTake q s).2 := by
  unfold qTake
  split
  · exact keepsLinks_refl s
  · dsimp only
    exact keepsLinks_updQueue _ _ s

/-- A violation of a block changes, of the Supervisor, what it latches and what it asks for. -/
theorem keepsLinks_violateBlock (src addr : Nat) (write : Bool) (s : State) : KeepsLinks s (violateBlock src addr write s) := by
  unfold violateBlock
  dsimp only
  split
  · refine (keepsLinks_updSup _ rfl).after ((keepsLinks_updSup _ ?_).after ((keepsLinks_bump _ _).after (keepsLinks_raiseSv _ _ s)))
    split <;> rfl
  · refine (keepsLinks_updSup _ ?_).after ((keepsLinks_bump _ _).after (keepsLinks_raiseSv _ _ s))
    split <;> rfl

theorem keepsLinks_qRogue (q src kind : Nat) (s : State) : KeepsLinks s (qRogue q src kind s) := by
  unfold qRogue
  exact (keepsLinks_violateBlock _ _ _ _).after ((keepsLinks_qEvent _ _ _ _).after (keepsLinks_bump _ s))

theorem keepsLinks_qPopNow (src q : Nat) (s : State) : KeepsLinks s (qPopNow src q s).2 := by
  unfold qPopNow
  split
  · exact keepsLinks_refl s
  · split
    · exact keepsLinks_qRogue _ _ _ s
    · dsimp only
      split
      · exact (keepsLinks_qTake _ _).after ((keepsLinks_qDeliver _ _ _).after (keepsLinks_qWrite _ _ _ s))
      · exact (keepsLinks_qTake _ _).after (keepsLinks_qWrite _ _ _ s)

/-! #### Draining a port -/

theorem keepsLinks_offer (p : Nat) (it : Item) (s : State) : KeepsLinks s (offer p it s) := by
  unfold offer
  exact keepsLinks_updPort _ _ s fun _ => rfl

theorem keepsLinks_drainQueue (p q fuel : Nat) : ∀ s, KeepsLinks s (drainQueue p q fuel s) := by
  induction fuel with
  | zero => exact keepsLinks_refl
  | succ fuel ih =>
    intro s
    have hpop := keepsLinks_qPopNow p q s
    unfold drainQueue
    split
    · next b h => rw [h] at hpop; exact hpop
    · next it b h => rw [h] at hpop; exact (ih _).after ((keepsLinks_offer p it b).after hpop)

theorem keepsLinks_drainPort (p : Nat) (s : State) : KeepsLinks s (drainPort p s) := by
  unfold drainPort
  refine keepsLinks_foldl _ (fun s e => ?_) _ s
  dsimp only
  split
  · exact keepsLinks_drainQueue _ _ _ s
  · exact keepsLinks_refl s

theorem keepsLinks_discardAll (p : Nat) (s : State) : KeepsLinks s (discardAll p s) := by
  unfold discardAll
  dsimp only
  exact (keepsLinks_bumpBy _ _ _).after
    ((keepsLinks_updPort p (fun x => { x with txq := [] }) _ fun _ => rfl).after (keepsLinks_drainPort p s))

/-- Without a queue in the structure nothing is drained. -/
theorem drainPort_of_noQueue {s : State} (p : Nat) (h : recsOf s.cfg.recs tyQUEUE = []) : drainPort p s = s := by
  rw [drainPort, h]; rfl

/-! #### The Time Base -/

theorem keepsLinks_leaveHold (goTo : Nat) (s : State) : KeepsLinks s (leaveHold goTo s) := by
  unfold leaveHold
  exact (keepsLinks_raise _ _ _ _ _).after (keepsLinks_updTb _ s)

/-- The lock state once a reference is named. -/
theorem keepsLinks_locked {s b : State} (h : KeepsLinks s b) :
    KeepsLinks s (if b.tb.st = 3 then leaveHold 1 b
      else if b.tb.st = 0 then b.updTb fun x => { x with st := 1, lockFrom := 0 } else b) := by
  split
  · exact (keepsLinks_leaveHold 1 b).after h
  · split
    · exact (keepsLinks_updTb _ b).after h
    · exact h

theorem keepsLinks_nameRef (i : Nat) (s : State) : KeepsLinks s (nameRef i s) := by
  unfold nameRef
  dsimp only
  split
  · exact keepsLinks_refl s
  · refine keepsLinks_locked ?_
    split
    · split
      · exact keepsLinks_updTb _ s
      · exact (keepsLinks_bump _ _).after ((keepsLinks_raise _ _ _ _ _).after ((keepsLinks_setInst _ _ _).after (keepsLinks_updTb _ s)))
    · exact keepsLinks_updTb _ s

theorem keepsLinks_refLost (s : State) : KeepsLinks s (refLost s) := by
  unfold refLost
  split
  · exact keepsLinks_refl s
  · split
    · exact keepsLinks_nameRef _ s
    · split
      · exact (keepsLinks_bump _ _).after ((keepsLinks_raise _ _ _ _ _).after (keepsLinks_updTb _ s))
      · exact keepsLinks_refl s

/-- A port state other than SLAVE. -/
theorem keepsLinks_setPstate (i : Nat) {st : Nat} (s : State) (h : st ≠ 9) : KeepsLinks s (setPstate i st s) := by
  unfold setPstate
  dsimp only
  rw [if_neg h, if_neg h]
  split
  · exact (keepsLinks_refLost _).after (keepsLinks_setInst _ _ s)
  · exact keepsLinks_setInst _ _ s

/-! ### Links -/

/-- A port whose link has gone down (R68). -/
def downPort (x : Port) : Port := { x with link := false, fecLock := false, lpiTx := false, lpiRx := false, txCur := none }

/-- What LINK_DOWN leaves before the queues of the port are flushed. -/
def linkLost (p cause : Nat) (s : State) : State :=
  ((s.updPort p downPort).bump (baseNP p + 0x250)).raise p (p * 256 + 1) [cause]

/-- The egress queues of a port are boundary-flushed (R68). -/
def flushEgress (p : Nat) (s : State) : State :=
  (recsOf s.cfg.recs tyQUEUE).foldl (fun s e => if qCons e.2 = p then qFlushLater e.1 e.2 s else s) s

theorem keepsLinks_flushEgress (p : Nat) (s : State) : KeepsLinks s (flushEgress p s) := by
  unfold flushEgress
  refine keepsLinks_foldl _ (fun s e => ?_) _ s
  split
  · exact keepsLinks_qFlushLater _ _ s
  · exact keepsLinks_refl s

/-- What the loss of a media port's link does to its network (R68, R363). -/
def dropNet (r : Nat) (s : State) : State :=
  if (ptpRec (declareLost r s) r).isSome then setPstate r 2 (declareLost r s) else declareLost r s

/-- The steps of LINK_DOWN. -/
theorem takeDown_eq {p cause : Nat} {s : State} (h : (s.port p).link = true) :
    takeDown p cause s =
      let b := flushEgress p (discardAll p (linkLost p cause s))
      if npRole b p = 1 ∨ npRole b p = 2 then dropNet (npRole b p - 1) b else b := by
  unfold takeDown
  rw [if_neg (by simp [h])]
  rfl

/-- A network that is not lost yet is lost, and said to be. -/
theorem declareLost_first {r : Nat} {s : State} (h : bit s.sup.netLost r = false) :
    ∃ b, KeepsLinks b (declareLost r s) ∧ b.ports = s.ports ∧ Sealed s b ∧ b.sup = { s.sup with netLost := s.sup.netLost ||| 2 ^ r } ∧
      { gts := s.now, source := 15, code := 0xF4A, d := [r] } ∈ b.log.fresh := by
  refine ⟨((s.updSup fun u => { u with netLost := u.netLost ||| 2 ^ r }).raiseSv 0x4A [r]).bump (baseSV + 0x724), ?_, ?_, ?_, ?_, ?_⟩
  · unfold declareLost
    dsimp only
    rw [if_neg (by simp [h])]
    split
    · exact keepsLinks_refLost _
    · exact keepsLinks_refl _
  · exact raiseSv_ports ..
  · exact ⟨raiseSv_pending .., raiseSv_gts .., raiseSv_fuses ..⟩
  · exact raiseSv_sup ..
  · show _ ∈ (State.raiseSv _ _ _).log.fresh
    rw [raiseSv_fresh]
    exact List.mem_append_right _ (List.mem_singleton.mpr rfl)

theorem keepsLinks_dropNet (r : Nat) (s : State) : KeepsLinks (declareLost r s) (dropNet r s) := by
  unfold dropNet
  split
  · exact keepsLinks_setPstate r _ (by decide)
  · exact keepsLinks_refl _

theorem linkLost_portFrame (p cause : Nat) (s : State) : PortFrame s (linkLost p cause s) :=
  portFrame_trans (portFrame_trans (portFrame_setPort _ _ s) (portFrame_bumpBy _ 1 _)) (portFrame_raise _ _ _ _ _)

theorem linkLost_port (p cause : Nat) (s : State) : (linkLost p cause s).port p = downPort (s.port p) :=
  (raise_port ..).trans (updPort_port_same _ _ _)

theorem linkLost_role (p cause j : Nat) (s : State) : npRole (linkLost p cause s) j = npRole s j := raise_npRole ..

/-- The frames of a port are discarded. -/
def noFrames (x : Port) : Port := { x with txq := [] }

theorem noFrames_eq {x : Port} (h : x.txq = []) : noFrames x = x := by
  rw [noFrames, ← h]

/-- A port without frames to send discards none. -/
theorem discardAll_empty {p : Nat} {s : State} (hq : recsOf s.cfg.recs tyQUEUE = []) (ht : (s.port p).txq = []) :
    discardAll p s = (s.updPort p noFrames).bumpBy (baseNP p + 0x230) 0 := by
  unfold discardAll
  dsimp only
  rw [drainPort_of_noQueue p hq, ht]
  rfl

/-- LINK_DOWN of a port that carries no media network, with nothing to flush or to discard. -/
def plainDown (p cause : Nat) (s : State) : State :=
  ((linkLost p cause s).updPort p noFrames).bumpBy (baseNP p + 0x230) 0

theorem plainDown_portFrame (p cause : Nat) (s : State) : PortFrame s (plainDown p cause s) :=
  portFrame_trans (portFrame_trans (linkLost_portFrame p cause s) (portFrame_setPort _ _ _)) (portFrame_bumpBy _ 0 _)

theorem takeDown_plain {p cause : Nat} {s : State} (hlink : (s.port p).link = true) (ht : (s.port p).txq = [])
    (hrole : npRole s p = 3) (hq : recsOf s.cfg.recs tyQUEUE = []) : takeDown p cause s = plainDown p cause s := by
  have hcfg : (linkLost p cause s).cfg = s.cfg := raise_cfg ..
  have hdisc : discardAll p (linkLost p cause s) = plainDown p cause s :=
    discardAll_empty (by rw [hcfg, hq]) (by rw [linkLost_port]; exact ht)
  have hflush : flushEgress p (plainDown p cause s) = plainDown p cause s := by
    rw [flushEgress, show (plainDown p cause s).cfg = s.cfg from hcfg, hq]; rfl
  have hrole' : npRole (plainDown p cause s) p = 3 := (linkLost_role p cause p s).trans hrole
  rw [takeDown_eq hlink]
  simp only [hdisc, hflush, hrole']
  rfl

theorem exec_linkDown_plain {t : Gts} {p : PortId} {s : State} (cause : LinkFault) (hlink : ((s.advance t).port p.val).link = true)
    (ht : ((s.advance t).port p.val).txq = []) (hrole : npRole (s.advance t) p.val = 3)
    (hq : recsOf (s.advance t).cfg.recs tyQUEUE = []) :
    exec (.linkDown t p cause) s = .next (plainDown p.val (linkCode cause) (s.advance t)) := by
  show execLinkDown t p cause s = _
  unfold execLinkDown
  exact act_of_sealed (takeDown_plain hlink ht hrole hq) (portFrame_sealed (plainDown_portFrame ..))

/-- The port of a plain LINK_DOWN. -/
theorem plainDown_port {p cause : Nat} {s : State} (ht : (s.port p).txq = []) : (plainDown p cause s).port p = downPort (s.port p) := by
  show ((linkLost p cause s).updPort p noFrames).port p = _
  rw [updPort_port_same, linkLost_port]
  exact noFrames_eq ht

theorem plainDown_counted (p cause : Nat) (s : State) : Counted s (plainDown p cause s) (baseNP p + 0x250) 1 := by
  refine (bumpBy_ctr_ne _ 0 (by omega)).trans ?_
  exact (raise_ctr ..).trans (bumpBy_ctr_same _ _ _)

theorem plainDown_onlyPort (p cause : Nat) (s : State) : OnlyPort p s (plainDown p cause s) := fun j hj =>
  (onlyPort_setPort p _ (linkLost p cause s) j hj).trans ((raise_port ..).trans (onlyPort_setPort p _ s j hj))

/-- LINK_DOWN of a media port whose network stands takes its network with it (R68, R363). -/
theorem takeDown_media {p cause r : Nat} {s : State} (hlink : (s.port p).link = true) (hrole : npRole s p = r + 1) (hr : r < 2)
    (hlost : bit s.sup.netLost r = false) :
    Sealed s (takeDown p cause s) ∧ ((takeDown p cause s).port p).link = false ∧ bit (takeDown p cause s).sup.netLost r = true ∧
      { gts := s.now, source := 15, code := 0xF4A, d := [r] } ∈ (takeDown p cause s).log.fresh := by
  have hkeep := (keepsLinks_flushEgress p _).after (keepsLinks_discardAll p (linkLost p cause s))
  have hdown := takeDown_eq (cause := cause) hlink
  generalize flushEgress p (discardAll p (linkLost p cause s)) = b at hkeep hdown
  have hsealed : Sealed s b := sealed_trans (portFrame_sealed (linkLost_portFrame p cause s)) hkeep.passes
  have hrole' : npRole b p = r + 1 := (hkeep.role p).trans ((linkLost_role p cause p s).trans hrole)
  have hlost' : bit b.sup.netLost r = false := by
    rw [hkeep.lost, show (linkLost p cause s).sup = s.sup from raise_sup ..]; exact hlost
  have hlinkb : (b.port p).link = false := by rw [hkeep.link, linkLost_port]; rfl
  have hnow : b.now = s.now := congrArg BitVec.toNat hsealed.2.1
  obtain ⟨c, hc, hports, hsealc, hsup, hev⟩ := declareLost_first hlost'
  have hz := (keepsLinks_dropNet r b).after hc
  have hdrop : takeDown p cause s = dropNet r b := by
    rw [hdown]
    simp only [hrole']
    rw [if_pos (by omega), Nat.add_sub_cancel]
  rw [hdrop]
  refine ⟨sealed_trans hsealed (sealed_trans hsealc hz.passes), ?_, ?_, hz.fresh _ (hnow ▸ hev)⟩
  · rw [hz.link, port, hports]; exact hlinkb
  · rw [hz.lost, hsup]
    simp [bit]

theorem does_linkDown_media {t : Gts} {p : PortId} {s : State} {r : Nat} (cause : LinkFault)
    (hrole : npRole (s.advance t) p.val = r + 1) (hr : r < 2) (hlink : ((s.advance t).port p.val).link = true)
    (hlost : bit (s.advance t).sup.netLost r = false) :
    Does (.linkDown t p cause) s fun b => (b.port p.val).link = false ∧ bit b.sup.netLost r = true ∧
      { gts := (s.advance t).now, source := 15, code := 0xF4A, d := [r] } ∈ b.log.fresh := by
  obtain ⟨hsealed, h⟩ := takeDown_media (cause := linkCode cause) hlink hrole hr hlost
  exact ⟨_, act_of_sealed rfl hsealed, h⟩

theorem idles_linkDown {t : Gts} {p : PortId} {s : State} (cause : LinkFault) (h : ((s.advance t).port p.val).link = false) :
    Idles (.linkDown t p cause) t s := by
  show execLinkDown t p cause s = _
  unfold execLinkDown
  refine act_of_sealed ?_ (sealed_refl _)
  rw [takeDown, if_pos (by simp [h])]

/-- A port whose link has come up (R68). -/
def upPort (fec eee : Bool) (now : Nat) (x : Port) : Port :=
  { x with link := true, fecLock := fec, eeePartner := eee, idleFrom := now, txEnd := now, txReady := now }

/-- Whether a link runs RS-FEC: at 25 Gbit/s, where the port asks for it. -/
def linkFec (s : State) (p : Nat) : Bool := bit (s.reg (baseNP p)) 3 && !bit (s.reg (baseNP p)) 2

/-- LINK_UP of a port with nothing to discard. -/
def plainUp (p : Nat) (eee : Bool) (s : State) : State :=
  (((s.updPort p noFrames).bumpBy (baseNP p + 0x230) 0).updPort p (upPort (linkFec s p) eee s.now)).raise p
    (p * 256 + 2) [b2n (bit (s.reg (baseNP p)) 2), b2n (linkFec s p)]

theorem plainUp_portFrame (p : Nat) (eee : Bool) (s : State) : PortFrame s (plainUp p eee s) :=
  portFrame_trans (portFrame_trans (portFrame_trans (portFrame_setPort _ _ s) (portFrame_bumpBy _ 0 _)) (portFrame_setPort _ _ _))
    (portFrame_raise _ _ _ _ _)

theorem exec_linkUp_plain {t : Gts} {p : PortId} {s : State} (eee : Bool) (hlink : ((s.advance t).port p.val).link = false)
    (ht : ((s.advance t).port p.val).txq = []) (hrole : npRole (s.advance t) p.val = 3)
    (hq : recsOf (s.advance t).cfg.recs tyQUEUE = []) (hmode : (s.advance t).sup.mode = .service) :
    exec (.linkUp t ⟨p, eee⟩) s = .next (plainUp p.val eee (s.advance t)) := by
  show execLinkUp t ⟨p, eee⟩ s = _
  unfold execLinkUp
  refine act_of_sealed ?_ (portFrame_sealed (plainUp_portFrame ..))
  dsimp only
  rw [if_neg (by simp [hlink, hrole, hmode]), discardAll_empty hq ht, hrole]
  rfl

theorem plainUp_port {p : Nat} {eee : Bool} {s : State} (ht : (s.port p).txq = []) :
    (plainUp p eee s).port p = upPort (linkFec s p) eee s.now (s.port p) := by
  have hempty : ((s.updPort p noFrames).bumpBy (baseNP p + 0x230) 0).port p = s.port p :=
    (updPort_port_same s p noFrames).trans (noFrames_eq ht)
  rw [plainUp, raise_port, updPort_port_same, hempty]

theorem plainUp_onlyPort (p : Nat) (eee : Bool) (s : State) : OnlyPort p s (plainUp p eee s) := fun j hj =>
  (raise_port ..).trans ((onlyPort_setPort p _ _ j hj).trans (onlyPort_setPort p _ s j hj))

/-- No link comes up on a Spare port, nor in Standby, Off or Lockdown. -/
theorem idles_linkUp {t : Gts} {p : PortId} {s : State} (eee : Bool) (h : npRole (s.advance t) p.val = 0 ∨ (s.advance t).sup.mode = .standby ∨
    (s.advance t).sup.mode = .off ∨ (s.advance t).sup.mode = .lockdown) : Idles (.linkUp t ⟨p, eee⟩) t s := by
  show execLinkUp t ⟨p, eee⟩ s = _
  unfold execLinkUp
  exact act_of_sealed (if_pos (.inr h)) (sealed_refl _)

/-- A network that is lost while the Time Base does not follow it. -/
def netGone (n : Nat) (s : State) : State :=
  ((s.updSup fun u => { u with netLost := u.netLost ||| 2 ^ n }).raiseSv 0x4A [n]).bump (baseSV + 0x724)

theorem declareLost_unfollowed {n : Nat} {s : State} (h : bit s.sup.netLost n = false) (href : s.tb.ref ≠ some n) :
    declareLost n s = netGone n s := by
  have htb : (netGone n s).tb = s.tb := raiseSv_tb (s.updSup _) 0x4A [n]
  have href' : ¬ (netGone n s).tb.ref = some n := by rw [htb]; exact href
  unfold declareLost
  dsimp only
  rw [if_neg (by simp [h])]
  exact if_neg href'

theorem exec_netLost_noLink {t : Gts} {p : Nat} {net : Leg} {s : State}
    (hport : portOfRole (s.advance t) ((if net = .red then 0 else 1) + 1) = some p) (hlink : ((s.advance t).port p).link = false)
    (hlost : bit (s.advance t).sup.netLost (if net = .red then 0 else 1) = false)
    (href : (s.advance t).tb.ref ≠ some (if net = .red then 0 else 1)) :
    exec (.netLost t net) s = .next (netGone (if net = .red then 0 else 1) (s.advance t)) := by
  show execNetLost t net s = _
  unfold execNetLost
  refine act_of_sealed ?_ ⟨raiseSv_pending .., raiseSv_gts .., raiseSv_fuses ..⟩
  dsimp only
  rw [hport]
  dsimp only
  rw [if_pos (.inr (by simp [hlink])), declareLost_unfollowed hlost href]

/-- Settles O27: the port alone changes where it carries no media network; the loss of a media port's link declares the network lost,
which no queue operation and no choice of a reference takes back. -/
theorem linksAndNetworksGoDownAndUp : Obligations.LinksAndNetworksGoDownAndUp := by
  intro t p s
  refine ⟨fun cause hlink ht hrole hq => ?_, fun cause hlink => idles_linkDown cause hlink, fun r cause hrole hr hlink hlost => ?_,
    fun hlink ht hrole hq hmode eee => ?_, fun h eee => idles_linkUp eee h, fun net hport hlink hlost href => ?_⟩
  · refine ⟨_, exec_linkDown_plain cause hlink ht hrole hq, plainDown_port ht, plainDown_counted .., ?_, plainDown_onlyPort _ _ _,
      plainDown_portFrame ..⟩
    refine (raise_fresh ..).trans ?_
    cases cause <;> rfl
  · exact does_linkDown_media cause hrole hr hlink hlost
  · exact ⟨_, exec_linkUp_plain eee hlink ht hrole hq hmode, plainUp_port ht, raise_fresh .., plainUp_onlyPort _ _ _, plainUp_portFrame ..⟩
  · refine ⟨_, exec_netLost_noLink hport hlink hlost href, raiseSv_sup .., ?_, raiseSv_fresh .., ?_⟩
    · refine (bumpBy_ctr_same _ _ _).trans ?_
      rw [ctr, raiseSv_ctrs]; rfl
    · obtain ⟨r, m, h⟩ := raise_eq ((s.advance t).updSup fun u =>
        { u with netLost := u.netLost ||| 2 ^ (if net = .red then 0 else 1) }) 15 0xF4A [if net = .red then 0 else 1] 0
      rw [netGone, raiseSv, h]
      rfl

/-! ### Before a frame starts -/

theorem sealed_gateSettle (p : Nat) (s : State) : Sealed s (gateSettle p s) := by
  unfold gateSettle
  split
  · exact sealed_refl s
  · exact ⟨rfl, rfl, rfl⟩

theorem sealed_countWait (p c : Nat) (s : State) : Sealed s (countWait p c s) := by
  unfold countWait
  dsimp only
  split
  · exact sealed_refl s
  · exact ⟨rfl, rfl, rfl⟩

theorem sealed_countWaits (p : Nat) (l : List Nat) : ∀ s, Sealed s (l.foldl (fun s c => countWait p c s) s) := by
  induction l with
  | nil => exact sealed_refl
  | cons c l ih => exact fun s => sealed_trans (sealed_countWait p c s) (ih _)

theorem sealed_prepared (p : Nat) (s : State) : Sealed s (prepared p s) :=
  sealed_trans (keepsLinks_drainPort p s).passes (sealed_trans (sealed_gateSettle p _) (sealed_countWaits p _ _))

/-- A port with no frame on the wire. -/
def wireFree (p : Nat) (s : State) : State := s.setPort p { s.port p with txCur := none }

/-! ### The class that starts (R72, R75, R77) -/

theorem gateAt_wireFree (p g : Nat) (s : State) : gateAt (wireFree p s) p g = gateAt s p g := by
  unfold gateAt
  rw [show (wireFree p s).port p = _ from setPort_port_same _ _ _]
  rfl

theorem gateSpan_wireFree (p c stop fuel : Nat) (s : State) :
    ∀ cur, gateSpan (wireFree p s) p c stop fuel cur = gateSpan s p c stop fuel cur := by
  induction fuel with
  | zero => exact fun _ => rfl
  | succ fuel ih => intro cur; simp only [gateSpan, gateAt_wireFree, ih]

theorem gateFits_wireFree (p c n : Nat) (s : State) : gateFits (wireFree p s) p c n = gateFits s p c n := gateSpan_wireFree ..

theorem headOf_wireFree (p c : Nat) (s : State) : headOf (wireFree p s) p c = headOf s p c := by
  rw [headOf, show (wireFree p s).port p = _ from setPort_port_same _ _ _]; rfl

theorem isPaused_wireFree (p c : Nat) (s : State) : isPaused (wireFree p s) p c = isPaused s p c := by
  rw [isPaused, show (wireFree p s).port p = _ from setPort_port_same _ _ _]; rfl

/-- What a class offers: its head frame, where pause and its gate admit it. -/
def admitted (s : State) (p c : Nat) : Option (Nat × TxFrame) :=
  match headOf s p c with
  | none => none
  | some f =>
    if isPaused s p c ∨ ¬ gateFits s p c (txGrains (tenG s p) (wireLen s p f.bytes + 8)) then none else some (c, f)

theorem pickClass_eq_findSome (s : State) (p : Nat) : pickClass s p = [7, 6, 5, 4, 3, 2, 1, 0].findSome? (admitted s p) := rfl

theorem admitted_wireFree (p c : Nat) (s : State) : admitted (wireFree p s) p c = admitted s p c := by
  unfold admitted
  rw [headOf_wireFree, isPaused_wireFree]
  split
  · rfl
  · next f _ =>
    have hlen : txGrains (tenG (wireFree p s) p) (wireLen (wireFree p s) p f.bytes + 8) = txGrains (tenG s p) (wireLen s p f.bytes + 8) := rfl
    rw [hlen, gateFits_wireFree]

/-- Above every class stand the higher ones. -/
theorem classes_split : ∀ c < 8, [7, 6, 5, 4, 3, 2, 1, 0] = [7, 6, 5, 4, 3, 2, 1, 0].take (7 - c) ++ c :: [7, 6, 5, 4, 3, 2, 1, 0].drop (8 - c) ∧
    ∀ k ∈ [7, 6, 5, 4, 3, 2, 1, 0].take (7 - c), k < 8 ∧ c < k := by decide

theorem pickClass_eq_some {s : State} {p c : Nat} {f : TxFrame} (hc : c < 8) (hf : admitted s p c = some (c, f))
    (habove : ∀ k, k < 8 → c < k → admitted s p k = none) : pickClass s p = some (c, f) := by
  obtain ⟨hsplit, hk⟩ := classes_split c hc
  rw [pickClass_eq_findSome]
  exact List.findSome?_eq_some_iff.mpr ⟨_, c, _, hsplit, hf, fun k hmem => habove k (hk k hmem).1 (hk k hmem).2⟩

/-- Whether a frame leaves the port secured (R80). -/
def secures (s : State) (p : Nat) (f : TxFrame) : Bool := npMacsec s p && !macsecFree s p f.bytes

theorem wireLen_eq (s : State) (p : Nat) (f : TxFrame) :
    wireLen s p f.bytes = max 60 f.bytes.length + (if secures s p f then 36 else 4) := by
  unfold wireLen secures
  cases npMacsec s p <;> cases macsecFree s p f.bytes <;> simp

theorem admitted_eq_some {s : State} {p c : Nat} {f : TxFrame} (hf : headOf s p c = some f) (hp : isPaused s p c = false)
    (hg : gateFits s p c (txGrains (tenG s p) (wireLen s p f.bytes + 8)) = true) : admitted s p c = some (c, f) := by
  simp [admitted, hf, hp, hg]

theorem admitted_eq_none {s : State} {p c : Nat} (h : ∀ f, headOf s p c = some f → isPaused s p c = true ∨
    gateFits s p c (txGrains (tenG s p) (wireLen s p f.bytes + 8)) = false) : admitted s p c = none := by
  unfold admitted
  split
  · rfl
  · next f hf =>
    obtain hp | hg := h f hf
    · simp [hp]
    · simp [hg]

/-- What TX_START does once the port is prepared. -/
def sendNext (p : Nat) (r : State) : State :=
  if r.now < (r.port p).txEnd ∨ r.now < (r.port p).txReady then r
  else
    match pickClass (wireFree p r) p with
    | none => wireFree p r
    | some (c, f) => if (r.port p).lpiTx then leaveLpi p (wireFree p r) else launch p f (popHead p c (wireFree p r))

theorem execTxStart_eq (t : Gts) (p : PortId) (s : State) : exec (.txStart t p) s = act t (fun s =>
    if ¬ (s.port p.val).link then discardAll p.val s
    else if txMute s.sup.mode ∨ npRole s p.val = 0 then s else sendNext p.val (prepared p.val s)) s := by
  show execTxStart t p s = _
  unfold execTxStart sendNext wireFree
  generalize prepared = prep
  rfl

/-- A port that may send, and whose wire is free, launches the head of the class that is picked. -/
theorem sendNext_eq {p c : Nat} {f : TxFrame} {r : State} (hend : (r.port p).txEnd ≤ r.now) (hready : (r.port p).txReady ≤ r.now)
    (hlpi : (r.port p).lpiTx = false) (hpick : pickClass (wireFree p r) p = some (c, f)) :
    sendNext p r = launch p f (popHead p c (wireFree p r)) := by
  unfold sendNext
  rw [if_neg (by omega), hpick]
  dsimp only
  rw [if_neg (by simp [hlpi])]

theorem exec_txStart {t : Gts} {p : PortId} {s b : State} (hlink : ((s.advance t).port p.val).link = true)
    (hmute : txMute (s.advance t).sup.mode = false) (hrole : npRole (s.advance t) p.val ≠ 0)
    (hb : sendNext p.val (prepared p.val (s.advance t)) = b) (hs : Sealed (prepared p.val (s.advance t)) b) :
    exec (.txStart t p) s = .next b := by
  rw [execTxStart_eq]
  refine act_of_sealed ?_ (sealed_trans (sealed_prepared p.val _) hs)
  rw [if_neg (by simp [hlink]), if_neg (by simp [hmute, hrole]), hb]

/-! ### A frame on the wire -/

/-- What a frame that starts changes of its port (R75). -/
def sendingPort (s : State) (p : Nat) (f : TxFrame) (bytes : List Byte) (len : Nat) (x : Port) : Port :=
  let stop := s.now + txGrains (tenG s p) (len + 8)
  { x with txCur := some f, txEnd := stop, txReady := stop + txGrains (tenG s p) 12, idleFrom := stop,
           wire := some { f with bytes := withFcs (bytes ++ List.replicate (len - 4 - bytes.length) 0) f.stomp } }

/-- A frame on the wire, counted. -/
def frameOnWire (p : Nat) (f : TxFrame) (bytes : List Byte) (len : Nat) (s : State) : State :=
  ((s.updPort p (sendingPort s p f bytes len)).bump (baseNP p + 0x224)).bumpBy (baseNP p + 0x228) len

/-- What is counted and logged of frames of the Direct Path and of stomped ones. -/
def noted (p : Nat) (f : TxFrame) (s : State) : State :=
  let s := if f.dp.isSome then s.bump (baseSE + 0x224) else s
  if f.stomp then
    let s := if f.dp.isSome then s.bump (baseSE + 0x228) else s
    npEvent p 5 [f.dp.getD 0xFFFF] (s.bump (baseNP p + 0x234))
  else s

theorem startFrame_eq (p : Nat) (f : TxFrame) (bytes : List Byte) (len : Nat) (s : State) :
    startFrame p f bytes len s = noted p f (frameOnWire p f bytes len s) := rfl

/-- What is noted of a frame changes no port, and none of the port's counters of frames and bytes. -/
structure Notes (p : Nat) (a b : State) : Prop where
  frame : PortFrame a b
  ports : b.ports = a.ports
  frames : b.ctr (baseNP p + 0x224) = a.ctr (baseNP p + 0x224)
  bytes : b.ctr (baseNP p + 0x228) = a.ctr (baseNP p + 0x228)

theorem notes_refl (p : Nat) (a : State) : Notes p a a := ⟨rfl, rfl, rfl, rfl⟩

theorem Notes.after {p : Nat} {a b c : State} (k : Notes p b c) (h : Notes p a b) : Notes p a c :=
  ⟨portFrame_trans h.frame k.frame, k.ports.trans h.ports, k.frames.trans h.frames, k.bytes.trans h.bytes⟩

theorem notes_bump {p o : Nat} (s : State) (h : o ≠ baseNP p + 0x224 ∧ o ≠ baseNP p + 0x228) : Notes p s (s.bump o) :=
  ⟨rfl, rfl, bumpBy_ctr_ne s 1 (Ne.symm h.1), bumpBy_ctr_ne s 1 (Ne.symm h.2)⟩

theorem notes_noted {p : Nat} (hp : p < 4) (f : TxFrame) (s : State) : Notes p s (noted p f s) := by
  have hdp : ∀ (c : Bool) (o : Nat) (b : State), baseSE ≤ o → Notes p b (if c = true then b.bump o else b) := by
    intro c o b ho
    split
    · exact notes_bump b (by unfold baseSE at ho; unfold baseNP; omega)
    · exact notes_refl p b
  unfold noted
  dsimp only
  split
  · refine Notes.after ⟨portFrame_raise _ _ _ _ _, raise_ports .., raise_ctr .., raise_ctr ..⟩ ((notes_bump _ (by omega)).after ?_)
    exact (hdp _ _ _ (Nat.le_add_right _ _)).after (hdp _ _ s (Nat.le_add_right _ _))
  · exact hdp _ _ s (Nat.le_add_right _ _)

/-- From `r` to `b` a frame of class `c` started: `bytes` padded to `len` with its FCS, for its wire time, and counted. -/
def Sends (r : State) (p c : Nat) (f : TxFrame) (len : Nat) (bytes : List Byte) (b : State) : Prop :=
  let stop := r.now + txGrains (tenG r p) (len + 8)
  (b.port p).txCur = some f ∧ (b.port p).txEnd = stop ∧ (b.port p).txReady = stop + txGrains (tenG r p) 12 ∧
  (b.port p).wire = some { f with bytes := withFcs (bytes ++ List.replicate (len - 4 - bytes.length) 0) f.stomp } ∧
  tget [] (b.port p).txq c = (tget [] (r.port p).txq c).tail ∧
  (∀ c', c' ≠ c → tget [] (b.port p).txq c' = tget [] (r.port p).txq c') ∧
  Counted r b (baseNP p + 0x224) 1 ∧ Counted r b (baseNP p + 0x228) len ∧ OnlyPort p r b

/-- The state in which a frame of class `c` has left its queue. -/
def taken (p c : Nat) (s : State) : State := popHead p c (wireFree p s)

theorem taken_port (p c : Nat) (s : State) :
    (taken p c s).port p = { s.port p with txCur := none, txq := tupd [] (s.port p).txq c List.tail } := by
  rw [taken, popHead, updPort_port_same, show (wireFree p s).port p = _ from setPort_port_same _ _ _]

theorem taken_onlyPort (p c : Nat) (s : State) : OnlyPort p s (taken p c s) := fun j hj =>
  (onlyPort_setPort p _ (wireFree p s) j hj).trans (onlyPort_setPort p _ s j hj)

theorem taken_portFrame (p c : Nat) (s : State) : PortFrame s (taken p c s) := rfl

/-- A frame starts from a state `q` whose ports are those of `taken`, at the time and the rate of `r`. -/
theorem startFrame_sends {r q : State} {p c : Nat} {f : TxFrame} {len : Nat} {bytes : List Byte} (hp : p < 4)
    (hports : q.ports = (taken p c r).ports) (hnow : q.now = r.now) (hten : tenG q p = tenG r p)
    (hframes : q.ctr (baseNP p + 0x224) = r.ctr (baseNP p + 0x224)) (hbytes : q.ctr (baseNP p + 0x228) = r.ctr (baseNP p + 0x228)) :
    Sends r p c f len bytes (startFrame p f bytes len q) := by
  rw [startFrame_eq]
  have hn := notes_noted hp f (frameOnWire p f bytes len q)
  generalize noted p f (frameOnWire p f bytes len q) = b at hn
  have hport : b.port p = sendingPort q p f bytes len ((taken p c r).port p) := by
    rw [port, hn.ports]
    refine (updPort_port_same q p _).trans ?_
    rw [port, hports]; rfl
  have hother : OnlyPort p r b := fun j hj => by
    rw [port, hn.ports]
    refine (onlyPort_setPort p _ q j hj).trans ?_
    rw [port, hports]
    exact taken_onlyPort p c r j hj
  rw [taken_port] at hport
  simp only [Sends, hport, sendingPort, hnow, hten, true_and]
  refine ⟨?_, fun c' hc' => ?_, ?_, ?_, hother⟩
  · exact tget_tset_same _ _ _ _
  · exact tget_tset_ne _ _ _ hc'
  · rw [Counted, hn.frames, ← hframes]
    exact (bumpBy_ctr_ne _ _ (by omega)).trans (bumpBy_ctr_same _ _ _)
  · rw [Counted, hn.bytes, ← hbytes]
    refine (bumpBy_ctr_same _ _ _).trans ?_
    rw [show ((q.updPort p (sendingPort q p f bytes len)).bump (baseNP p + 0x224)).ctr (baseNP p + 0x228) = _ from
      bumpBy_ctr_ne _ 1 (by omega)]
    rfl

/-! ### A frame that is secured (R80, R305) -/

/-- What protecting a frame leaves alone: the ports, what is sealed, every register but event registers, the counters of the ports. -/
structure SealFrame (a b : State) : Prop where
  passes : Sealed a b
  ports : b.ports = a.ports
  reg : ∀ o, o % 0x4000 ≠ 0x104 → b.reg o = a.reg o
  ctr : ∀ o, o < baseCE → b.ctr o = a.ctr o

theorem sealFrame_refl (a : State) : SealFrame a a := ⟨sealed_refl a, rfl, fun _ _ => rfl, fun _ _ => rfl⟩

theorem SealFrame.after {a b c : State} (k : SealFrame b c) (h : SealFrame a b) : SealFrame a c :=
  ⟨sealed_trans h.passes k.passes, k.ports.trans h.ports, fun o ho => (k.reg o ho).trans (h.reg o ho),
    fun o ho => (k.ctr o ho).trans (h.ctr o ho)⟩

theorem sealFrame_raise (src code : Nat) (d : List Nat) (svc : Nat) (s : State) : SealFrame s (s.raise src code d svc) :=
  ⟨⟨raise_pending .., raise_gts .., raise_fuses ..⟩, raise_ports .., fun _ ho => raise_reg_ne s _ _ _ _ ho, fun _ _ => raise_ctr ..⟩

theorem sealFrame_bump {o : Nat} (s : State) (h : baseCE ≤ o) : SealFrame s (s.bump o) :=
  ⟨⟨rfl, rfl, rfl⟩, rfl, fun _ _ => rfl, fun _ ho => bumpBy_ctr_ne s 1 (by omega)⟩

theorem sealFrame_updCe (f : CipherE → CipherE) (s : State) : SealFrame s (s.updCe f) :=
  ⟨⟨rfl, rfl, rfl⟩, rfl, fun _ _ => rfl, fun _ _ => rfl⟩

theorem sealFrame_setSa (i : Nat) (x : Sa) (s : State) : SealFrame s (s.setSa i x) :=
  ⟨⟨rfl, rfl, rfl⟩, rfl, fun _ _ => rfl, fun _ _ => rfl⟩

theorem sealFrame_useSa (i : Nat) (s : State) : SealFrame s (useSa i s) := by
  have hraise : ∀ (c : Prop) [Decidable c] (code : Nat) (d : List Nat) (b : State), SealFrame b (if c then b.raise 7 code d else b) := by
    intro c _ code d b
    split
    · exact sealFrame_raise _ _ _ _ b
    · exact sealFrame_refl b
  unfold useSa
  exact (hraise _ _ _ _).after ((hraise _ _ _ _).after (sealFrame_setSa _ _ s))

theorem macsecSeal_frame {p : Nat} {bytes out : List Byte} {s z : State} (h : macsecSeal p bytes s = some (out, z)) : SealFrame s z := by
  unfold macsecSeal at h
  split at h
  · exact absurd h nofun
  · next an change _ =>
    simp only [Option.some.injEq, Prod.mk.injEq] at h
    obtain ⟨-, rfl⟩ := h
    refine (sealFrame_setSa _ _ _).after ((sealFrame_bump _ (Nat.le_add_right _ _)).after ((sealFrame_useSa _ _).after ?_))
    split
    · exact (sealFrame_bump _ (Nat.le_add_right _ _)).after ((sealFrame_raise _ _ _ _ _).after (sealFrame_updCe _ s))
    · exact sealFrame_refl s

/-! ### Launching -/

theorem launch_plain {p c : Nat} {f : TxFrame} {r : State} (h : secures r p f = false) :
    launch p f (taken p c r) = startFrame p f (oneStep r p f.bytes) (wireLen r p f.bytes) (taken p c r) := by
  have hplain : ¬ (npMacsec (taken p c r) p = true ∧ ¬ macsecFree (taken p c r) p f.bytes = true) := by
    rw [show npMacsec (taken p c r) p = npMacsec r p from rfl, show macsecFree (taken p c r) p f.bytes = macsecFree r p f.bytes from rfl]
    simpa [secures] using h
  unfold launch
  dsimp only
  rw [if_neg hplain]
  rfl

theorem launch_secured {p c : Nat} {f : TxFrame} {r : State} (h : secures r p f = true) :
    launch p f (taken p c r) = match macsecSeal p f.bytes (taken p c r) with
      | some (b, s) => startFrame p f b (wireLen r p f.bytes) s
      | none => (taken p c r).bump (baseCE + 0x220) := by
  have hsec : npMacsec (taken p c r) p = true ∧ ¬ macsecFree (taken p c r) p f.bytes = true := by
    rw [show npMacsec (taken p c r) p = npMacsec r p from rfl, show macsecFree (taken p c r) p f.bytes = macsecFree r p f.bytes from rfl]
    simpa [secures] using h
  unfold launch
  dsimp only
  rw [if_pos hsec]
  rfl

theorem startFrame_portFrame {p : Nat} (hp : p < 4) (f : TxFrame) (bytes : List Byte) (len : Nat) (s : State) :
    PortFrame s (startFrame p f bytes len s) :=
  portFrame_trans (show PortFrame s (frameOnWire p f bytes len s) from rfl) (notes_noted hp f _).frame

/-- A frame that stays in the clear starts with the one-step correction of R81. -/
theorem launch_plain_sends {p c : Nat} {f : TxFrame} {r : State} (hp : p < 4) (h : secures r p f = false) :
    Sends r p c f (wireLen r p f.bytes) (oneStep r p f.bytes) (launch p f (taken p c r)) ∧ PortFrame r (launch p f (taken p c r)) := by
  rw [launch_plain h]
  exact ⟨startFrame_sends hp rfl rfl rfl rfl rfl, portFrame_trans (taken_portFrame p c r) (startFrame_portFrame hp ..)⟩

/-- Only a PTP message is corrected. -/
theorem oneStep_of_notPtp {s : State} {p : Nat} {b : List Byte} (h : ptpAt b = none) : oneStep s p b = b := by
  unfold oneStep
  dsimp only
  rw [h]

/-- A secured frame starts as it was sealed. -/
theorem launch_sealed_sends {p c : Nat} {f : TxFrame} {r z : State} {bytes : List Byte} (hp : p < 4) (h : secures r p f = true)
    (hseal : macsecSeal p f.bytes (taken p c r) = some (bytes, z)) :
    Sends r p c f (wireLen r p f.bytes) bytes (launch p f (taken p c r)) ∧ Sealed r (launch p f (taken p c r)) := by
  have hz := macsecSeal_frame hseal
  have hnow : z.now = r.now := congrArg BitVec.toNat hz.passes.2.1
  have hten : tenG z p = tenG r p := by rw [tenG, hz.reg _ (by unfold baseNP; omega)]; rfl
  rw [launch_secured h, hseal]
  refine ⟨startFrame_sends hp hz.ports hnow hten (hz.ctr _ ?_) (hz.ctr _ ?_), ?_⟩
  · unfold baseNP baseCE; omega
  · unfold baseNP baseCE; omega
  · exact sealed_trans (sealed_trans (portFrame_sealed (taken_portFrame p c r)) hz.passes) (portFrame_sealed (startFrame_portFrame hp ..))

/-- Without a usable association the frame is discarded and counted (R305). -/
theorem launch_without_association {p c : Nat} {f : TxFrame} {r : State} (h : secures r p f = true)
    (hnone : macsecSeal p f.bytes (taken p c r) = none) :
    Sealed r (launch p f (taken p c r)) ∧ Counted r (launch p f (taken p c r)) (baseCE + 0x220) 1 ∧
      ((launch p f (taken p c r)).port p).wire = (r.port p).wire ∧ OnlyPort p r (launch p f (taken p c r)) := by
  rw [launch_secured h, hnone]
  refine ⟨⟨rfl, rfl, rfl⟩, bumpBy_ctr_same _ _ _, ?_, taken_onlyPort p c r⟩
  rw [show ((taken p c r).bump (baseCE + 0x220)).port p = _ from taken_port p c r]

/-- Settles O28: the class that is picked is the highest admitted, the frame leaves it, and starts as it is or as it was sealed. -/
theorem transmissionStartsTheHighestAdmittedClass : Obligations.TransmissionStartsTheHighestAdmittedClass := by
  intro t p s a r base secured length hlink hmute hrole hend hready hlpi c f hc hhead len stop sends hpaused hgate habove
  have hlen : ∀ g, wireLen r p.val g.bytes = length g := fun g => wireLen_eq r p.val g
  have hpick : pickClass (wireFree p.val r) p.val = some (c, f) := by
    refine pickClass_eq_some hc ?_ fun k hk hck => ?_
    · rw [admitted_wireFree]
      exact admitted_eq_some hhead hpaused (by rw [hlen]; exact hgate)
    · rw [admitted_wireFree]
      exact admitted_eq_none fun g hg => by rw [hlen]; exact habove k hk hck g hg
  have hnext := sendNext_eq hend hready hlpi hpick
  have hexec : ∀ b, launch p.val f (taken p.val c r) = b → Sealed r b → exec (.txStart t p) s = .next b := fun b hb =>
    exec_txStart hlink hmute hrole (hnext.trans hb)
  refine ⟨fun hplain => ?_, fun hsec => ⟨fun bytes z hseal => ?_, fun hnone => ?_⟩⟩
  · obtain ⟨hsends, hframe⟩ := launch_plain_sends (c := c) p.isLt hplain
    rw [hlen] at hsends
    refine ⟨_, hexec _ rfl (portFrame_sealed hframe), hsends, fun hptp => ?_, hframe⟩
    rw [oneStep_of_notPtp hptp] at hsends
    exact hsends
  · obtain ⟨hsends, hsealed⟩ := launch_sealed_sends (c := c) p.isLt hsec hseal
    rw [hlen] at hsends
    exact ⟨_, hexec _ rfl hsealed, hsends⟩
  · obtain ⟨hsealed, hdropped⟩ := launch_without_association (c := c) hsec hnone
    exact ⟨_, hexec _ rfl hsealed, hdropped⟩

/-! ### The log and the measurements of a tick (R87, R371, R383) -/

theorem tickLog_empty {s : State} (h : s.log.fresh = []) : tickLog s = s := by
  unfold tickLog
  simp only [h, List.filter_nil, List.foldl_nil]
  rw [← h]

/-- After one more entry the unread count rises by one, or reads zero where `rd` lies beyond the log. -/
theorem logUnread_next (l : EventLog) (h : logUnread l < 1023) :
    ((l.wr + 1) % 1024 + 1024 - l.rd) % 1024 = logUnread l + 1 ∨ ((l.wr + 1) % 1024 + 1024 - l.rd) % 1024 = 0 := by
  unfold logUnread at *
  omega

/-- The log with one more entry. -/
def logged (l : EventLog) (e : Ev) : EventLog :=
  { l with entries := tset {} l.entries l.wr { ev := e, seq := l.seq }, wr := (l.wr + 1) % 1024, seq := (l.seq + 1) % 2 ^ 32 }

/-- An entry that neither fills the log nor reaches the watermark changes the log alone. -/
theorem logWrite_eq {s : State} (e : Ev) (hroom : logUnread s.log < 1023) (hwm : logUnread s.log + 1 ≠ logWm s) :
    logWrite s e = { s with log := logged s.log e } := by
  have hfull : (logUnread s.log == 1023) = false := by simpa using Nat.ne_of_lt hroom
  have hpos : 0 < logWm s := Nat.lt_of_lt_of_le Nat.zero_lt_one (Nat.le_max_left _ _)
  have hmark : ¬ logUnread (logged s.log e) = logWm { s with log := logged s.log e } := by
    show ¬ ((s.log.wr + 1) % 1024 + 1024 - s.log.rd) % 1024 = logWm s
    obtain hn | hn := logUnread_next s.log hroom <;> omega
  unfold logWrite
  simp only [hfull, Bool.false_eq_true, if_false]
  exact if_neg hmark

/-- The one event that waits is of an Ell that has ended. -/
theorem tickLog_one {s : State} {e : Ev} (h : s.log.fresh = [e]) (hold : e.gts < s.startOf s.ell) (hroom : logUnread s.log < 1023)
    (hwm : logUnread s.log + 1 ≠ logWm s) : tickLog s = { s with log := logged { s.log with fresh := [] } e } := by
  unfold tickLog
  simp only [h, List.filter_cons, List.filter_nil, decide_eq_true hold, decide_eq_false (Nat.not_le_of_lt hold), if_true,
    Bool.false_eq_true, if_false, List.foldl_cons, List.foldl_nil, evInsert]
  exact logWrite_eq (s := { s with log := { s.log with fresh := [] } }) e hroom hwm

theorem tickFec_eq (rep : EllReport) (s : State) : tickFec rep s = { s with ctrs := (tickFec rep s).ctrs } := by
  unfold tickFec
  generalize rep.fec = l
  induction l generalizing s with
  | nil => rfl
  | cons e l ih => rw [List.foldl_cons, ih]; rfl

/-- What is counted does not depend on anything but the counters. -/
theorem tickFec_ctrs (rep : EllReport) {b c : State} (h : b.ctrs = c.ctrs) : (tickFec rep b).ctrs = (tickFec rep c).ctrs := by
  unfold tickFec
  generalize rep.fec = l
  induction l generalizing b c with
  | nil => exact h
  | cons e l ih => exact ih (by simp only [bumpBy, h])

/-- The junction temperature and its sensor after a report (R371). -/
def tjAfter (rep : EllReport) (u : Sup) : Int × Nat :=
  match rep.temps with
  | [] => (u.tj, u.tjSensor)
  | t :: _ => (rep.temps.foldl max t, rep.temps.findIdx (· == rep.temps.foldl max t))

/-- A measurement changes readings alone. -/
theorem tickMeasure_eq (rep : EllReport) (s : State) : ∃ pace noPace rd src paceOf, tickMeasure rep s =
    { s with
      ha := { s.ha with pace := pace, noPace := noPace }
      sup := { s.sup with rd := rd, rdSrc := src, paceOf := paceOf, tj := (tjAfter rep s.sup).1, tjSensor := (tjAfter rep s.sup).2 } } := by
  unfold tickMeasure tjAfter
  dsimp only
  cases rep.temps with
  | nil =>
    dsimp only
    split
    · exact ⟨_, _, s.sup.rd, s.sup.rdSrc, s.sup.paceOf, rfl⟩
    · exact ⟨_, _, _, _, _, rfl⟩
  | cons t l =>
    dsimp only
    split
    · exact ⟨_, _, s.sup.rd, s.sup.rdSrc, s.sup.paceOf, rfl⟩
    · exact ⟨_, _, _, _, _, rfl⟩

/-! ### A tick with nothing else to do -/

/-- A tick that is due, in a mode in which blocks run, with no structure, load, realignment or task, and no firmware. -/
structure QuietTick (a : State) : Prop where
  due : a.sup.tickEll ≠ a.ell + 1
  runs : stopped a.sup.mode = false
  ha : a.ha = { pace := a.ha.pace, noPace := a.ha.noPace }
  cfg : a.cfg = {}
  load : a.load = {}
  realign : a.tb.realign = none
  req : a.tb.realignReq = false
  fw : a.sup.fwOk = false

theorem settleStage_idle {s : State} (h : s.ha = { pace := s.ha.pace, noPace := s.ha.noPace }) : settleStage s = s := by
  have hcores : s.ha.cores = [] := by rw [h]
  have hinsts : s.ha.insts = [] := by rw [h]
  unfold settleStage
  simp only [hcores, List.foldl_nil, hinsts]

theorem applyDelta_idle {s : State} (h : s.load = {}) : applyDelta s = s := by
  unfold applyDelta
  exact if_pos (by simp [deltaDue, h])

theorem commitDelta_idle {s : State} (h : s.load = {}) : commitDelta s = s := by
  unfold commitDelta
  exact if_pos (.inl (by simp [h]))

theorem tickRealign_idle {s : State} (n : Nat) (h : s.tb.realign = none) (hr : s.tb.realignReq = false) : tickRealign n s = s := by
  unfold tickRealign realignDue decideRealign
  simp only [h, hr]
  rfl

/-- Without a structure nothing runs in Ells in which the audio pipeline is off. -/
theorem tickPipeline_idle {s : State} (n : Nat) (rep : EllReport) (h : s.audioOn = false) (hc : s.cfg = {}) :
    tickPipeline n rep s = s := by
  have hgpio : gpioTick n rep.gpio.toNat s = s := by
    unfold gpioTick
    rw [show s.recNow tyLOCAL 0x30 = none by rw [recNow, hc]; rfl]
  have hlocal : localTick n rep.gpio.toNat s = s := by
    unfold localTick
    rw [hgpio]
    exact if_pos (.inl (by simp [h]))
  unfold tickPipeline
  rw [hlocal]
  exact if_pos (by simp [h])

/-- The Ell of a tick is noted. -/
def ticked (n : Nat) (s : State) : State := s.updSup fun u => { u with tickEll := n + 1 }

/-- What stands before the choices of a quiet tick: the log as written, and the report taken in. -/
def reported (rep : EllReport) (l : EventLog) (a : State) : State := tickMeasure rep (tickFec rep { ticked a.ell a with log := l })

/-- What a report leaves alone. -/
theorem reported_eq (rep : EllReport) (l : EventLog) (a : State) : ∃ pace noPace rd src paceOf, reported rep l a =
    { a with
      log := l, ctrs := (tickFec rep a).ctrs, ha := { a.ha with pace := pace, noPace := noPace }
      sup := { a.sup with tickEll := a.ell + 1, rd := rd, rdSrc := src, paceOf := paceOf, tj := (tjAfter rep a.sup).1
                          tjSensor := (tjAfter rep a.sup).2 } } := by
  obtain ⟨pace, noPace, rd, src, paceOf, h⟩ := tickMeasure_eq rep (tickFec rep { ticked a.ell a with log := l })
  refine ⟨pace, noPace, rd, src, paceOf, ?_⟩
  have hctr : (tickFec rep { ticked a.ell a with log := l }).ctrs = (tickFec rep a).ctrs := tickFec_ctrs rep rfl
  rw [reported, h, tickFec_eq, hctr]
  rfl

/-- What a quiet tick comes to. -/
theorem ellTick_quiet {a : State} (h : QuietTick a) (rep : EllReport) {l : EventLog}
    (hlog : tickLog (ticked a.ell a) = { ticked a.ell a with log := l }) :
    ellTick rep a =
      if (tTrip a : Int) ≤ (tjAfter rep a.sup).1 then tripNow (reported rep l a)
      else tickPipeline a.ell rep (ticked a.ell (tickMode a.ell (reported rep l a))) := by
  obtain ⟨hdue, hruns, hha, hcfg, hload, hrealign, hreq, hfw⟩ := h
  have hnot : ¬ (a.sup.tickEll = a.ell + 1 ∨ stopped a.sup.mode = true) := by simp [hdue, hruns]
  have hticked : applyDelta (a.updSup fun u => { u with tickEll := a.ell + 1 }) = ticked a.ell a := applyDelta_idle hload
  obtain ⟨pace, noPace, rd, src, paceOf, hrep⟩ := reported_eq rep l a
  have htrip : tTrip (reported rep l a) = tTrip a := by rw [hrep]; rfl
  have htj : (reported rep l a).sup.tj = (tjAfter rep a.sup).1 := by rw [hrep]
  have hfw' : (reported rep l a).sup.fwOk = false := by rw [hrep]; exact hfw
  have hload' : (reported rep l a).load = {} := by rw [hrep]; exact hload
  unfold ellTick
  rw [if_neg hnot]
  dsimp only
  rw [settleStage_idle hha, applyDelta_idle hload, tickRealign_idle _ hrealign hreq, hticked, hlog]
  change (if (tTrip (reported rep l a) : Int) ≤ (reported rep l a).sup.tj then tripNow (reported rep l a) else
    tickPipeline a.ell rep (ticked a.ell (tickMode a.ell (commitDelta
      (if (reported rep l a).sup.fwOk = true then tickPolicy a.ell rep (reported rep l a) else reported rep l a))))) = _
  rw [htrip, htj, hfw', if_neg Bool.false_ne_true, commitDelta_idle hload']

/-! ### The mode changes of a tick (R379, R388, R396) -/

/-- Nothing changed but ports, the Trust Block and what events leave, and every event that waits still does. -/
def ModeFrame (a b : State) : Prop :=
  b = { a with ports := b.ports, trust := b.trust, log := b.log, regs := b.regs, msix := b.msix } ∧
    ∀ e ∈ a.log.fresh, e ∈ b.log.fresh

theorem modeFrame_refl (a : State) : ModeFrame a a := ⟨rfl, fun _ h => h⟩

theorem ModeFrame.after {a b c : State} (k : ModeFrame b c) (h : ModeFrame a b) : ModeFrame a c := by
  obtain ⟨k, kf⟩ := k
  obtain ⟨h, hf⟩ := h
  exact ⟨by rw [k, h], fun e he => kf e (hf e he)⟩

theorem modeFrame_raise (src code : Nat) (d : List Nat) (svc : Nat) (s : State) : ModeFrame s (s.raise src code d svc) := by
  obtain ⟨r, m, h⟩ := raise_eq s src code d svc
  rw [h]
  exact ⟨rfl, fun _ he => List.mem_append_left _ he⟩

theorem modeFrame_leaveLpi (p : Nat) (s : State) : ModeFrame s (leaveLpi p s) := by
  obtain ⟨x, h⟩ := leaveLpi_eq p s
  rw [h]
  exact ⟨rfl, fun _ he => he⟩

theorem modeFrame_leaveLpis (l : List Nat) : ∀ s, ModeFrame s (l.foldl (fun s p => leaveLpi p s) s) := by
  induction l with
  | nil => exact modeFrame_refl
  | cons p l ih => exact fun s => (ih _).after (modeFrame_leaveLpi p s)

theorem modeFrame_closeDebug (cause : Nat) (s : State) : ModeFrame s (closeDebug cause s) := by
  unfold closeDebug
  split
  · exact modeFrame_refl s
  · exact (modeFrame_raise _ _ _ _ _).after ⟨rfl, fun _ he => he⟩

/-- What a mode change notes in the Supervisor (R388, R400). -/
def modeSet (goTo : Mode) (u : Sup) : Sup :=
  { u with mode := goTo, prev := u.mode, debugFrom := if goTo = .debug then u.mode else u.debugFrom }

/-- A change of mode: what the Supervisor notes, its event, and what leaves with the old mode. -/
theorem setMode_frame {goTo : Mode} (cause : Nat) {s : State} (h : s.sup.mode ≠ goTo) :
    ModeFrame (s.updSup (modeSet goTo)) (setMode goTo cause s) ∧
      { gts := s.now, source := 15, code := 0xF80, d := [s.sup.mode.code, goTo.code, cause] } ∈ (setMode goTo cause s).log.fresh := by
  have hraise : ModeFrame (s.updSup (modeSet goTo)) ((s.updSup (modeSet goTo)).raiseSv 0x80 [s.sup.mode.code, goTo.code, cause]) :=
    modeFrame_raise ..
  have hrest : ModeFrame ((s.updSup (modeSet goTo)).raiseSv 0x80 [s.sup.mode.code, goTo.code, cause]) (setMode goTo cause s) := by
    unfold setMode
    rw [if_neg h]
    have hlpi : ∀ b : State, ModeFrame b (if lpiMode goTo = true then b else [0, 1, 2, 3].foldl (fun s p => leaveLpi p s) b) := by
      intro b
      split
      · exact modeFrame_refl b
      · exact modeFrame_leaveLpis _ b
    have hdebug : ∀ b : State,
        ModeFrame b (if b.trust.level ≠ 0 ∧ ¬ levelAllowed goTo b.trust.level then closeDebug 4 b else b) := by
      intro b
      split
      · exact modeFrame_closeDebug 4 b
      · exact modeFrame_refl b
    exact (hdebug _).after (hlpi _)
  refine ⟨hrest.after hraise, hrest.2 _ ?_⟩
  rw [raiseSv_fresh]
  exact List.mem_append_right _ (List.mem_singleton.mpr rfl)

/-- A thermal trip turns the device off; its event stands in the always-on domain (R379, R396). -/
theorem tripNow_off {s : State} (h : s.sup.mode ≠ .off) :
    let z := tripNow s
    Sealed s z ∧ z.sup.mode = .off ∧ z.sup.tripped = true ∧ z.pwrEn = false ∧ z.ce = {} ∧
      { gts := s.now, source := 15, code := 0xF68, d := [s.sup.tjSensor, wrap 8 s.sup.tj] } ∈ z.log.fresh := by
  obtain ⟨⟨hframe, -⟩, -⟩ := setMode_frame 20 (s := ceZeroize s) (goTo := .off) h
  have htrip : ∃ b : State, thermalTrip s = b ∧ Sealed s b ∧ b.sup.mode = .off ∧ b.sup.tripped = true ∧ b.pwrEn = false ∧ b.ce = {} := by
    refine ⟨_, rfl, ?_⟩
    unfold thermalTrip
    rw [hframe]
    exact ⟨⟨rfl, rfl, rfl⟩, rfl, rfl, rfl, rfl⟩
  obtain ⟨b, hb, hsealed, hmode, htripped, hpwr, hce⟩ := htrip
  intro z
  have hz : z = b.raiseSv 0x68 [s.sup.tjSensor, wrap 8 s.sup.tj] := by rw [← hb]; rfl
  have hnow : b.now = s.now := congrArg BitVec.toNat hsealed.2.1
  rw [hz, raiseSv_sup, raiseSv_pwrEn, raiseSv_ce, raiseSv_fresh, hnow]
  exact ⟨sealed_trans hsealed ⟨raiseSv_pending .., raiseSv_gts .., raiseSv_fuses ..⟩, hmode, htripped, hpwr, hce,
    List.mem_append_right _ (List.mem_singleton.mpr rfl)⟩

/-! ### The choice of the mode -/

theorem modes_of_audioOff {s : State} (h : s.audioOn = false) : s.sup.mode ≠ .calibrate ∧ s.sup.mode ≠ .service ∧ s.sup.mode ≠ .sheltered := by
  unfold audioOn runMode at h
  refine ⟨fun hm => ?_, fun hm => ?_, fun hm => ?_⟩ <;> simp [hm] at h

/-- Outside the pipeline's modes a boundary weighs the requests alone. -/
theorem tickMode_audioOff {s : State} (n : Nat) (h : s.audioOn = false) :
    tickMode n s =
      let b := s.updSup fun u => { u with reqs := [] }
      (firstReq (s.sup.reqs.filter (reqValid b))).elim b fun q =>
        actReq n q (if (s.sup.reqs.erase q).any (fun x => x.host) = true ∧ q.rank ≠ 60 then modeResult 3 b else b) := by
  obtain ⟨hcal, hsvc, hshelt⟩ := modes_of_audioOff h
  have hshelter : shelterReq (s.updSup fun u => { u with reqs := [] }) = [] := by
    unfold shelterReq
    simp [hsvc, hshelt]
  unfold tickMode
  simp only [hcal, false_and, if_false, hshelter, List.append_nil]
  cases firstReq _ <;> rfl

/-- Without a request the mode stays. -/
theorem tickMode_noReq {s : State} (n : Nat) (h : s.audioOn = false) (hr : s.sup.reqs = []) : tickMode n s = s := by
  rw [tickMode_audioOff n h]
  simp only [hr, List.filter_nil, firstReq, Option.elim_none]
  rw [updSup, ← hr]

/-- One request that the mode allows acts. -/
theorem tickMode_oneReq {s : State} {q : ModeReq} (n : Nat) (h : s.audioOn = false) (hr : s.sup.reqs = [q]) (hq : reqValid s q = true) :
    tickMode n s = actReq n q (s.updSup fun u => { u with reqs := [] }) := by
  have hvalid : reqValid (s.updSup fun u => { u with reqs := [] }) q = true := hq
  rw [tickMode_audioOff n h]
  simp [hr, hvalid, firstReq]


/-! ### ELL_TICK -/

theorem exec_ellTick {t : Gts} {rep : EllReport} {s : State} (h : Sealed (s.advance t) (ellTick rep (s.advance t))) :
    exec (.ellTick t rep) s = .next (ellTick rep (s.advance t)) := by
  show execEllTick t rep s = _
  unfold execEllTick
  exact act_of_sealed rfl h

/-- A tick that has run, or comes where no block runs, does nothing. -/
theorem idles_ellTick {t : Gts} {rep : EllReport} {s : State}
    (h : (s.advance t).sup.tickEll = (s.advance t).ell + 1 ∨ stopped (s.advance t).sup.mode = true) : Idles (.ellTick t rep) t s := by
  have htick : ellTick rep (s.advance t) = s.advance t := if_pos h
  have hexec := exec_ellTick (t := t) (s := s) (by rw [htick]; exact sealed_refl _)
  rwa [htick] at hexec

theorem mode_ne_off_of_runs {m : Mode} (h : stopped m = false) : m ≠ .off := by
  rintro rfl
  exact absurd h (by decide)

section
variable {a : State} {rep : EllReport} {q : ModeReq} (h : QuietTick a)
include h

/-- A quiet tick whose mode change leaves the pipeline off. -/
theorem ellTick_stays {b : State} {l : EventLog} (hlog : tickLog (ticked a.ell a) = { ticked a.ell a with log := l })
    (htemps : rep.temps = []) (hcool : a.sup.tj < tTrip a) (hmode : tickMode a.ell (reported rep l a) = b)
    (haudio : b.audioOn = false) (hcfg : b.cfg = {}) : ellTick rep a = ticked a.ell b := by
  have htj : (tjAfter rep a.sup).1 = a.sup.tj := by rw [tjAfter, htemps]
  rw [ellTick_quiet h rep hlog, htj, if_neg (Int.not_le.mpr hcool), hmode]
  exact tickPipeline_idle a.ell rep haudio hcfg

/-- A junction that has reached `t_trip` turns the device off (R379). -/
theorem ellTick_trips {x : Int} {l : List Int} (htemps : rep.temps = x :: l) (hfresh : a.log.fresh = [])
    (hhot : (tTrip a : Int) ≤ (x :: l).foldl max x) :
    let z := ellTick rep a
    Sealed a z ∧ z.sup.mode = .off ∧ z.sup.tripped = true ∧ z.pwrEn = false ∧ z.ce = {} ∧
      { gts := a.now, source := 15, code := 0xF68,
        d := [(x :: l).findIdx (· == (x :: l).foldl max x), wrap 8 ((x :: l).foldl max x)] } ∈ z.log.fresh := by
  have htj : tjAfter rep a.sup = ((x :: l).foldl max x, (x :: l).findIdx (· == (x :: l).foldl max x)) := by
    rw [tjAfter, htemps]
  have htick : ellTick rep a = tripNow (reported rep a.log a) := by
    rw [ellTick_quiet h rep (tickLog_empty hfresh), htj]
    exact if_pos hhot
  obtain ⟨pace, noPace, rd, src, paceOf, hrep⟩ := reported_eq rep a.log a
  have hmode : (reported rep a.log a).sup.mode ≠ .off := by
    rw [hrep]
    exact mode_ne_off_of_runs h.runs
  have hsealed : Sealed a (reported rep a.log a) := by
    rw [hrep]
    exact ⟨rfl, rfl, rfl⟩
  have hsensor : (reported rep a.log a).sup.tjSensor = (tjAfter rep a.sup).2 := by rw [hrep]
  have hjunction : (reported rep a.log a).sup.tj = (tjAfter rep a.sup).1 := by rw [hrep]
  have hnow : (reported rep a.log a).now = a.now := congrArg BitVec.toNat hsealed.2.1
  obtain ⟨hpass, hoff⟩ := tripNow_off hmode
  rw [hsensor, hjunction, hnow, htj] at hoff
  rw [htick]
  exact ⟨sealed_trans hsealed hpass, hoff⟩

/-- A quiet tick writes the one event of an Ell that has ended, and counts what RS-FEC corrected (R87, R383). -/
theorem ellTick_logs (htemps : rep.temps = []) (hcool : a.sup.tj < tTrip a) (haudio : a.audioOn = false) {e : Ev}
    (hfresh : a.log.fresh = [e]) (hold : e.gts < a.startOf a.ell) (hroom : logUnread a.log < 1023)
    (hwm : logUnread a.log + 1 ≠ logWm a) (hreqs : a.sup.reqs = []) :
    let z := ellTick rep a
    Sealed a z ∧ z.log = logged { a.log with fresh := [] } e ∧ z.sup.tickEll = a.ell + 1 ∧
      z = { a with log := z.log, sup := z.sup, ctrs := z.ctrs, ha := z.ha } ∧
      z.ha = { a.ha with pace := z.ha.pace, noPace := z.ha.noPace } ∧ z.ctrs = (tickFec rep a).ctrs := by
  have hlog : tickLog (ticked a.ell a) = { ticked a.ell a with log := logged { a.log with fresh := [] } e } :=
    tickLog_one hfresh hold hroom hwm
  generalize logged { a.log with fresh := [] } e = l at hlog ⊢
  obtain ⟨pace, noPace, rd, src, paceOf, hrep⟩ := reported_eq rep l a
  have haudio' : (reported rep l a).audioOn = false := by rw [hrep]; exact haudio
  have hreqs' : (reported rep l a).sup.reqs = [] := by rw [hrep]; exact hreqs
  have hcfg : (reported rep l a).cfg = {} := by rw [hrep]; exact h.cfg
  rw [ellTick_stays h hlog htemps hcool (tickMode_noReq _ haudio' hreqs') haudio' hcfg, hrep]
  exact ⟨⟨rfl, rfl, rfl⟩, rfl, rfl, rfl, rfl, rfl⟩

/-- A quiet tick on which one request acts, a change to a mode in which the pipeline does not run. -/
theorem ellTick_changes (htemps : rep.temps = []) (hcool : a.sup.tj < tTrip a) (haudio : a.audioOn = false) {goTo : Mode} {cause : Nat}
    (hreqs : a.sup.reqs = [q]) (hfresh : a.log.fresh = []) (hvalid : reqValid a q = true) (hne : a.sup.mode ≠ goTo)
    (hgoTo : goTo = .test ∨ goTo = .configure) (hact : ∀ n b, ∃ ha, actReq n q b = setMode goTo cause { b with ha := ha }) :
    let z := ellTick rep a
    Sealed a z ∧ z.sup.mode = goTo ∧ z.sup.prev = a.sup.mode ∧ z.sup.reqs = [] ∧
      { gts := a.now, source := 15, code := 0xF80, d := [a.sup.mode.code, goTo.code, cause] } ∈ z.log.fresh := by
  obtain ⟨pace, noPace, rd, src, paceOf, hrep⟩ := reported_eq rep a.log a
  have haudio' : (reported rep a.log a).audioOn = false := by rw [hrep]; exact haudio
  have hreqs' : (reported rep a.log a).sup.reqs = [q] := by rw [hrep]; exact hreqs
  have hvalid' : reqValid (reported rep a.log a) q = true := by rw [hrep]; exact hvalid
  have hmode := tickMode_oneReq a.ell haudio' hreqs' hvalid'
  obtain ⟨ha, hset⟩ := hact a.ell ((reported rep a.log a).updSup fun u => { u with reqs := [] })
  rw [hset] at hmode
  obtain ⟨⟨hframe, -⟩, hevent⟩ := setMode_frame cause (goTo := goTo)
    (s := { (reported rep a.log a).updSup (fun u => { u with reqs := [] }) with ha := ha }) (by rw [hrep]; exact hne)
  generalize setMode goTo cause _ = b at hmode hframe hevent
  rw [hrep] at hframe hevent
  have hto : b.sup.mode = goTo := by rw [hframe]; rfl
  have hoff : b.audioOn = false := by obtain rfl | rfl := hgoTo <;> simp [audioOn, runMode, hto]
  have hcfg : b.cfg = {} := by rw [hframe]; exact h.cfg
  rw [ellTick_stays h (tickLog_empty hfresh) htemps hcool hmode hoff hcfg]
  refine ⟨?_, hto, ?_, ?_, hevent⟩ <;> rw [hframe]
  · exact ⟨rfl, rfl, rfl⟩
  · rfl
  · rfl

end

/-- The counters that RS-FEC moves for a port (R87). -/
theorem tickFec_counted {rep : EllReport} {p : Fin 4} {c u : Nat} (a : State) (h : rep.fec = [(p, c, u)]) :
    Counted a (tickFec rep a) (baseNP p.val + 0x248) c ∧ Counted a (tickFec rep a) (baseNP p.val + 0x24C) u := by
  have hfec : tickFec rep a = (a.bumpBy (baseNP p.val + 0x248) c).bumpBy (baseNP p.val + 0x24C) u := by
    unfold tickFec; rw [h]; rfl
  have hne : baseNP p.val + 0x248 ≠ baseNP p.val + 0x24C := by omega
  rw [hfec]
  unfold Counted
  constructor
  · rw [bumpBy_ctr_ne _ _ hne, bumpBy_ctr_same]
  · rw [bumpBy_ctr_same, bumpBy_ctr_ne _ _ hne.symm]

theorem tickFec_nil {rep : EllReport} (a : State) (h : rep.fec = []) : tickFec rep a = a := by
  rw [tickFec, h]; rfl

/-- A request for Test acts in another mode (R388). -/
theorem mode_ne_test_of_reqValid {s : State} {q : ModeReq} (h : reqValid s q = true) (hrank : q.rank = 63) : s.sup.mode ≠ .test := by
  intro hm
  rw [reqValid, hrank, hm] at h
  exact Bool.false_ne_true h

/-- A change to Configure acts in another mode (R388). -/
theorem mode_ne_configure_of_reqValid {s : State} {q : ModeReq} (h : reqValid s q = true) (hrank : q.rank = 90)
    (hgoTo : q.goTo = .configure) : s.sup.mode ≠ .configure := by
  intro hm
  rw [reqValid, hrank, hgoTo, hm] at h
  exact Bool.false_ne_true h

/-- Settles O38: a quiet tick comes to its log, its report, its trip or the change of mode, each of them by itself. -/
theorem theEllTickLogsTripsAndChangesTheMode : Obligations.TheEllTickLogsTripsAndChangesTheMode := by
  intro t rep s a
  refine ⟨fun hidle => idles_ellTick ?_, fun hdue hruns hha hcfg hload hrealign hreq hfw => ?_⟩
  · obtain htick | hm | hm | hm := hidle
    · exact .inl htick
    all_goals exact .inr (by rw [hm]; rfl)
  have hquiet : QuietTick a := ⟨hdue, hruns, hha, hcfg, hload, hrealign, hreq, hfw⟩
  have hdoes : ∀ {P : State → Prop}, Sealed a (ellTick rep a) ∧ P (ellTick rep a) → Does (.ellTick t rep) s P := by
    rintro P ⟨hsealed, hp⟩
    exact ⟨_, exec_ellTick hsealed, hp⟩
  refine ⟨fun x l htemps hfresh hhot => hdoes (ellTick_trips hquiet htemps hfresh hhot), fun htemps hcool haudio _ =>
    ⟨fun e hfresh hold hroom hwm hreqs => hdoes ?_, fun q hreqs hfresh hvalid _ _ =>
      ⟨fun hrank => hdoes ?_, fun hrank hgoTo => hdoes ?_⟩⟩⟩
  · obtain ⟨hsealed, hlog, htick, hframe, hha', hctrs⟩ := ellTick_logs hquiet htemps hcool haudio hfresh hold hroom hwm hreqs
    refine ⟨hsealed, hlog, htick, hframe, hha', fun p c u hfec => ?_, fun hfec => ?_⟩
    · obtain ⟨hc, hu⟩ := tickFec_counted a hfec
      unfold Counted ctr at *
      rw [hctrs]
      exact ⟨hc, hu⟩
    · rw [hctrs, tickFec_nil _ hfec]
  · exact ellTick_changes hquiet htemps hcool haudio hreqs hfresh hvalid (mode_ne_test_of_reqValid hvalid hrank) (.inl rfl)
      fun n b => ⟨_, by rw [actReq, hrank]; rfl⟩
  · exact ellTick_changes hquiet htemps hcool haudio hreqs hfresh hvalid (mode_ne_configure_of_reqValid hvalid hrank hgoTo) (.inr rfl)
      fun n b => ⟨b.ha, by rw [actReq, hrank, hgoTo]; rfl⟩
end Sys2Proof.Machine

namespace Sys2Proof.Machine

open Sys2Proof.Machine.State

/-! ### Operations behind the bus that pass the queue, the time and the fuses on -/

theorem begun_sealed (m : Master) (s : State) : Sealed s (begun m s) := by
  obtain ⟨h, e⟩ := begun_eq m s
  rw [e]; exact ⟨rfl, rfl, rfl⟩

theorem raise_sealed (s : State) (src code : Nat) (d : List Nat) (svc : Nat) : Sealed s (s.raise src code d svc) :=
  ⟨raise_pending .., raise_gts .., raise_fuses ..⟩

/-- An allowed operation that comes to `b`, and passes on what is sealed, answers `b`. -/
theorem act_guardWrite {t : Gts} {m : Master} {off : Nat} {f : State → State} {s b : State}
    (ha : allows m off true (s.advance t) = true) (hb : f (begun m (s.advance t)) = b) (h : Sealed (begun m (s.advance t)) b) :
    act t (guardWrite m off f) s = .next b :=
  act_of_sealed ((guardWrite_allowed ha).trans hb) (sealed_trans (begun_sealed m _) h)

/-- A request of one dword that is allowed acts on the state in which it began. -/
theorem guardAll_single {m : Master} {off : Nat} {f : State → State} {s : State} (h : allows m off true s = true) :
    guardAll m [off] f s = f (begun m s) := by
  simp only [guardAll, List.foldl_cons, List.foldl_nil, if_true, access_allowed h]

/-! ### Completion reports (R152, R275) -/

/-- A kind of completion report: its budget in hc, and the counter and the event of an overrun. -/
structure BlockReport where
  budget : Nat
  overruns : Nat
  source : Nat
  code : Nat

/-- The report of the Rate Chain (R152). -/
def rateReport : BlockReport := { budget := 12500, overruns := baseRC + 0x214, source := 9, code := 0x906 }

/-- The report of the Mix Fabric (R275). -/
def mixReport : BlockReport := { budget := 15000, overruns := baseMF + 0x218, source := 11, code := 0xB05 }

/-- What a report of `n` hc records of the Rate Chain. -/
def rateRecord (n : Nat) (s : State) : State :=
  { s with rc := { s.rc with doneEll := s.ell + 1, hcLast := satN 16 n, late := decide (rateReport.budget < n) },
           sup := { s.sup with rcExcess := n - rateReport.budget } }

/-- What a report of `n` hc records of the Mix Fabric. -/
def mixRecord (n : Nat) (s : State) : State :=
  { s with mf := { s.mf with doneEll := s.ell + 1, hcLast := satN 16 n, late := decide (mixReport.budget < n) },
           sup := { s.sup with mfExcess := n - mixReport.budget } }

namespace BlockReport

/-- A report of `n` hc, recorded in `b`, where the last one came at Ell `done - 1`: the first of an Ell counts while audio runs, and
one over the budget is also counted and logged. -/
def run (r : BlockReport) (done n : Nat) (b s : State) : State :=
  if ¬ s.audioOn ∨ done = s.ell + 1 then s
  else if r.budget < n then (b.bump r.overruns).raise r.source r.code [n] else b

variable {r : BlockReport} {done n : Nat} {b s : State}

theorem run_audioOff (h : s.audioOn = false) : r.run done n b s = s :=
  if_pos (.inl (by rw [h]; exact Bool.false_ne_true))

theorem run_first (hon : s.audioOn = true) (hdone : done ≠ s.ell + 1) :
    r.run done n b s = if r.budget < n then (b.bump r.overruns).raise r.source r.code [n] else b :=
  if_neg (not_or.mpr ⟨not_not_intro hon, hdone⟩)

/-- A first report is recorded, and over the budget it is counted and logged too. -/
theorem act_run_first {t : Gts} {f : State → State} (hf : f (s.advance t) = r.run done n b (s.advance t))
    (hon : (s.advance t).audioOn = true) (hdone : done ≠ (s.advance t).ell + 1) (hb : Sealed (s.advance t) b) :
    (n ≤ r.budget → act t f s = .next b) ∧
      (r.budget < n → act t f s = .next ((b.bump r.overruns).raise r.source r.code [n])) := by
  rw [run_first hon hdone] at hf
  refine ⟨fun hin => act_of_sealed ?_ hb, fun hover => act_of_sealed ?_ (sealed_trans hb (raise_sealed _ _ _ _ _))⟩
  · rw [hf, if_neg (Nat.not_lt.mpr hin)]
  · rw [hf, if_pos hover]

end BlockReport

theorem execRateChainComplete_eq (t : Gts) (hc : BitVec 32) : execRateChainComplete t hc =
    act t fun s => rateReport.run s.rc.doneEll hc.toNat (rateRecord hc.toNat s) s := rfl

theorem execMixComplete_eq (t : Gts) (hc : BitVec 32) : execMixComplete t hc =
    act t fun s => mixReport.run s.mf.doneEll hc.toNat (mixRecord hc.toNat s) s := rfl

theorem idles_rateChainComplete {t : Gts} {s : State} (hc : BitVec 32) (h : (s.advance t).audioOn = false) :
    Idles (.rateChainComplete t hc) t s :=
  (congrFun (execRateChainComplete_eq t hc) s).trans (act_of_sealed (BlockReport.run_audioOff h) (sealed_refl _))

theorem idles_mixComplete {t : Gts} {s : State} (hc : BitVec 32) (h : (s.advance t).audioOn = false) :
    Idles (.mixComplete t hc) t s :=
  (congrFun (execMixComplete_eq t hc) s).trans (act_of_sealed (BlockReport.run_audioOff h) (sealed_refl _))

/-- The first report of the Rate Chain in an Ell, within its budget and over it. -/
theorem exec_rateChainComplete_first {t : Gts} {s : State} (hc : BitVec 32) (hon : (s.advance t).audioOn = true)
    (hdone : (s.advance t).rc.doneEll ≠ (s.advance t).ell + 1) :
    let b := rateRecord hc.toNat (s.advance t)
    (hc.toNat ≤ 12500 → exec (.rateChainComplete t hc) s = .next b) ∧
      (12500 < hc.toNat → exec (.rateChainComplete t hc) s = .next ((b.bump (baseRC + 0x214)).raise 9 0x906 [hc.toNat])) := by
  have hexec : exec (.rateChainComplete t hc) s = execRateChainComplete t hc s := rfl
  rw [hexec, execRateChainComplete_eq]
  exact BlockReport.act_run_first (r := rateReport) rfl hon hdone ⟨rfl, rfl, rfl⟩

/-- The first report of the Mix Fabric in an Ell, within its budget and over it. -/
theorem exec_mixComplete_first {t : Gts} {s : State} (hc : BitVec 32) (hon : (s.advance t).audioOn = true)
    (hdone : (s.advance t).mf.doneEll ≠ (s.advance t).ell + 1) :
    let b := mixRecord hc.toNat (s.advance t)
    (hc.toNat ≤ 15000 → exec (.mixComplete t hc) s = .next b) ∧
      (15000 < hc.toNat → exec (.mixComplete t hc) s = .next ((b.bump (baseMF + 0x218)).raise 11 0xB05 [hc.toNat])) := by
  have hexec : exec (.mixComplete t hc) s = execMixComplete t hc s := rfl
  rw [hexec, execMixComplete_eq]
  exact BlockReport.act_run_first (r := mixReport) rfl hon hdone ⟨rfl, rfl, rfl⟩

/-! ### RC_CTRL and MF_CTRL (R149, R287) -/

/-- RC_RESET takes effect on what the structure names (R149). -/
theorem exec_rcReset {t : Gts} {m : Master} {i : BitVec 8} {s : State} (ha : allows m baseRC true (s.advance t) = true)
    (hrec : (begun m (s.advance t)).recNow tyRATE i.toNat ≠ none) :
    exec (.rcReset t m i) s =
      .next ((begun m (s.advance t)).setRate i.toNat { (begun m (s.advance t)).rate i.toNat with pend := some 2 }) :=
  act_guardWrite ha (if_pos (Option.isSome_iff_ne_none.mpr hrec)) ⟨rfl, rfl, rfl⟩

/-- A request taken or withdrawn: what pends is replaced, and nothing is deferred any more. -/
def mfPend (p : Option (Bool × Nat)) (s : State) : State :=
  { s with mf := { s.mf with pend := p, deferred := false, result := 0 } }

section
variable {t : Gts} {m : Master} {s : State}

/-- SWAP with nothing pending asks for a swap (R284). -/
theorem exec_swap_idle (ha : allows m baseMF true (s.advance t) = true) (h : (begun m (s.advance t)).mf.pend = none) :
    exec (.swap t m) s = .next (mfPend (some (false, (begun m (s.advance t)).ell)) (begun m (s.advance t))) :=
  act_guardWrite ha (if_neg (by rw [h]; exact Bool.false_ne_true)) ⟨rfl, rfl, rfl⟩

/-- SWAP over a pending swap is turned away with result 1 (R287). -/
theorem exec_swap_busy (ha : allows m baseMF true (s.advance t) = true) (h : (begun m (s.advance t)).mf.pend ≠ none) :
    exec (.swap t m) s = .next (mfResult 1 (begun m (s.advance t))) :=
  act_guardWrite ha (if_pos (Option.isSome_iff_ne_none.mpr h)) ⟨rfl, rfl, rfl⟩

/-- FORCE with no forced swap pending asks for one, and no bus blocks it (R286). -/
theorem exec_force_unforced (ha : allows m baseMF true (s.advance t) = true)
    (h : ∀ n, (begun m (s.advance t)).mf.pend ≠ some (true, n)) :
    exec (.force t m) s = .next (unblock (mfPend (some (true, (begun m (s.advance t)).ell)) (begun m (s.advance t)))) := by
  refine act_guardWrite ha ?_ ⟨rfl, rfl, rfl⟩
  split
  · next n hn => exact absurd hn (h n)
  · rfl

/-- FORCE over a forced swap is turned away with result 1 (R287). -/
theorem exec_force_busy {n : Nat} (ha : allows m baseMF true (s.advance t) = true)
    (h : (begun m (s.advance t)).mf.pend = some (true, n)) :
    exec (.force t m) s = .next (mfResult 1 (begun m (s.advance t))) :=
  act_guardWrite ha (by simp only [h]) ⟨rfl, rfl, rfl⟩

/-- CANCEL with nothing pending is turned away with result 2 (R287). -/
theorem exec_cancel_idle (ha : allows m baseMF true (s.advance t) = true) (h : (begun m (s.advance t)).mf.pend = none) :
    exec (.cancel t m) s = .next (mfResult 2 (begun m (s.advance t))) :=
  act_guardWrite ha (by simp only [h]) ⟨rfl, rfl, rfl⟩

/-- CANCEL withdraws the pending swap and logs the Ell of its acceptance (R287). -/
theorem exec_cancel_pending {f : Bool} {n : Nat} (ha : allows m baseMF true (s.advance t) = true)
    (h : (begun m (s.advance t)).mf.pend = some (f, n)) :
    exec (.cancel t m) s = .next ((unblock (mfPend none (begun m (s.advance t)))).raise 11 0xB06 [n % 2 ^ 32]) :=
  act_guardWrite ha (by simp only [h]; rfl) (raise_sealed (unblock (mfPend none _)) _ _ _ _)

end

/-! ### Coefficient windows (R280, R281) -/

/-- Word `k` of a bank takes `v`, and its entry is no longer lost. -/
def coefPut (bank k : Nat) (v : Word) (s : State) : State :=
  s.updMf fun m => { m with
    coef := tset 0 m.coef (bank * 2 ^ 18 + k) v, lost := m.lost.filter fun x => x != bank * 2 ^ 17 + k / 2 }

/-- The word reads back at its entry. -/
theorem coefPut_coefWord_same (bank k : Nat) (v : Word) (s : State) : coefWord (coefPut bank k v s) bank (k / 2) (k % 2) = v.toNat := by
  have hkey : coefKey bank (k / 2) (k % 2) = bank * 2 ^ 18 + k := by unfold coefKey; omega
  rw [coefWord, hkey]
  exact congrArg BitVec.toNat (tget_tset_same _ _ _ _)

/-- Every other word of the banks stays. -/
theorem coefPut_coefWord_ne {bank k bank' x i : Nat} (v : Word) (s : State) (hk : k < 2 ^ 18) (hi : i < 2) (hx : x < 2 ^ 17)
    (h : bank' ≠ bank ∨ 2 * x + i ≠ k) : coefWord (coefPut bank k v s) bank' x i = coefWord s bank' x i := by
  have hkey : coefKey bank' x i ≠ bank * 2 ^ 18 + k := by unfold coefKey; omega
  exact congrArg BitVec.toNat (tget_tset_ne _ _ _ hkey)

theorem coefPut_sealed (bank k : Nat) (v : Word) (s : State) : Sealed s (coefPut bank k v s) := ⟨rfl, rfl, rfl⟩

/-- Only the table of words and the list of lost entries change. -/
theorem coefPut_frame (bank k : Nat) (v : Word) (s : State) :
    coefPut bank k v s = { s with mf := { s.mf with coef := (coefPut bank k v s).mf.coef, lost := (coefPut bank k v s).mf.lost } } :=
  rfl

theorem coefPut_lost (bank k : Nat) (v : Word) (s : State) :
    (coefPut bank k v s).mf.lost.contains (bank * 2 ^ 17 + k / 2) = false := by
  simp [coefPut]

/-- A bank has 2^18 words. -/
theorem coefIndex_lt (off : Nat) : (off - 0x600000) % 0x100000 / 4 < 2 ^ 18 := by omega

/-- A word for the active bank, or for any bank while a swap pends, is counted and dropped. -/
theorem coefStore_claimed {off : Nat} {s : State} (w : Word)
    (h : (off - 0x600000) / 0x100000 = s.mf.active ∨ s.mf.pend ≠ none) : coefStore off w s = s.bump (baseMF + 0x21C) :=
  if_pos (h.imp_right Option.isSome_iff_ne_none.mpr)

/-- A word for an inactive, unclaimed bank is stored under the bits of its kind. -/
theorem coefStore_free {off : Nat} {s : State} (w : Word) (hbank : (off - 0x600000) / 0x100000 ≠ s.mf.active) (hpend : s.mf.pend = none) :
    coefStore off w s = coefPut ((off - 0x600000) / 0x100000) ((off - 0x600000) % 0x100000 / 4)
      (if (off - 0x600000) % 0x100000 / 4 % 2 = 0 then w &&& 0xFFFFFF00 else w &&& 0x80000FFF) s :=
  if_neg (not_or.mpr ⟨hbank, by rw [hpend]; exact Bool.false_ne_true⟩)

/-- The offsets that lie in the coefficient windows (R423). -/
def inCoefWindow (off : Nat) : Bool := decide (0x600000 ≤ off) && decide (off < 0x800000)

/-- The words of a request that lie in the windows, each with its offset. -/
def coefWords (off : Nat) (data : List Word) : List (Nat × Word) :=
  ((data.zipIdx).map fun e => (off + 4 * e.2, e.1)).filter fun e => inCoefWindow e.1

/-- A request decided at once, whose words act one after another. It is stated for any `f`, so that no proof about it unfolds what a
word does. -/
def guardWords (m : Master) (ws : List (Nat × Word)) (f : Nat → Word → State → State) : State → State :=
  guardAll m (ws.map (·.1)) fun s => ws.foldl (fun s e => f e.1 e.2 s) s

theorem opCoefWrite_eq (m : Master) (off : Nat) (data : List Word) :
    opCoefWrite m off data = guardWords m (coefWords off data) coefStore := rfl

theorem coefWords_single {off : Nat} (w : Word) (h : inCoefWindow off = true) : coefWords off [w] = [(off, w)] :=
  List.filter_cons_of_pos h

theorem guardWords_single (m : Master) (off : Nat) (w : Word) (f : Nat → Word → State → State) :
    guardWords m [(off, w)] f = guardAll m [off] (f off w) := rfl

/-- An allowed write of one word of the windows comes to `coefStore`. -/
theorem exec_coefWrite_single {t : Gts} {m : Master} {off : Off} {w : Word} {s b : State}
    (ha : allows m off.toNat true (s.advance t) = true) (hlo : 0x600000 ≤ off.toNat) (hhi : off.toNat < 0x800000)
    (hb : coefStore off.toNat w (begun m (s.advance t)) = b) (h : Sealed (begun m (s.advance t)) b) :
    exec (.coefWrite t m off [w]) s = .next b := by
  have hwin : inCoefWindow off.toNat = true := Bool.and_eq_true_iff.mpr ⟨decide_eq_true hlo, decide_eq_true hhi⟩
  have hop : opCoefWrite m off.toNat [w] (s.advance t) = b := by
    rw [opCoefWrite_eq, coefWords_single w hwin, guardWords_single, guardAll_single ha, hb]
  exact act_of_sealed hop (sealed_trans (begun_sealed m _) h)

/-! ### Settled -/

/-- Settles O40: both reports have one shape; every operation acts on the state in which its request began; and a coefficient word is
a write of one key of the table. -/
theorem blockReportsAndCoefficientBanks : Obligations.BlockReportsAndCoefficientBanks := by
  intro t m s a g
  refine ⟨fun hc => ⟨fun hoff => ⟨idles_rateChainComplete hc hoff, idles_mixComplete hc hoff⟩,
      fun hon => ⟨exec_rateChainComplete_first hc hon, exec_mixComplete_first hc hon⟩⟩,
    fun ha i hrec => exec_rcReset ha hrec,
    fun ha => ⟨exec_swap_idle ha, exec_swap_busy ha, exec_force_unforced ha, fun n => exec_force_busy ha, exec_cancel_idle ha,
      fun f n => exec_cancel_pending ha⟩,
    fun off w => ?_⟩
  intro o bank k ha hlo hhi
  refine ⟨fun hclaimed => exec_coefWrite_single ha hlo hhi (coefStore_claimed w hclaimed) ⟨rfl, rfl, rfl⟩, fun hbank hpend =>
    ⟨_, exec_coefWrite_single ha hlo hhi (coefStore_free w hbank hpend) (coefPut_sealed ..), ?_, ?_, ?_, ?_⟩⟩
  · exact coefPut_coefWord_same ..
  · exact fun bank' x i hi hx hne => coefPut_coefWord_ne _ _ (coefIndex_lt _) hi hx hne
  · exact coefPut_lost ..
  · exact coefPut_frame ..

end Sys2Proof.Machine
